-- ==== Sys2Proof/Word.lean ====
section
/-!
DEFINITION. The widths of the machine: the 64-bit word, the vector and mask registers (R59, R63), and signed reading.
-/
namespace Sys2Proof

/-- A register word, a GVA, a system register (R59, R205). -/
abbrev Word := BitVec 64
/-- One byte of memory. -/
abbrev Byte := BitVec 8
/-- A vector register: 512 bytes (R63). -/
abbrev VecVal := BitVec 4096
/-- A mask register: one bit for each element number (R63). -/
abbrev MaskVal := BitVec 1024

/-- A Boolean as the word 1 or 0. -/
def boolWord (b : Bool) : Word := if b then 1 else 0

end Sys2Proof
end

