-- ==== Sys2Proof/Syntax.lean ====
section
/-!
DEFINITION. The steps of the machine: one constructor for each row of spec/opcode_table.json. The first part of `Instr`
are the C words (R52), the second the A words (R53), the third the events, each with the data it brings.
-/
namespace Sys2Proof

abbrev XReg := BitVec 5
abbrev VReg := BitVec 4
abbrev MReg := BitVec 3
abbrev GReg := BitVec 4

/-- Vector element types, the et codes of R49. -/
inductive Et where
  | f64 | f32 | bf16 | f16 | e4m3 | e5m2 | e2m1 | i32 | i16 | i8 | i4
  deriving DecidableEq, Repr

/-- Formats of the scalar floating-point instructions, the fs codes of R49. -/
inductive Fs where
  | f64 | f32 | f16 | bf16
  deriving DecidableEq, Repr

/-- The dt and st codes of FCVT (R49). -/
inductive Ct where
  | f64 | f32 | f16 | bf16 | i64 | u64 | i32 | u32
  deriving DecidableEq, Repr

/-- Rounding codes (R49); `dyn` is 111, the mode in FMODE (or, in VXP, no override). -/
inductive Rm where
  | rne | rtz | rup | rdn | rna | dyn
  deriving DecidableEq, Repr

/-- Ordering codes of loads (R49). -/
inductive LdOrd where
  | plain | acq | inv
  deriving DecidableEq, Repr

/-- Ordering codes of stores (R49). -/
inductive StOrd where
  | plain | rel
  deriving DecidableEq, Repr

/-- Ordering codes of atomics (R49). -/
inductive AmoOrd where
  | plain | acq | rel | ar
  deriving DecidableEq, Repr

/-- Sizes of LD and ST (R49). -/
inductive MemSize where
  | b | h | w | d
  deriving DecidableEq, Repr

/-- Conditions of FCMP (R93). -/
inductive FCc where
  | eq | lt | le | un
  deriving DecidableEq, Repr

/-- Conditions of VCMP (R153). -/
inductive VCc where
  | eq | ne | lt | le | gt | ge | un
  deriving DecidableEq, Repr

/-- Operations of VREDR and VREDC (R158). -/
inductive RedOp where
  | add | max | min
  deriving DecidableEq, Repr

/-- Scopes (R223, R260). -/
inductive Scope where
  | strand | core | tile | cluster | die | package | system
  deriving DecidableEq, Repr

/-- Kinds of FENCE (R230). -/
inductive FenceKind where
  | acq | rel | ar
  deriving DecidableEq, Repr

/-- KIND of an active message (R333); four codes are reserved. -/
inductive MsgKind where
  | request | reply | refusal | resetAgent
  | reserved (code : BitVec 2)
  deriving DecidableEq, Repr

/-- An active message (R333): header fields, handler address and arguments. `tag = none` is TAG 0x3FF; `seq` is the model's own
number of the message among what its core has set off, for the orders of R239 and R244. -/
structure Msg where
  dest : Nat
  src : Nat
  asid : BitVec 16
  wld : Bool
  kind : MsgKind
  gen : BitVec 16
  guard : BitVec 4
  ssn : Nat
  tag : Option Nat
  seq : Nat
  opc : BitVec 16
  addr : Word
  ha : Word
  a0 : Word
  a1 : Word
  a2 : Word
  a3 : Word
  deriving DecidableEq, Repr

/-- The engine a command is for (R340): the engine kind and the number of its tile (EID/2) or cluster (EID/32). -/
inductive EngRef where
  | copy (tile : Nat)
  | matrix (tile : Nat)
  | gather (cluster : Nat)
  | sortc (cluster : Nat)
  deriving DecidableEq, Repr

/-- A collective's kind, bits 6:4 of the SITE lane (R174). -/
inductive CollKind where
  | cbr | cvoteAnd | cvoteOr | cmem | gbar
  deriving DecidableEq, Repr

/-- The lanes of the reduction, each as its AND and its OR (R172). -/
structure Lanes where
  seqAnd : BitVec 16
  seqOr : BitVec 16
  siteAnd : BitVec 7
  siteOr : BitVec 7
  pAnd : Bool
  pOr : Bool
  dOr : Bool
  deriving DecidableEq, Repr

/-- What reaches a strand's EXTERNAL line (R114): the strand, and the word that supervisor software posts, or none where a word posted
before is looked at again. -/
structure Post where
  sid : Nat
  word : Option Word
  deriving DecidableEq, Repr

/-- A value of VCHAIN or VXMAX on its way (R160): the header of its active message, exchange number, kind and payload. -/
structure Xchg where
  msg : Msg
  chain : Bool
  num : Nat
  total : Bool
  et : Et
  rlog : Nat
  vals : List Word
  deriving DecidableEq, Repr

/-- The strand that sends a value, and the one of the same number that receives it (R160). -/
def Xchg.src (x : Xchg) : Nat := 4 * x.msg.src + x.msg.ssn
def Xchg.dst (x : Xchg) : Nat := 4 * x.msg.dest + x.msg.ssn

/-- Source of a launch packet (R402). -/
inductive LaunchSrc where
  | job (asid : Nat)
  | peer (pkg : Nat)
  | host (fn : Nat)
  deriving DecidableEq, Repr

/-- A request between launch units (R363). -/
inductive ResvOp where
  | reserve | commit | release
  deriving DecidableEq, Repr

/-- What makes a fetched unit, or a table command, malformed (R38, R40, R369). -/
inductive EncFault where
  | cWord | aWord | pair | misaligned
  | tableCmd (die : Nat)
  deriving DecidableEq, Repr

/-- What the power manager may set (R418). -/
inductive PmSetting where
  | pool | pcap | rf
  | refill (cluster : Nat)
  | belowNominal (cluster : Nat)
  deriving DecidableEq, Repr

/-- The kind of request that meets an unmapped page (R374), and whether it is a write. -/
inductive FaultKind where
  | load | atomic | store | engine | engineWrite | table | host
  deriving DecidableEq, Repr

/-- A register that is written without a row of its own (R209, R440-R442): a word of a cluster's control page, XTGT of a function,
a word of a launch window, a word of the management mailbox, the mask, address or data of an MSI-X vector, the next word of a DOE request, or
the mark that it is whole (R447). -/
inductive RegRef where
  | control (cluster off : Nat)
  | xtgt (pkg fn : Nat)
  | window (pkg fn q word : Nat)
  | mailbox (pkg word : Nat)
  | msixMask (pkg fn vec : Nat)
  | msixAddr (pkg fn vec : Nat)
  | msixData (pkg fn vec : Nat)
  | doeWord (pkg : Nat)
  | doeGo (pkg : Nat)
  deriving DecidableEq, Repr

/-- A flit slot as the receiver sees it (R430): whether its tag holds, and its link header with its payload. TYPE is 0 idle, 1 message,
2 rekey marker. -/
structure Flit where
  intact : Bool
  typ : BitVec 4
  seq : BitVec 12
  ack : BitVec 12
  nak : Bool
  cred : BitVec 35
  body : Nat
  deriving DecidableEq, Repr

/-- One step of the machine: a row of spec/opcode_table.json. A strand is named by 4*EID + SNUM. -/
inductive Instr where
  -- system, yielding, semaphores (R106-R117)
  | nop
  | nopA
  | yield
  | wfe
  | eret
  | lexit (lv : Bool)
  | trap (imm : BitVec 12)
  | srd (d : XReg) (n : BitVec 12)
  | swr (n : BitVec 12) (a : XReg)
  | semsig (s : BitVec 3) (a : XReg)
  | semwait (s : BitVec 3)
  | vxp (mk : MReg) (mz : Bool) (rmo : Rm) (vce : Bool) (vc : VReg)
  -- integer and address (R79-R86)
  | add (d a b : XReg)
  | sub (d a b : XReg)
  | and (d a b : XReg)
  | or (d a b : XReg)
  | xor (d a b : XReg)
  | sll (d a b : XReg)
  | srl (d a b : XReg)
  | sra (d a b : XReg)
  | slt (d a b : XReg)
  | sltu (d a b : XReg)
  | min (d a b : XReg)
  | max (d a b : XReg)
  | minu (d a b : XReg)
  | maxu (d a b : XReg)
  | mul (d a b : XReg)
  | mulh (d a b : XReg)
  | mulhu (d a b : XReg)
  | div (d a b : XReg)
  | divu (d a b : XReg)
  | rem (d a b : XReg)
  | remu (d a b : XReg)
  | gaddr (d a b : XReg)
  | clz (d a : XReg)
  | popc (d a : XReg)
  | bswap (d a : XReg)
  | sext8 (d a : XReg)
  | sext16 (d a : XReg)
  | sext32 (d a : XReg)
  | zext8 (d a : XReg)
  | zext16 (d a : XReg)
  | zext32 (d a : XReg)
  | adds (d a b : XReg) (sh : BitVec 3)
  | addi (d a : XReg) (imm : BitVec 12)
  | andi (d a : XReg) (imm : BitVec 12)
  | ori (d a : XReg) (imm : BitVec 12)
  | xori (d a : XReg) (imm : BitVec 12)
  | slti (d a : XReg) (imm : BitVec 12)
  | slli (d a : XReg) (n : BitVec 6)
  | srli (d a : XReg) (n : BitVec 6)
  | srai (d a : XReg) (n : BitVec 6)
  | lui (d : XReg) (imm : BitVec 17)
  -- branches, calls, loops (R97-R106)
  | beq (a b : XReg) (off : BitVec 12)
  | bne (a b : XReg) (off : BitVec 12)
  | blt (a b : XReg) (off : BitVec 12)
  | bge (a b : XReg) (off : BitVec 12)
  | bltu (a b : XReg) (off : BitVec 12)
  | bgeu (a b : XReg) (off : BitVec 12)
  | j (off : BitVec 22)
  | call (off : BitVec 22)
  | jr (a : XReg)
  | callr (a : XReg)
  | ret
  | loop (lv : Bool) (cnt : BitVec 12) (len : BitVec 9)
  | loopr (lv : Bool) (a : XReg) (len : BitVec 9)
  -- collectives and guards (R177-R187)
  | cbr (a : XReg) (g : GReg) (tag : BitVec 4) (off : BitVec 9)
  | cvoteAnd (d a : XReg) (tag : BitVec 4)
  | cvoteOr (d a : XReg) (tag : BitVec 4)
  | cmem (d a : XReg)
  | gbar
  | cbar
  | galloc (g : GReg)
  | gset (g : GReg) (a : XReg)
  | gres (g : GReg)
  -- tasks (R308-R320)
  | spawn (off : BitVec 22)
  | pubf (a : XReg)
  | tend
  | sync
  | wpush (a b : XReg)
  | wpop (d : XReg)
  | donate (a b : XReg)
  | dpull (d a : XReg)
  | quiet (d : XReg)
  -- memory (R251-R263); the register pairs of LDQ, STQ and CASQ are named by half their even number
  | ld (t b : XReg) (sz : MemSize) (ord : LdOrd) (off : BitVec 8)
  | st (t b : XReg) (sz : MemSize) (ord : StOrd) (off : BitVec 8)
  | ldq (t : BitVec 4) (b : XReg) (ord : LdOrd) (off : BitVec 8)
  | stq (t : BitVec 4) (b : XReg) (ord : StOrd) (off : BitVec 8)
  | ldv (d : VReg) (a b : XReg) (ord : LdOrd)
  | stv (d : VReg) (a b : XReg) (ord : StOrd)
  | ldm (d : MReg) (a : XReg) (ord : LdOrd)
  | stm (d : MReg) (a : XReg) (ord : StOrd)
  | amoAdd (d a b : XReg) (dbl : Bool) (ord : AmoOrd)
  | amoAnd (d a b : XReg) (dbl : Bool) (ord : AmoOrd)
  | amoOr (d a b : XReg) (dbl : Bool) (ord : AmoOrd)
  | amoXor (d a b : XReg) (dbl : Bool) (ord : AmoOrd)
  | amoMin (d a b : XReg) (dbl : Bool) (ord : AmoOrd)
  | amoMax (d a b : XReg) (dbl : Bool) (ord : AmoOrd)
  | amoMinu (d a b : XReg) (dbl : Bool) (ord : AmoOrd)
  | amoMaxu (d a b : XReg) (dbl : Bool) (ord : AmoOrd)
  | amoSwap (d a b : XReg) (dbl : Bool) (ord : AmoOrd)
  | amoFadd (d a b : XReg) (dbl : Bool) (ord : AmoOrd)
  | cas (d a b : XReg) (dbl : Bool) (ord : AmoOrd)
  | casq (d : BitVec 4) (a : XReg) (b : BitVec 4) (ord : AmoOrd)
  | fence (sc : Scope) (k : FenceKind)
  | pf (a : XReg) (w : Bool)
  | cfl (a : XReg)
  | czero (a : XReg)
  -- tables (R389-R401)
  | sld (d a : XReg) (e : BitVec 8)
  | sst (d a : XReg) (e : BitVec 8)
  | sldv (d : VReg) (a : XReg) (e : BitVec 8)
  | shloc (d a : XReg) (e : BitVec 8)
  | shwr (a : XReg) (e : BitVec 8)
  | shswap (e : BitVec 8)
  | objdef (d a : XReg)
  | objdrop (a : XReg)
  | mapq (d a : XReg)
  | rlq (d a : XReg)
  -- messages, engines, rings, mailboxes (R337-R362)
  | amsend (d a b : XReg)
  | amret (a : XReg)
  | launch (d a b : XReg)
  | eng (d a : XReg) (g : BitVec 4)
  | copy (d a b : XReg) (g : BitVec 4)
  | gath (d a b : XReg) (g : BitVec 4)
  | scat (d a b : XReg) (g : BitVec 4)
  | mcast (d a b : XReg) (g : BitVec 4)
  | sortc (d a b : XReg) (g : BitVec 4)
  | ringi (n : BitVec 3) (a b : XReg)
  | ringa (n : BitVec 3) (a : XReg)
  | ringq (d : XReg) (n : BitVec 3)
  | mbxpost (a b : XReg)
  | mbxread (d a : XReg)
  | mbxclr (a : XReg)
  | cbpost (d a b : XReg)
  | cbtake (d a : XReg)
  -- matrix (R275-R292) and counters (R408-R416)
  | mwl (d a b : XReg) (g : BitVec 4)
  | mwls (d a b : XReg) (g : BitVec 4)
  | mma (d a b : XReg) (g : BitVec 4)
  | mgrp (d a b : XReg) (g : BitVec 4)
  | macz (d a b : XReg) (g : BitVec 4)
  | mdrain (d a b : XReg) (g : BitVec 4)
  | mwait (a : XReg)
  | jdec (d a : XReg)
  | boost (a : XReg)
  | etq (d a : XReg)
  -- A words: scalar floating point (R91-R96)
  | fadd (d a b : XReg) (rm : Rm) (fs : Fs)
  | fsub (d a b : XReg) (rm : Rm) (fs : Fs)
  | fmul (d a b : XReg) (rm : Rm) (fs : Fs)
  | fdiv (d a b : XReg) (rm : Rm) (fs : Fs)
  | fmin (d a b : XReg) (fs : Fs)
  | fmax (d a b : XReg) (fs : Fs)
  | fsqrt (d a : XReg) (rm : Rm) (fs : Fs)
  | fclass (d a : XReg) (fs : Fs)
  | ffma (d a b c : XReg) (rm : Rm) (single : Bool)
  | fcmp (cc : FCc) (d a b : XReg) (fs : Fs)
  | fcvt (d a : XReg) (dt st : Ct) (rm : Rm)
  | fsin (d a : XReg) (single : Bool)
  | fcos (d a : XReg) (single : Bool)
  | fexp2 (d a : XReg) (single : Bool)
  | flog2 (d a : XReg) (single : Bool)
  | frcp (d a : XReg) (single : Bool)
  | frsq (d a : XReg) (single : Bool)
  -- A words: vector (R149-R167)
  | vadd (d a b : VReg) (et : Et)
  | vsub (d a b : VReg) (et : Et)
  | vmul (d a b : VReg) (et : Et)
  | vfma (d a b : VReg) (et : Et)
  | vfms (d a b : VReg) (et : Et)
  | vmin (d a b : VReg) (et : Et)
  | vmax (d a b : VReg) (et : Et)
  | vabs (d a : VReg) (et : Et)
  | vneg (d a : VReg) (et : Et)
  | vdiv (d a b : VReg) (et : Et)
  | vsqrt (d a : VReg) (et : Et)
  | vand (d a b : VReg) (et : Et)
  | vor (d a b : VReg) (et : Et)
  | vxor (d a b : VReg) (et : Et)
  | vnot (d a : VReg) (et : Et)
  | vshl (d a b : VReg) (et : Et)
  | vshr (d a b : VReg) (et : Et)
  | vsra (d a b : VReg) (et : Et)
  | vcmp (cc : VCc) (d : MReg) (a b : VReg) (et : Et)
  | vsel (d a b : VReg) (n : MReg) (et : Et)
  | vmov (d a : VReg) (et : Et)
  | vbcast (d : VReg) (a : XReg) (et : Et)
  | vextr (d : XReg) (a : VReg) (b : XReg)
  | viota (d : VReg) (et : Et)
  | vtrn (d a : VReg) (et : Et)
  | vredr (op : RedOp) (d a : VReg) (et : Et)
  | vredc (op : RedOp) (d a : VReg) (et : Et)
  | vchain (d a b : VReg) (et : Et)
  | vcvt (d a : VReg) (et : Et)
  | vqnt (d a b : VReg) (et : Et)
  | vdqnt (d a b : VReg) (et : Et)
  | vxmax (d a : VReg) (et : Et)
  | vexp2 (d a : VReg) (et : Et)
  | vlog2 (d a : VReg) (et : Et)
  | vrcp (d a : VReg) (et : Et)
  | vrsq (d a : VReg) (et : Et)
  | vsin (d a : VReg) (et : Et)
  | vcos (d a : VReg) (et : Et)
  | mand (d a b : MReg)
  | mor (d a b : MReg)
  | mxor (d a b : MReg)
  | mnot (d a : MReg)
  | mpopc (d : XReg) (a : MReg)
  | mfirst (d : XReg) (a : MReg)
  -- events: strands and traps
  | loadWaitSwitch (sid : Nat)
  | watchdog (eid : Nat)
  | external (p : Post)
  | preemptDeadline (job : Nat)
  | dormantDispatch (eid : Nat)
  | delegatedDispatch (sid : Nat)
  | delegatedReload (sid : Nat)
  -- events: messages
  | loadHandler (m : Msg)
  | storeHandler (m : Msg)
  | atomicHandler (m : Msg)
  | casHandler (m : Msg)
  | joinDecrement (m : Msg)
  | mailboxInsert (m : Msg)
  | ringAdvance (m : Msg)
  | ringAdvanceDeferred (tile ring : Nat)
  | semaphoreSignal (m : Msg)
  | exchange (x : Xchg)
  | subByteStore (m : Msg)
  | softwareMessage (m : Msg)
  | reply (m : Msg)
  | refusal (m : Msg)
  | resetAgent (die agent : Nat)
  -- events: engines
  | engineCommand (m : Msg)
  | engineCommandStart (e : EngRef)
  | engineCompletion (e : EngRef) (tag : Nat)
  | matrixPanelLatch (tile : Nat)
  | matrixRowEntry (tile : Nat)
  | matrixRowAccumulate (tile : Nat)
  | matrixTagComplete (tile tag : Nat)
  | engineFaultTaken (sid : Nat)
  | ringStallStop (tile : Nat)
  | drainRow (tile : Nat)
  -- events: collectives
  | collectiveContribution (job member : Nat) (l : Lanes)
  | dieLanes (job die : Nat)
  | planeReduction (job : Nat)
  | collectiveOutcome (sid : Nat)
  | heldStoreDrain (sid : Nat)
  | cbarComplete (job cluster : Nat)
  | departureApplied (cluster : Nat)
  -- events: control registers
  | mdepWrite (cluster : Nat) (val : Word)
  | cfsumWrite (cluster : Nat) (val : Word)
  | slcfgWrite (cluster : Nat) (val : Word)
  | slcfgDone (cluster : Nat)
  | registerWrite (r : RegRef) (val : Word)
  -- events: stealing
  | stealProbe (eid : Nat)
  | stealRoundTimer (eid : Nat)
  | theft (thief victim probe : Nat)
  | stolenRecordStart (sid : Nat)
  | syncPoll (sid : Nat)
  | tokenPass (job : Nat)
  -- events: faults and tables
  | sideLogRetire (sid : Nat) (gva : Word) (size : Nat) (data : Nat) (rel : Bool)
  | sideLogReplay (eid : Nat) (region : Nat)
  | faultOpen (sid : Nat) (gva : Word) (k : FaultKind)
  | tlbWalk (asid : Nat) (gva : Word)
  | dirtyLogMerge (eid : Nat)
  | inval (die : Nat)
  | resolve (die : Nat)
  | migrate (die : Nat)
  | migrateCommit (die slot : Nat)
  | scrub (die : Nat)
  | wsync (die : Nat)
  -- events: launch
  | doorbell (pkg fn q : Nat)
  | launchPacketArrival (pkg q : Nat) (src : LaunchSrc) (ret : Option (Nat × Nat)) (words : List Word)
  | placementTick (pkg : Nat)
  | launchRetry (pkg q : Nat)
  | placementReservation (pkg from_ q : Nat) (op : ResvOp) (cores : Nat)
  | residence (pkg q : Nat)
  | contextSave (job : Nat)
  | jobCompletion (job : Nat)
  | kill (job : Nat)
  -- events: power
  | energyRefill (cluster : Nat)
  | energyCharge (cluster : Nat)
  | headCharge (cluster : Nat)
  | boostBoundary (pkg : Nat)
  | hotMark (cluster : Nat) (on : Bool)
  | clockSwitch (cluster : Nat)
  | quiesceTimeout (cluster : Nat)
  | clusterGate (cluster : Nat)
  | clusterWake (cluster : Nat)
  | vernierMeasure (cluster hours : Nat)
  | almanacWrite (pkg : Nat)
  | patrolScrub (granule : Nat) (uncorrectable : Bool)
  | powerLimitCrossing (pkg : Nat) (above : Bool)
  | powerManagerSetting (pkg : Nat) (what : PmSetting) (val : Nat)
  -- events: links
  | flitSlot (pkg port : Nat)
  | flitReceive (pkg port : Nat) (f : Flit)
  | replayTimeout (pkg port : Nat)
  | retrain (pkg port : Nat)
  | retrainDone (pkg port : Nat)
  | portDown (pkg port : Nat)
  | rekey (pkg port : Nat) (transmit : Bool)
  -- events: host and management
  | hostAccess (pkg h size : Nat) (wr : Option Nat)
  | hostSectorWriteback (pkg h : Nat) (mask : BitVec 64) (data : BitVec 512)
  | xword (pkg fn : Nat) (val : Word)
  | msixUnmask (pkg fn vec : Nat)
  | readAlmanac (pkg : Nat)
  | checkpoint (pkg : Nat)
  | checkpointKillTimeout (pkg job : Nat)
  | checkpointComplete (pkg : Nat)
  | inputPowerLoss (pkg : Nat)
  | restore (pkg : Nat)
  | setPlim (pkg : Nat)
  | spdm (pkg : Nat)
  | setPlane (pkg : Nat)
  | loadImage (pkg : Nat)
  | powerUp (pkg : Nat)
  | readySet (pkg bit : Nat)
  | bringupFailure (pkg bit : Nat)
  | bringupFailureTimeout (pkg bit : Nat)
  | accessPerformed (eid acc : Nat)
  | reservedEncoding (why : EncFault)
  deriving DecidableEq, Repr

end Sys2Proof
end

