-- ==== Sys2Proof/Config.lean ====
section
/-!
DEFINITION. The free values: results and choices that the spec leaves open. A free value has no body, so nothing can be proved of it. With
them, what the management core's data say whose layout the spec does not give: firmware images (R445) and the descriptor of a checkpoint
(R448).
-/
namespace Sys2Proof.Config

/-- A firmware image (R445): the root key it names, its security version number, the digest in its header, its signature and its body. -/
structure Firmware where
  key : Nat
  svn : Nat
  digest : Nat
  sig : Nat
  body : Nat
  deriving DecidableEq, Repr, Inhabited

/-- A range of the safe tier (R448): the ASID and world of its accesses, its first byte and its length. -/
structure TierRange where
  asid : BitVec 16
  wld : Bool
  gva : Word
  len : Nat
  deriving DecidableEq, Repr, Inhabited

/-- What a checkpoint descriptor says (R448): the arm flag and the ranges. -/
structure Tier where
  arm : Bool
  ranges : List TierRange
  deriving DecidableEq, Repr, Inhabited

/-- SHA-384 of a body or key, of an image of units, and whether an ECDSA P-384 signature of an image header verifies under a key (R445,
R448). -/
opaque sha384 : Nat → Nat
opaque imageDigest : List Nat → Nat
opaque verifies : Nat → Nat → Nat → Nat → Bool

/-- What a package's fuses hold (R445): the security version number, and of each of four slots the digest and whether it is revoked. -/
opaque fuseSvn : Nat → Nat
opaque fuseSlot : Nat → Nat → Nat × Bool

/-- The image that stands in a package's image slot from the factory, and the one that the data of LOAD_IMAGE bring (R445). -/
opaque factoryImage : Nat → Nat → Firmware
opaque imageIn : List Word → Firmware

/-- The device identity key of a package, and the alias key that the ROM derives from it and the image it runs (R445). -/
opaque identity : Nat → Nat
opaque alias_ : Nat → Nat → Nat

/-- The descriptor in the data of CHECKPOINT or RESTORE; the manifest of an image signed with an alias key, which lists the jobs killed; and
whether a manifest holds a digest and a signature that verifies (R448, R450). -/
opaque tier : List Word → Tier
opaque manifest : Nat → Nat → List Nat → Nat
opaque manifestOk : Nat → Nat → Nat → Bool

/-- The direction that a core's branch predictor gives a CBR (R182: no architectural state depends on it). -/
opaque predict : Nat → Bool

/-- How many cycles DIV, DIVU, REM and REMU take longer for quotient bit i (R80); `divLatency` keeps the sum within 6 to 40. -/
opaque divStep : Nat → Nat

/-- The latency of FDIV and FSQRT beyond their first cycle, of which the model takes what R91 allows. -/
opaque fdivTime : Word → Word → Nat

/-- Which of the values inside the error bound a special function gives (R96, R167): the function's number, the width of the
format, and the operand. -/
opaque ulpPick : Nat → Nat → Nat → Int

/-- The victim of an eviction from a set of a cluster slice (R214). -/
opaque victim : Nat → Nat

/-- The choice of a thief, of a load order, or of any other order the spec leaves open, numbered by the model's counter. -/
opaque choice : Nat → Nat

/-- The answer of the management core to an SPDM request (R447): its words. -/
opaque spdm : Nat → Nat → Word

/-- What an argument of a mailbox command says, whose place in the data words the spec does not give (R446): the argument's number and
the data. -/
opaque argument : Nat → List Word → Nat

/-- Word i of the Almanac records that READ_ALMANAC returns, from the counts (R425, R446): their layout is not given. -/
opaque almanacWord : List (Nat × Nat) → Nat → Word

/-- A value of the package's own that the spec does not give (a measured quantity): the kind of the value and its number. -/
opaque measure : Nat → Nat → Nat

end Sys2Proof.Config
end

