-- ==== Sys2Proof/WellFormed.lean ====
section
/-!
DEFINITION. Which instruction terms stand for an encoding of the spec: what the types of the operands do not already say
(R46, R49, R50, R52, R53, R65).
-/
namespace Sys2Proof

/-- The numbers that name a system register (R65). -/
def isSysReg (n : BitVec 12) : Bool :=
  let k := n.toNat
  k ≤ 0x00D || (0x010 ≤ k && k ≤ 0x015) || (0x018 ≤ k && k ≤ 0x029) || (0x030 ≤ k && k ≤ 0x03F)

/-- The checks on a term that its type leaves open: SRD and SWR name a system register (R65), the register pairs of LDQ,
STQ and CASQ are not x0 (R52), FCVT converts between two types (R53), a VXP with vce = 0 has vc = 0 (R50). -/
def Instr.wellFormed : Instr → Bool
  | .srd _ n => isSysReg n
  | .swr n _ => isSysReg n
  | .ldq t _ _ _ => t != 0
  | .stq t _ _ _ => t != 0
  | .casq d _ b _ => d != 0 && b != 0
  | .fcvt _ _ dt src _ => dt != src
  | .vxp _ _ _ vce vc => vce || vc == 0
  | _ => true

end Sys2Proof
end

