-- ==== Sys2Proof/Decode.lean ====
section
/-!
DEFINITION. The decoder, total on every pair of words, and after it the encoder, both written from R36-R53. A word is read as
a number below 2^32, bit 0 its least significant bit.
-/
namespace Sys2Proof

/-! ## Code fields (R49) -/

def Et.code : Et → Nat
  | .f64 => 0 | .f32 => 1 | .bf16 => 2 | .f16 => 3 | .e4m3 => 4 | .e5m2 => 5 | .e2m1 => 6
  | .i32 => 8 | .i16 => 9 | .i8 => 10 | .i4 => 11

def Et.ofCode : Nat → Option Et
  | 0 => some .f64 | 1 => some .f32 | 2 => some .bf16 | 3 => some .f16 | 4 => some .e4m3 | 5 => some .e5m2
  | 6 => some .e2m1 | 8 => some .i32 | 9 => some .i16 | 10 => some .i8 | 11 => some .i4 | _ => none

def Fs.code : Fs → Nat
  | .f64 => 0 | .f32 => 1 | .f16 => 2 | .bf16 => 3

def Fs.ofCode : Nat → Option Fs
  | 0 => some .f64 | 1 => some .f32 | 2 => some .f16 | 3 => some .bf16 | _ => none

def Ct.code : Ct → Nat
  | .f64 => 0 | .f32 => 1 | .f16 => 2 | .bf16 => 3 | .i64 => 8 | .u64 => 9 | .i32 => 10 | .u32 => 11

def Ct.ofCode : Nat → Option Ct
  | 0 => some .f64 | 1 => some .f32 | 2 => some .f16 | 3 => some .bf16 | 8 => some .i64 | 9 => some .u64
  | 10 => some .i32 | 11 => some .u32 | _ => none

def Rm.code : Rm → Nat
  | .rne => 0 | .rtz => 1 | .rup => 2 | .rdn => 3 | .rna => 4 | .dyn => 7

def Rm.ofCode : Nat → Option Rm
  | 0 => some .rne | 1 => some .rtz | 2 => some .rup | 3 => some .rdn | 4 => some .rna | 7 => some .dyn | _ => none

def LdOrd.code : LdOrd → Nat
  | .plain => 0 | .acq => 1 | .inv => 2

def LdOrd.ofCode : Nat → Option LdOrd
  | 0 => some .plain | 1 => some .acq | 2 => some .inv | _ => none

def StOrd.code : StOrd → Nat
  | .plain => 0 | .rel => 2

def StOrd.ofCode : Nat → Option StOrd
  | 0 => some .plain | 2 => some .rel | _ => none

def AmoOrd.code : AmoOrd → Nat
  | .plain => 0 | .acq => 1 | .rel => 2 | .ar => 3

def AmoOrd.ofCode : Nat → Option AmoOrd
  | 0 => some .plain | 1 => some .acq | 2 => some .rel | 3 => some .ar | _ => none

def MemSize.code : MemSize → Nat
  | .b => 0 | .h => 1 | .w => 2 | .d => 3

def MemSize.ofCode : Nat → Option MemSize
  | 0 => some .b | 1 => some .h | 2 => some .w | 3 => some .d | _ => none

def FCc.code : FCc → Nat
  | .eq => 0 | .lt => 1 | .le => 2 | .un => 3

def FCc.ofCode : Nat → Option FCc
  | 0 => some .eq | 1 => some .lt | 2 => some .le | 3 => some .un | _ => none

def VCc.code : VCc → Nat
  | .eq => 0 | .ne => 1 | .lt => 2 | .le => 3 | .gt => 4 | .ge => 5 | .un => 6

def VCc.ofCode : Nat → Option VCc
  | 0 => some .eq | 1 => some .ne | 2 => some .lt | 3 => some .le | 4 => some .gt | 5 => some .ge | 6 => some .un
  | _ => none

def RedOp.code : RedOp → Nat
  | .add => 0 | .max => 1 | .min => 2

def RedOp.ofCode : Nat → Option RedOp
  | 0 => some .add | 1 => some .max | 2 => some .min | _ => none

/-- Scope codes of FENCE (R52, major 0x25); no encoding stands between package and system. -/
def Scope.code : Scope → Nat
  | .strand => 0 | .core => 1 | .tile => 2 | .cluster => 3 | .die => 4 | .package => 5 | .system => 6

def Scope.ofCode : Nat → Option Scope
  | 0 => some .strand | 1 => some .core | 2 => some .tile | 3 => some .cluster | 4 => some .die | 5 => some .package
  | 6 => some .system | _ => none

def FenceKind.code : FenceKind → Nat
  | .acq => 1 | .rel => 2 | .ar => 3

def FenceKind.ofCode : Nat → Option FenceKind
  | 1 => some .acq | 2 => some .rel | 3 => some .ar | _ => none

/-! ## Fields -/

/-- The n bits of a word that start at bit lo. -/
def fld (w lo n : Nat) : BitVec n := BitVec.ofNat n (w / 2 ^ lo)

/-- The n bits of a word that start at bit lo, as a number. -/
def fnat (w lo n : Nat) : Nat := w / 2 ^ lo % 2 ^ n

/-- An x, v, m, g or s number that stands right-aligned in a wider field whose upper bits must be zero (R45). -/
def narrow (k : Nat) {n : Nat} (f : BitVec n) : Option (BitVec k) :=
  if f.toNat < 2 ^ k then some (BitVec.ofNat k f.toNat) else none

/-- The even, nonzero x number of a register pair, named by its half (R52). -/
def evenPair (f : BitVec 5) : Option (BitVec 4) :=
  if f.toNat % 2 = 0 ∧ f.toNat ≠ 0 then some (BitVec.ofNat 4 (f.toNat / 2)) else none

/-- `x` where the condition holds, an encoding fault where it does not (R46). -/
def need {α : Type} (c : Bool) (x : Option α) : Option α := if c then x else none

/-! ## The C map (R52), one function for each major opcode with a selector -/

/-- Major 0x02. -/
def decC02 (d a b : BitVec 5) (fn : Nat) : Option Instr :=
  match fn with
  | 0 => need (d == 0 && a == 0 && b == 0) (some .yield)
  | 1 => need (d == 0 && a == 0 && b == 0) (some .wfe)
  | 2 => need (d == 0 && a == 0 && b == 0) (some .eret)
  | 4 => need (d == 0 && a == 0 && b == 0) (some (.lexit false))
  | 5 => need (d == 0 && a == 0 && b == 0) (some (.lexit true))
  | _ => none

/-- Major 0x06. -/
def decC06 (d a b : BitVec 5) (fn : Nat) : Option Instr :=
  match fn with
  | 0 => need (b == 0) ((narrow 3 d).map fun s => .semsig s a)
  | 1 => need (a == 0 && b == 0) ((narrow 3 d).map fun s => .semwait s)
  | _ => none

/-- Major 0x08. The functions 40 to 47 are ADDS with its shift. -/
def decC08 (d a b : BitVec 5) (fn : Nat) : Option Instr :=
  match fn with
  | 0 => some (.add d a b)
  | 1 => some (.sub d a b)
  | 2 => some (.and d a b)
  | 3 => some (.or d a b)
  | 4 => some (.xor d a b)
  | 5 => some (.sll d a b)
  | 6 => some (.srl d a b)
  | 7 => some (.sra d a b)
  | 8 => some (.slt d a b)
  | 9 => some (.sltu d a b)
  | 10 => some (.min d a b)
  | 11 => some (.max d a b)
  | 12 => some (.minu d a b)
  | 13 => some (.maxu d a b)
  | 16 => some (.mul d a b)
  | 17 => some (.mulh d a b)
  | 18 => some (.mulhu d a b)
  | 20 => some (.div d a b)
  | 21 => some (.divu d a b)
  | 22 => some (.rem d a b)
  | 23 => some (.remu d a b)
  | 24 => need (b == 0) (some (.clz d a))
  | 25 => need (b == 0) (some (.popc d a))
  | 26 => need (b == 0) (some (.bswap d a))
  | 28 => need (b == 0) (some (.sext8 d a))
  | 29 => need (b == 0) (some (.sext16 d a))
  | 30 => need (b == 0) (some (.sext32 d a))
  | 32 => need (b == 0) (some (.zext8 d a))
  | 33 => need (b == 0) (some (.zext16 d a))
  | 34 => need (b == 0) (some (.zext32 d a))
  | 48 => some (.gaddr d a b)
  | f => need (40 ≤ f && f < 48) (some (.adds d a b (BitVec.ofNat 3 f)))

/-- Major 0x0E: imm[11:10] selects, imm[9:6] is zero. -/
def decC0E (d a : BitVec 5) (imm : BitVec 12) : Option Instr :=
  need (fnat imm.toNat 6 4 == 0) (match fnat imm.toNat 10 2 with
  | 0 => some (.slli d a (fld imm.toNat 0 6))
  | 1 => some (.srli d a (fld imm.toNat 0 6))
  | 2 => some (.srai d a (fld imm.toNat 0 6))
  | _ => none)

/-- Major 0x18. -/
def decC18 (d a b : BitVec 5) (fn : Nat) : Option Instr :=
  need (d == 0 && b == 0) (match fn with
  | 0 => some (.jr a)
  | 1 => some (.callr a)
  | 2 => need (a == 0) (some .ret)
  | _ => none)

/-- Major 0x1C: fn[6:4] the operation, fn[3:0] its argument. -/
def decC1C (d a b : BitVec 5) (op arg : Nat) : Option Instr :=
  need (b == 0) (match op with
  | 0 => some (.cvoteAnd d a (BitVec.ofNat 4 arg))
  | 1 => some (.cvoteOr d a (BitVec.ofNat 4 arg))
  | 2 => need (arg == 0) (some (.cmem d a))
  | 3 => need (arg == 0 && d == 0 && a == 0) (some .gbar)
  | 4 => need (arg == 0 && d == 0 && a == 0) (some .cbar)
  | 5 => need (arg == 0 && a == 0) ((narrow 4 d).map fun g => .galloc g)
  | 6 => need (arg == 0) ((narrow 4 d).map fun g => .gset g a)
  | 7 => need (arg == 0 && a == 0) ((narrow 4 d).map fun g => .gres g)
  | _ => none)

/-- Major 0x1E. -/
def decC1E (d a b : BitVec 5) (fn : Nat) : Option Instr :=
  match fn with
  | 0 => need (d == 0 && b == 0) (some (.pubf a))
  | 1 => need (d == 0 && a == 0 && b == 0) (some .tend)
  | 2 => need (d == 0 && a == 0 && b == 0) (some .sync)
  | 3 => need (d == 0) (some (.wpush a b))
  | 4 => need (a == 0 && b == 0) (some (.wpop d))
  | 5 => need (d == 0) (some (.donate a b))
  | 6 => need (b == 0) (some (.dpull d a))
  | 7 => need (a == 0 && b == 0) (some (.quiet d))
  | _ => none

/-- Major 0x20. -/
def decC20 (t b : BitVec 5) (sz ord : Nat) (off : BitVec 8) : Option Instr :=
  match MemSize.ofCode sz, LdOrd.ofCode ord with
  | some s, some o => some (.ld t b s o off)
  | _, _ => none

/-- Major 0x21. -/
def decC21 (t b : BitVec 5) (sz ord : Nat) (off : BitVec 8) : Option Instr :=
  match MemSize.ofCode sz, StOrd.ofCode ord with
  | some s, some o => some (.st t b s o off)
  | _, _ => none

/-- Major 0x22. -/
def decC22 (t b : BitVec 5) (sz ord : Nat) (off : BitVec 8) : Option Instr :=
  match sz with
  | 0 => (evenPair t).bind fun t => (LdOrd.ofCode ord).map fun o => .ldq t b o off
  | 1 => (evenPair t).bind fun t => (StOrd.ofCode ord).map fun o => .stq t b o off
  | _ => none

/-- Major 0x23: fn[6:4] the operation, fn[3:2] the ordering, fn[1:0] zero. -/
def decC23 (d a b : BitVec 5) (op ord z : Nat) : Option Instr :=
  need (z == 0) (match op with
  | 0 => (narrow 4 d).bind fun v => (LdOrd.ofCode ord).map fun o => .ldv v a b o
  | 1 => (narrow 4 d).bind fun v => (StOrd.ofCode ord).map fun o => .stv v a b o
  | 2 => need (b == 0) ((narrow 3 d).bind fun m => (LdOrd.ofCode ord).map fun o => .ldm m a o)
  | 3 => need (b == 0) ((narrow 3 d).bind fun m => (StOrd.ofCode ord).map fun o => .stm m a o)
  | _ => none)

/-- Major 0x24: fn[6:3] the operation, fn[2] the size, fn[1:0] the ordering. -/
def decC24 (d a b : BitVec 5) (op : Nat) (dbl : Bool) (o : AmoOrd) : Option Instr :=
  match op with
  | 0 => some (.amoAdd d a b dbl o)
  | 1 => some (.amoAnd d a b dbl o)
  | 2 => some (.amoOr d a b dbl o)
  | 3 => some (.amoXor d a b dbl o)
  | 4 => some (.amoMin d a b dbl o)
  | 5 => some (.amoMax d a b dbl o)
  | 6 => some (.amoMinu d a b dbl o)
  | 7 => some (.amoMaxu d a b dbl o)
  | 8 => some (.amoSwap d a b dbl o)
  | 9 => some (.amoFadd d a b dbl o)
  | 10 => some (.cas d a b dbl o)
  | 11 => need dbl ((evenPair d).bind fun d => (evenPair b).map fun b => .casq d a b o)
  | _ => none

/-- Major 0x25: fn[6:5] the operation, fn[4:0] its argument. -/
def decC25 (d a b : BitVec 5) (op x : Nat) : Option Instr :=
  need (d == 0 && b == 0) (match op with
  | 0 => need (a == 0) ((Scope.ofCode (x / 4)).bind fun s => (FenceKind.ofCode (x % 4)).map fun k => .fence s k)
  | 1 => need (x < 2) (some (.pf a (x == 1)))
  | 2 => need (x == 0) (some (.cfl a))
  | 3 => need (x == 0) (some (.czero a))
  | _ => none)

/-- Major 0x26: imm[11:8] the operation, imm[7:0] the entry. -/
def decC26 (d a : BitVec 5) (op : Nat) (e : BitVec 8) : Option Instr :=
  match op with
  | 0 => some (.sld d a e)
  | 1 => some (.sst d a e)
  | 2 => (narrow 4 d).map fun v => .sldv v a e
  | 3 => some (.shloc d a e)
  | 4 => need (d == 0) (some (.shwr a e))
  | 5 => need (d == 0 && a == 0) (some (.shswap e))
  | _ => none

/-- Major 0x27. -/
def decC27 (d a b : BitVec 5) (fn : Nat) : Option Instr :=
  need (b == 0) (match fn with
  | 0 => some (.objdef d a)
  | 1 => need (d == 0) (some (.objdrop a))
  | 2 => some (.mapq d a)
  | 3 => some (.rlq d a)
  | _ => none)

/-- Major 0x28. -/
def decC28 (d a b : BitVec 5) (fn : Nat) : Option Instr :=
  match fn with
  | 0 => some (.amsend d a b)
  | 1 => need (d == 0 && b == 0) (some (.amret a))
  | 2 => some (.launch d a b)
  | _ => none

/-- Major 0x29: fn[6:3] the guard slot, fn[2:0] the operation. ENG names no b (R45). -/
def decC29 (d a b : BitVec 5) (g : BitVec 4) (op : Nat) : Option Instr :=
  match op with
  | 0 => need (b == 0) (some (.eng d a g))
  | 1 => some (.copy d a b g)
  | 2 => some (.gath d a b g)
  | 3 => some (.scat d a b g)
  | 4 => some (.mcast d a b g)
  | 5 => some (.sortc d a b g)
  | _ => none

/-- Major 0x2A: fn[6:4] the ring, fn[3:0] the operation. -/
def decC2A (d a b : BitVec 5) (r : BitVec 3) (op : Nat) : Option Instr :=
  match op with
  | 0 => need (d == 0) (some (.ringi r a b))
  | 1 => need (d == 0 && b == 0) (some (.ringa r a))
  | 2 => need (a == 0 && b == 0) (some (.ringq d r))
  | _ => none

/-- Major 0x2B. -/
def decC2B (d a b : BitVec 5) (fn : Nat) : Option Instr :=
  match fn with
  | 0 => need (d == 0) (some (.mbxpost a b))
  | 1 => need (b == 0) (some (.mbxread d a))
  | 2 => need (d == 0 && b == 0) (some (.mbxclr a))
  | 3 => some (.cbpost d a b)
  | 4 => need (b == 0) (some (.cbtake d a))
  | _ => none

/-- Major 0x2C: as 0x29. -/
def decC2C (d a b : BitVec 5) (g : BitVec 4) (op : Nat) : Option Instr :=
  match op with
  | 0 => some (.mwl d a b g)
  | 1 => some (.mwls d a b g)
  | 2 => some (.mma d a b g)
  | 3 => some (.mgrp d a b g)
  | 4 => some (.macz d a b g)
  | 5 => some (.mdrain d a b g)
  | 6 => need (d == 0 && b == 0 && g == 0) (some (.mwait a))
  | _ => none

/-- Major 0x2D. -/
def decC2D (d a b : BitVec 5) (fn : Nat) : Option Instr :=
  need (b == 0) (match fn with
  | 0 => some (.jdec d a)
  | 1 => need (d == 0) (some (.boost a))
  | 2 => some (.etq d a)
  | _ => none)

/-- Major 0x07, format CP (R50). -/
def decC07 (w : Nat) : Option Instr :=
  need (fnat w 0 10 == 0) ((Rm.ofCode (fnat w 15 3)).bind fun r =>
    let vce := fnat w 14 1 == 1
    let vc := fld w 10 4
    need (vce || vc == 0) (some (.vxp (fld w 19 3) (fnat w 18 1 == 1) r vce vc)))

/-- The instruction of bits 27:0 of a C word (R36, R52). -/
def decodeCBits (w : Nat) : Option Instr :=
  let d : BitVec 5 := fld w 17 5
  let a : BitVec 5 := fld w 12 5
  let b : BitVec 5 := fld w 7 5
  let fn := fnat w 0 7
  let imm : BitVec 12 := fld w 0 12
  match fnat w 22 6 with
  | 0x01 => need (fnat w 0 22 == 0) (some .nop)
  | 0x02 => decC02 d a b fn
  | 0x03 => need (d == 0 && a == 0) (some (.trap imm))
  | 0x04 => need (a == 0 && isSysReg imm) (some (.srd d imm))
  | 0x05 => need (d == 0 && isSysReg imm) (some (.swr imm a))
  | 0x06 => decC06 d a b fn
  | 0x07 => decC07 w
  | 0x08 => decC08 d a b fn
  | 0x09 => some (.addi d a imm)
  | 0x0A => some (.andi d a imm)
  | 0x0B => some (.ori d a imm)
  | 0x0C => some (.xori d a imm)
  | 0x0D => some (.slti d a imm)
  | 0x0E => decC0E d a imm
  | 0x0F => some (.lui d (fld w 0 17))
  | 0x10 => some (.beq d a imm)
  | 0x11 => some (.bne d a imm)
  | 0x12 => some (.blt d a imm)
  | 0x13 => some (.bge d a imm)
  | 0x14 => some (.bltu d a imm)
  | 0x15 => some (.bgeu d a imm)
  | 0x16 => some (.j (fld w 0 22))
  | 0x17 => some (.call (fld w 0 22))
  | 0x18 => decC18 d a b fn
  | 0x19 => some (.loop (fnat w 21 1 == 1) (fld w 9 12) (fld w 0 9))
  | 0x1A => need (fnat w 9 7 == 0) (some (.loopr (fnat w 21 1 == 1) (fld w 16 5) (fld w 0 9)))
  | 0x1B => some (.cbr d (fld w 13 4) (fld w 9 4) (fld w 0 9))
  | 0x1C => decC1C d a b (fnat w 4 3) (fnat w 0 4)
  | 0x1D => some (.spawn (fld w 0 22))
  | 0x1E => decC1E d a b fn
  | 0x20 => decC20 d a (fnat w 10 2) (fnat w 8 2) (fld w 0 8)
  | 0x21 => decC21 d a (fnat w 10 2) (fnat w 8 2) (fld w 0 8)
  | 0x22 => decC22 d a (fnat w 10 2) (fnat w 8 2) (fld w 0 8)
  | 0x23 => decC23 d a b (fnat w 4 3) (fnat w 2 2) (fnat w 0 2)
  | 0x24 => (AmoOrd.ofCode (fnat w 0 2)).bind fun o => decC24 d a b (fnat w 3 4) (fnat w 2 1 == 1) o
  | 0x25 => decC25 d a b (fnat w 5 2) (fnat w 0 5)
  | 0x26 => decC26 d a (fnat w 8 4) (fld w 0 8)
  | 0x27 => decC27 d a b fn
  | 0x28 => decC28 d a b fn
  | 0x29 => decC29 d a b (fld w 3 4) (fnat w 0 3)
  | 0x2A => decC2A d a b (fld w 4 3) (fnat w 0 4)
  | 0x2B => decC2B d a b fn
  | 0x2C => decC2C d a b (fld w 3 4) (fnat w 0 3)
  | 0x2D => decC2D d a b fn
  | _ => none

/-- A C word with its lone bit and its wait count (R36). -/
structure CWord where
  lone : Bool
  w : BitVec 3
  instr : Instr
  deriving DecidableEq, Repr

/-- The C word of 32 bits (R36). -/
def decodeC (w : Nat) : Option CWord :=
  (decodeCBits w).map fun i => ⟨fnat w 31 1 == 1, fld w 28 3, i⟩

/-! ## The A map (R53) -/

/-- Major 0x10. -/
def decA10 (d a b : BitVec 5) (r fs fn : Nat) : Option Instr :=
  (Fs.ofCode fs).bind fun f => match fn with
  | 0 => (Rm.ofCode r).map fun m => .fadd d a b m f
  | 1 => (Rm.ofCode r).map fun m => .fsub d a b m f
  | 2 => (Rm.ofCode r).map fun m => .fmul d a b m f
  | 3 => (Rm.ofCode r).map fun m => .fdiv d a b m f
  | 4 => need (r == 0) (some (.fmin d a b f))
  | 5 => need (r == 0) (some (.fmax d a b f))
  | 6 => need (b == 0) ((Rm.ofCode r).map fun m => .fsqrt d a m f)
  | 7 => need (b == 0 && r == 0) (some (.fclass d a f))
  | _ => none

/-- Major 0x14: F64 and F32 only. -/
def decA14 (d a b : BitVec 5) (r fs fn : Nat) : Option Instr :=
  need (b == 0 && r == 0 && fs < 2) (match fn with
  | 0 => some (.fsin d a (fs == 1))
  | 1 => some (.fcos d a (fs == 1))
  | 2 => some (.fexp2 d a (fs == 1))
  | 3 => some (.flog2 d a (fs == 1))
  | 4 => some (.frcp d a (fs == 1))
  | 5 => some (.frsq d a (fs == 1))
  | _ => none)

/-- The majors of format AV. -/
def decAV (maj : Nat) (d a b : BitVec 4) (e : Et) (fn : Nat) : Option Instr :=
  match maj with
  | 32 => need (fn == 0) (some (.vadd d a b e))
  | 33 => need (fn == 0) (some (.vsub d a b e))
  | 34 => need (fn == 0) (some (.vmul d a b e))
  | 35 => need (fn == 0) (some (.vfma d a b e))
  | 36 => need (fn == 0) (some (.vfms d a b e))
  | 37 => need (fn == 0) (some (.vmin d a b e))
  | 38 => need (fn == 0) (some (.vmax d a b e))
  | 39 => need (fn == 0 && b == 0) (some (.vabs d a e))
  | 40 => need (fn == 0 && b == 0) (some (.vneg d a e))
  | 41 => need (fn == 0) (some (.vdiv d a b e))
  | 42 => need (fn == 0 && b == 0) (some (.vsqrt d a e))
  | 44 => need (fn == 0) (some (.vand d a b e))
  | 45 => need (fn == 0) (some (.vor d a b e))
  | 46 => need (fn == 0) (some (.vxor d a b e))
  | 47 => need (fn == 0 && b == 0) (some (.vnot d a e))
  | 48 => need (fn == 0) (some (.vshl d a b e))
  | 49 => need (fn == 0) (some (.vshr d a b e))
  | 50 => need (fn == 0) (some (.vsra d a b e))
  | 54 => need (fn == 0 && b == 0) (some (.vmov d a e))
  | 58 => need (fn == 0 && b == 0) (some (.vtrn d a e))
  | 62 => need (fn == 0) (some (.vchain d a b e))
  | 64 => need (fn == 0 && b == 0) (some (.vcvt d a e))
  | 65 => need (fn == 0) (some (.vqnt d a b e))
  | 66 => need (fn == 0) (some (.vdqnt d a b e))
  | 67 => need (fn == 0 && b == 0) (some (.vxmax d a e))
  | 68 => need (fn == 0 && b == 0) (some (.vexp2 d a e))
  | 69 => need (fn == 0 && b == 0) (some (.vlog2 d a e))
  | 70 => need (fn == 0 && b == 0) (some (.vrcp d a e))
  | 71 => need (fn == 0 && b == 0) (some (.vrsq d a e))
  | 72 => need (fn == 0 && b == 0) (some (.vsin d a e))
  | 73 => need (fn == 0 && b == 0) (some (.vcos d a e))
  | 52 => need (fnat d.toNat 3 1 == 0) ((VCc.ofCode fn).map fun c => .vcmp c (fld d.toNat 0 3) a b e)
  | 53 => need (fn < 8) (some (.vsel d a b (BitVec.ofNat 3 fn) e))
  | 57 => need (fn == 0 && a == 0 && b == 0) (some (.viota d e))
  | 60 => need (b == 0) ((RedOp.ofCode fn).map fun o => .vredr o d a e)
  | 61 => need (b == 0) ((RedOp.ofCode fn).map fun o => .vredc o d a e)
  | _ => none

/-- The majors of format AK. -/
def decAK (maj : Nat) (d : BitVec 5) (a b : BitVec 4) : Option Instr :=
  (narrow 3 a).bind fun ma => (narrow 3 b).bind fun mb => match maj with
  | 80 => (narrow 3 d).map fun md => .mand md ma mb
  | 81 => (narrow 3 d).map fun md => .mor md ma mb
  | 82 => (narrow 3 d).map fun md => .mxor md ma mb
  | 83 => need (mb == 0) ((narrow 3 d).map fun md => .mnot md ma)
  | 84 => need (mb == 0) (some (.mpopc d ma))
  | 85 => need (mb == 0) (some (.mfirst d ma))
  | _ => none

/-- The instruction of an A word (R37, R53). -/
def decodeA (w : Nat) : Option Instr :=
  let d : BitVec 5 := fld w 19 5
  let a : BitVec 5 := fld w 14 5
  let b : BitVec 5 := fld w 9 5
  let maj := fnat w 24 7
  need (fnat w 31 1 == 0) (
    if maj = 0x00 then need (fnat w 0 24 == 0) (some .nopA)
    else if maj = 0x10 then decA10 d a b (fnat w 6 3) (fnat w 4 2) (fnat w 0 4)
    else if maj = 0x11 then (Rm.ofCode (fnat w 1 3)).map fun m => .ffma d a b (fld w 4 5) m (fnat w 0 1 == 1)
    else if maj = 0x12 then need (fnat w 6 3 == 0) ((Fs.ofCode (fnat w 4 2)).bind fun f =>
      (FCc.ofCode (fnat w 0 4)).map fun c => .fcmp c d a b f)
    else if maj = 0x13 then need (fnat w 0 3 == 0) ((Ct.ofCode (fnat w 10 4)).bind fun dt =>
      (Ct.ofCode (fnat w 6 4)).bind fun st => (Rm.ofCode (fnat w 3 3)).bind fun m =>
      need (dt != st) (some (.fcvt d a dt st m)))
    else if maj = 0x14 then decA14 d a b (fnat w 6 3) (fnat w 4 2) (fnat w 0 4)
    else if maj = 0x37 then need (fnat w 12 3 == 0 && fnat w 0 8 == 0) ((Et.ofCode (fnat w 8 4)).map fun e =>
      .vbcast (fld w 20 4) (fld w 15 5) e)
    else if maj = 0x38 then need (fnat w 0 10 == 0) (some (.vextr d (fld w 15 4) (fld w 10 5)))
    else if 0x50 ≤ maj then need (fnat w 0 11 == 0) (decAK maj d (fld w 15 4) (fld w 11 4))
    else (Et.ofCode (fnat w 8 4)).bind fun e => decAV maj (fld w 20 4) (fld w 16 4) (fld w 12 4) e (fnat w 0 8))

/-! ## Destinations and the rules of a pair (R39, R51) -/

/-- A register of the x, v or m file. -/
inductive Reg where
  | x (n : XReg)
  | v (n : VReg)
  | m (n : MReg)
  deriving DecidableEq, Repr

/-- The two x registers of the pair that starts at x(2k). -/
def pairRegs (k : BitVec 4) : List Reg :=
  [.x (BitVec.ofNat 5 (2 * k.toNat)), .x (BitVec.ofNat 5 (2 * k.toNat + 1))]

/-- The x, v and m registers an instruction names as its destination. -/
def Instr.dests : Instr → List Reg
  | .srd d _ => [.x d]
  | .add d _ _ => [.x d]
  | .sub d _ _ => [.x d]
  | .and d _ _ => [.x d]
  | .or d _ _ => [.x d]
  | .xor d _ _ => [.x d]
  | .sll d _ _ => [.x d]
  | .srl d _ _ => [.x d]
  | .sra d _ _ => [.x d]
  | .slt d _ _ => [.x d]
  | .sltu d _ _ => [.x d]
  | .min d _ _ => [.x d]
  | .max d _ _ => [.x d]
  | .minu d _ _ => [.x d]
  | .maxu d _ _ => [.x d]
  | .mul d _ _ => [.x d]
  | .mulh d _ _ => [.x d]
  | .mulhu d _ _ => [.x d]
  | .div d _ _ => [.x d]
  | .divu d _ _ => [.x d]
  | .rem d _ _ => [.x d]
  | .remu d _ _ => [.x d]
  | .gaddr d _ _ => [.x d]
  | .clz d _ => [.x d]
  | .popc d _ => [.x d]
  | .bswap d _ => [.x d]
  | .sext8 d _ => [.x d]
  | .sext16 d _ => [.x d]
  | .sext32 d _ => [.x d]
  | .zext8 d _ => [.x d]
  | .zext16 d _ => [.x d]
  | .zext32 d _ => [.x d]
  | .adds d _ _ _ => [.x d]
  | .addi d _ _ => [.x d]
  | .andi d _ _ => [.x d]
  | .ori d _ _ => [.x d]
  | .xori d _ _ => [.x d]
  | .slti d _ _ => [.x d]
  | .slli d _ _ => [.x d]
  | .srli d _ _ => [.x d]
  | .srai d _ _ => [.x d]
  | .lui d _ => [.x d]
  | .cvoteAnd d _ _ => [.x d]
  | .cvoteOr d _ _ => [.x d]
  | .cmem d _ => [.x d]
  | .wpop d => [.x d]
  | .dpull d _ => [.x d]
  | .quiet d => [.x d]
  | .ld t _ _ _ _ => [.x t]
  | .ldq t _ _ _ => pairRegs t
  | .ldv d _ _ _ => [.v d]
  | .ldm d _ _ => [.m d]
  | .amoAdd d _ _ _ _ => [.x d]
  | .amoAnd d _ _ _ _ => [.x d]
  | .amoOr d _ _ _ _ => [.x d]
  | .amoXor d _ _ _ _ => [.x d]
  | .amoMin d _ _ _ _ => [.x d]
  | .amoMax d _ _ _ _ => [.x d]
  | .amoMinu d _ _ _ _ => [.x d]
  | .amoMaxu d _ _ _ _ => [.x d]
  | .amoSwap d _ _ _ _ => [.x d]
  | .amoFadd d _ _ _ _ => [.x d]
  | .cas d _ _ _ _ => [.x d]
  | .casq d _ _ _ => pairRegs d
  | .sld d _ _ => [.x d]
  | .sldv d _ _ => [.v d]
  | .shloc d _ _ => [.x d]
  | .objdef d _ => [.x d]
  | .mapq d _ => [.x d]
  | .rlq d _ => [.x d]
  | .amsend d _ _ => [.x d]
  | .launch d _ _ => [.x d]
  | .eng d _ _ => [.x d]
  | .copy d _ _ _ => [.x d]
  | .gath d _ _ _ => [.x d]
  | .scat d _ _ _ => [.x d]
  | .mcast d _ _ _ => [.x d]
  | .sortc d _ _ _ => [.x d]
  | .ringq d _ => [.x d]
  | .mbxread d _ => [.x d]
  | .cbpost d _ _ => [.x d]
  | .cbtake d _ => [.x d]
  | .mwl d _ _ _ => [.x d]
  | .mwls d _ _ _ => [.x d]
  | .mma d _ _ _ => [.x d]
  | .mgrp d _ _ _ => [.x d]
  | .macz d _ _ _ => [.x d]
  | .mdrain d _ _ _ => [.x d]
  | .jdec d _ => [.x d]
  | .etq d _ => [.x d]
  | .fadd d _ _ _ _ => [.x d]
  | .fsub d _ _ _ _ => [.x d]
  | .fmul d _ _ _ _ => [.x d]
  | .fdiv d _ _ _ _ => [.x d]
  | .fmin d _ _ _ => [.x d]
  | .fmax d _ _ _ => [.x d]
  | .fsqrt d _ _ _ => [.x d]
  | .fclass d _ _ => [.x d]
  | .ffma d _ _ _ _ _ => [.x d]
  | .fcmp _ d _ _ _ => [.x d]
  | .fcvt d _ _ _ _ => [.x d]
  | .fsin d _ _ => [.x d]
  | .fcos d _ _ => [.x d]
  | .fexp2 d _ _ => [.x d]
  | .flog2 d _ _ => [.x d]
  | .frcp d _ _ => [.x d]
  | .frsq d _ _ => [.x d]
  | .vadd d _ _ _ => [.v d]
  | .vsub d _ _ _ => [.v d]
  | .vmul d _ _ _ => [.v d]
  | .vfma d _ _ _ => [.v d]
  | .vfms d _ _ _ => [.v d]
  | .vmin d _ _ _ => [.v d]
  | .vmax d _ _ _ => [.v d]
  | .vabs d _ _ => [.v d]
  | .vneg d _ _ => [.v d]
  | .vdiv d _ _ _ => [.v d]
  | .vsqrt d _ _ => [.v d]
  | .vand d _ _ _ => [.v d]
  | .vor d _ _ _ => [.v d]
  | .vxor d _ _ _ => [.v d]
  | .vnot d _ _ => [.v d]
  | .vshl d _ _ _ => [.v d]
  | .vshr d _ _ _ => [.v d]
  | .vsra d _ _ _ => [.v d]
  | .vcmp _ d _ _ _ => [.m d]
  | .vsel d _ _ _ _ => [.v d]
  | .vmov d _ _ => [.v d]
  | .vbcast d _ _ => [.v d]
  | .vextr d _ _ => [.x d]
  | .viota d _ => [.v d]
  | .vtrn d _ _ => [.v d]
  | .vredr _ d _ _ => [.v d]
  | .vredc _ d _ _ => [.v d]
  | .vchain d _ _ _ => [.v d]
  | .vcvt d _ _ => [.v d]
  | .vqnt d _ _ _ => [.v d]
  | .vdqnt d _ _ _ => [.v d]
  | .vxmax d _ _ => [.v d]
  | .vexp2 d _ _ => [.v d]
  | .vlog2 d _ _ => [.v d]
  | .vrcp d _ _ => [.v d]
  | .vrsq d _ _ => [.v d]
  | .vsin d _ _ => [.v d]
  | .vcos d _ _ => [.v d]
  | .mand d _ _ => [.m d]
  | .mor d _ _ => [.m d]
  | .mxor d _ _ => [.m d]
  | .mnot d _ => [.m d]
  | .mpopc d _ => [.x d]
  | .mfirst d _ => [.x d]
  | _ => []

/-- Do two units' words name one destination other than x0 and m0 (R39)? -/
def sameDest (c a : Instr) : Bool :=
  c.dests.any fun r => r != .x 0 && r != .m 0 && a.dests.contains r

/-- Is `et` a floating-point type? -/
def Et.isFloat : Et → Bool
  | .i32 | .i16 | .i8 | .i4 => false
  | _ => true

/-- What a VXP prefix may do to an A instruction (R51): none where it may carry no prefix, else whether rmo may differ from
111 and whether vce may be 1. -/
def vxpRights : Instr → Option (Bool × Bool)
  | .vfma _ _ _ e => some (e.isFloat, true)
  | .vfms _ _ _ e => some (e.isFloat, true)
  | .vadd _ _ _ e => some (e.isFloat, false)
  | .vsub _ _ _ e => some (e.isFloat, false)
  | .vmul _ _ _ e => some (e.isFloat, false)
  | .vdiv _ _ _ e => some (e.isFloat, false)
  | .vsqrt _ _ e => some (e.isFloat, false)
  | .vdqnt _ _ _ e => some (e.isFloat, false)
  | .vredr _ _ _ e => some (e.isFloat, false)
  | .vredc _ _ _ e => some (e.isFloat, false)
  | .vcvt .. => some (true, false)
  | .vqnt .. => some (true, false)
  | .vmin .. => some (false, false)
  | .vmax .. => some (false, false)
  | .vabs .. => some (false, false)
  | .vneg .. => some (false, false)
  | .vand .. => some (false, false)
  | .vor .. => some (false, false)
  | .vxor .. => some (false, false)
  | .vnot .. => some (false, false)
  | .vshl .. => some (false, false)
  | .vshr .. => some (false, false)
  | .vsra .. => some (false, false)
  | .vcmp .. => some (false, false)
  | .vsel .. => some (false, false)
  | .vmov .. => some (false, false)
  | .vbcast .. => some (false, false)
  | .viota .. => some (false, false)
  | .vtrn .. => some (false, false)
  | .vexp2 .. => some (false, false)
  | .vlog2 .. => some (false, false)
  | .vrcp .. => some (false, false)
  | .vrsq .. => some (false, false)
  | .vsin .. => some (false, false)
  | .vcos .. => some (false, false)
  | _ => none

/-- The rules of R39 and R51 on a pair. -/
def pairOk (c a : Instr) : Bool :=
  !sameDest c a &&
  (match c with
   | .vxp _ _ rmo vce _ =>
     match vxpRights a with
     | none => false
     | some (r, v) => (r || rmo == .dyn) && (v || !vce)
   | _ => true)

/-- One issue unit (R38). -/
inductive IssueUnit where
  | lone (w : BitVec 3) (c : Instr)
  | pair (w : BitVec 3) (c a : Instr)
  deriving DecidableEq, Repr

/-- The unit that starts with word `w0` at an address of 0 or 4 mod 8 and continues with `w1`, or what makes it malformed,
in the order of R40. -/
def decodeUnit (at4 : Bool) (w0 w1 : Nat) : Except EncFault IssueUnit :=
  if fnat w0 31 1 = 1 then
    match decodeC w0 with
    | none => .error .cWord
    | some c =>
      match c.instr with
      | .vxp .. => .error .pair
      | i => .ok (.lone c.w i)
  else if at4 then .error .misaligned
  else
    match decodeC w0, decodeA w1 with
    | none, _ => .error .cWord
    | some _, none => .error .aWord
    | some c, some a => if pairOk c.instr a then .ok (.pair c.w c.instr a) else .error .pair

/-- The instruction that the decoder reads from one row's bits: a lone C word of 32 bits; with 64 bits, the C word of a pair
and above it the A word, of which the one that is no `nop` is named. -/
def decodeTableWord (nbits w : Nat) : Option Instr :=
  if nbits ≤ 32 then
    match decodeUnit false (w % 2 ^ 32) 0 with
    | .ok (.lone _ c) => some c
    | _ => none
  else
    match decodeUnit false (w % 2 ^ 32) (w / 2 ^ 32 % 2 ^ 32) with
    | .ok (.lone _ c) => some c
    | .ok (.pair _ .nop a) => some a
    | .ok (.pair _ c _) => some c
    | .error _ => none

/-! ## The encoder -/

def encCR (maj : Nat) (d a b : BitVec 5) (fn : Nat) : Nat :=
  maj * 2 ^ 22 + d.toNat * 2 ^ 17 + a.toNat * 2 ^ 12 + b.toNat * 2 ^ 7 + fn

def encCI (maj : Nat) (d a : BitVec 5) (imm : Nat) : Nat := maj * 2 ^ 22 + d.toNat * 2 ^ 17 + a.toNat * 2 ^ 12 + imm

def encCM (maj : Nat) (t b : BitVec 5) (sz ord : Nat) (off : BitVec 8) : Nat :=
  maj * 2 ^ 22 + t.toNat * 2 ^ 17 + b.toNat * 2 ^ 12 + sz * 2 ^ 10 + ord * 2 ^ 8 + off.toNat

/-- A narrower register number in a 5-bit field (R45). -/
def wide {n : Nat} (r : BitVec n) : BitVec 5 := BitVec.ofNat 5 r.toNat

/-- The first register of a pair named by its half. -/
def twice (k : BitVec 4) : BitVec 5 := BitVec.ofNat 5 (2 * k.toNat)

/-- A Boolean as a field of one bit. -/
def bit (b : Bool) : Nat := if b then 1 else 0

/-- Bits 27:0 of the C word of an instruction (R47, R52); none for an A word or an event. -/
def encodeCBits : Instr → Option Nat
  | .nop => some (0x01 * 2 ^ 22)
  | .yield => some (encCR 0x02 0 0 0 0)
  | .wfe => some (encCR 0x02 0 0 0 1)
  | .eret => some (encCR 0x02 0 0 0 2)
  | .lexit lv => some (encCR 0x02 0 0 0 (4 + bit lv))
  | .trap imm => some (encCI 0x03 0 0 imm.toNat)
  | .srd d n => some (encCI 0x04 d 0 n.toNat)
  | .swr n a => some (encCI 0x05 0 a n.toNat)
  | .semsig s a => some (encCR 0x06 (wide s) a 0 0)
  | .semwait s => some (encCR 0x06 (wide s) 0 0 1)
  | .vxp mk mz r vce vc => some (0x07 * 2 ^ 22 + mk.toNat * 2 ^ 19 + bit mz * 2 ^ 18 + r.code * 2 ^ 15 + bit vce * 2 ^ 14
      + vc.toNat * 2 ^ 10)
  | .add d a b => some (encCR 0x08 d a b 0)
  | .sub d a b => some (encCR 0x08 d a b 1)
  | .and d a b => some (encCR 0x08 d a b 2)
  | .or d a b => some (encCR 0x08 d a b 3)
  | .xor d a b => some (encCR 0x08 d a b 4)
  | .sll d a b => some (encCR 0x08 d a b 5)
  | .srl d a b => some (encCR 0x08 d a b 6)
  | .sra d a b => some (encCR 0x08 d a b 7)
  | .slt d a b => some (encCR 0x08 d a b 8)
  | .sltu d a b => some (encCR 0x08 d a b 9)
  | .min d a b => some (encCR 0x08 d a b 10)
  | .max d a b => some (encCR 0x08 d a b 11)
  | .minu d a b => some (encCR 0x08 d a b 12)
  | .maxu d a b => some (encCR 0x08 d a b 13)
  | .mul d a b => some (encCR 0x08 d a b 16)
  | .mulh d a b => some (encCR 0x08 d a b 17)
  | .mulhu d a b => some (encCR 0x08 d a b 18)
  | .div d a b => some (encCR 0x08 d a b 20)
  | .divu d a b => some (encCR 0x08 d a b 21)
  | .rem d a b => some (encCR 0x08 d a b 22)
  | .remu d a b => some (encCR 0x08 d a b 23)
  | .clz d a => some (encCR 0x08 d a 0 24)
  | .popc d a => some (encCR 0x08 d a 0 25)
  | .bswap d a => some (encCR 0x08 d a 0 26)
  | .sext8 d a => some (encCR 0x08 d a 0 28)
  | .sext16 d a => some (encCR 0x08 d a 0 29)
  | .sext32 d a => some (encCR 0x08 d a 0 30)
  | .zext8 d a => some (encCR 0x08 d a 0 32)
  | .zext16 d a => some (encCR 0x08 d a 0 33)
  | .zext32 d a => some (encCR 0x08 d a 0 34)
  | .gaddr d a b => some (encCR 0x08 d a b 48)
  | .adds d a b sh => some (encCR 0x08 d a b (40 + sh.toNat))
  | .addi d a imm => some (encCI 9 d a imm.toNat)
  | .andi d a imm => some (encCI 10 d a imm.toNat)
  | .ori d a imm => some (encCI 11 d a imm.toNat)
  | .xori d a imm => some (encCI 12 d a imm.toNat)
  | .slti d a imm => some (encCI 13 d a imm.toNat)
  | .slli d a n => some (encCI 0x0E d a (0 * 2 ^ 10 + n.toNat))
  | .srli d a n => some (encCI 0x0E d a (1 * 2 ^ 10 + n.toNat))
  | .srai d a n => some (encCI 0x0E d a (2 * 2 ^ 10 + n.toNat))
  | .lui d imm => some (0x0F * 2 ^ 22 + d.toNat * 2 ^ 17 + imm.toNat)
  | .beq a b off => some (encCI 16 a b off.toNat)
  | .bne a b off => some (encCI 17 a b off.toNat)
  | .blt a b off => some (encCI 18 a b off.toNat)
  | .bge a b off => some (encCI 19 a b off.toNat)
  | .bltu a b off => some (encCI 20 a b off.toNat)
  | .bgeu a b off => some (encCI 21 a b off.toNat)
  | .j off => some (0x16 * 2 ^ 22 + off.toNat)
  | .call off => some (0x17 * 2 ^ 22 + off.toNat)
  | .jr a => some (encCR 0x18 0 a 0 0)
  | .callr a => some (encCR 0x18 0 a 0 1)
  | .ret => some (encCR 0x18 0 0 0 2)
  | .loop lv cnt len => some (0x19 * 2 ^ 22 + bit lv * 2 ^ 21 + cnt.toNat * 2 ^ 9 + len.toNat)
  | .loopr lv a len => some (0x1A * 2 ^ 22 + bit lv * 2 ^ 21 + a.toNat * 2 ^ 16 + len.toNat)
  | .cbr a g tag off => some (0x1B * 2 ^ 22 + a.toNat * 2 ^ 17 + g.toNat * 2 ^ 13 + tag.toNat * 2 ^ 9 + off.toNat)
  | .cvoteAnd d a tag => some (encCR 0x1C d a 0 tag.toNat)
  | .cvoteOr d a tag => some (encCR 0x1C d a 0 (16 + tag.toNat))
  | .cmem d a => some (encCR 0x1C d a 0 32)
  | .gbar => some (encCR 0x1C 0 0 0 48)
  | .cbar => some (encCR 0x1C 0 0 0 64)
  | .galloc g => some (encCR 0x1C (wide g) 0 0 80)
  | .gset g a => some (encCR 0x1C (wide g) a 0 96)
  | .gres g => some (encCR 0x1C (wide g) 0 0 112)
  | .spawn off => some (0x1D * 2 ^ 22 + off.toNat)
  | .pubf a => some (encCR 0x1E 0 a 0 0)
  | .tend => some (encCR 0x1E 0 0 0 1)
  | .sync => some (encCR 0x1E 0 0 0 2)
  | .wpush a b => some (encCR 0x1E 0 a b 3)
  | .wpop d => some (encCR 0x1E d 0 0 4)
  | .donate a b => some (encCR 0x1E 0 a b 5)
  | .dpull d a => some (encCR 0x1E d a 0 6)
  | .quiet d => some (encCR 0x1E d 0 0 7)
  | .ld t b sz o off => some (encCM 0x20 t b sz.code o.code off)
  | .st t b sz o off => some (encCM 0x21 t b sz.code o.code off)
  | .ldq t b o off => some (encCM 0x22 (twice t) b 0 o.code off)
  | .stq t b o off => some (encCM 0x22 (twice t) b 1 o.code off)
  | .ldv d a b o => some (encCR 0x23 (wide d) a b (o.code * 4))
  | .stv d a b o => some (encCR 0x23 (wide d) a b (16 + o.code * 4))
  | .ldm d a o => some (encCR 0x23 (wide d) a 0 (32 + o.code * 4))
  | .stm d a o => some (encCR 0x23 (wide d) a 0 (48 + o.code * 4))
  | .amoAdd d a b dbl o => some (encCR 0x24 d a b (0 + bit dbl * 4 + o.code))
  | .amoAnd d a b dbl o => some (encCR 0x24 d a b (8 + bit dbl * 4 + o.code))
  | .amoOr d a b dbl o => some (encCR 0x24 d a b (16 + bit dbl * 4 + o.code))
  | .amoXor d a b dbl o => some (encCR 0x24 d a b (24 + bit dbl * 4 + o.code))
  | .amoMin d a b dbl o => some (encCR 0x24 d a b (32 + bit dbl * 4 + o.code))
  | .amoMax d a b dbl o => some (encCR 0x24 d a b (40 + bit dbl * 4 + o.code))
  | .amoMinu d a b dbl o => some (encCR 0x24 d a b (48 + bit dbl * 4 + o.code))
  | .amoMaxu d a b dbl o => some (encCR 0x24 d a b (56 + bit dbl * 4 + o.code))
  | .amoSwap d a b dbl o => some (encCR 0x24 d a b (64 + bit dbl * 4 + o.code))
  | .amoFadd d a b dbl o => some (encCR 0x24 d a b (72 + bit dbl * 4 + o.code))
  | .cas d a b dbl o => some (encCR 0x24 d a b (80 + bit dbl * 4 + o.code))
  | .casq d a b o => some (encCR 0x24 (twice d) a (twice b) (92 + o.code))
  | .fence s k => some (encCR 0x25 0 0 0 (s.code * 4 + k.code))
  | .pf a w => some (encCR 0x25 0 a 0 (32 + bit w))
  | .cfl a => some (encCR 0x25 0 a 0 64)
  | .czero a => some (encCR 0x25 0 a 0 96)
  | .sld d a e => some (encCI 0x26 d a e.toNat)
  | .sst d a e => some (encCI 0x26 d a (256 + e.toNat))
  | .sldv d a e => some (encCI 0x26 (wide d) a (512 + e.toNat))
  | .shloc d a e => some (encCI 0x26 d a (768 + e.toNat))
  | .shwr a e => some (encCI 0x26 0 a (1024 + e.toNat))
  | .shswap e => some (encCI 0x26 0 0 (1280 + e.toNat))
  | .objdef d a => some (encCR 0x27 d a 0 0)
  | .objdrop a => some (encCR 0x27 0 a 0 1)
  | .mapq d a => some (encCR 0x27 d a 0 2)
  | .rlq d a => some (encCR 0x27 d a 0 3)
  | .amsend d a b => some (encCR 0x28 d a b 0)
  | .amret a => some (encCR 0x28 0 a 0 1)
  | .launch d a b => some (encCR 0x28 d a b 2)
  | .eng d a g => some (encCR 0x29 d a 0 (g.toNat * 8))
  | .copy d a b g => some (encCR 0x29 d a b (g.toNat * 8 + 1))
  | .gath d a b g => some (encCR 0x29 d a b (g.toNat * 8 + 2))
  | .scat d a b g => some (encCR 0x29 d a b (g.toNat * 8 + 3))
  | .mcast d a b g => some (encCR 0x29 d a b (g.toNat * 8 + 4))
  | .sortc d a b g => some (encCR 0x29 d a b (g.toNat * 8 + 5))
  | .ringi n a b => some (encCR 0x2A 0 a b (n.toNat * 16))
  | .ringa n a => some (encCR 0x2A 0 a 0 (n.toNat * 16 + 1))
  | .ringq d n => some (encCR 0x2A d 0 0 (n.toNat * 16 + 2))
  | .mbxpost a b => some (encCR 0x2B 0 a b 0)
  | .mbxread d a => some (encCR 0x2B d a 0 1)
  | .mbxclr a => some (encCR 0x2B 0 a 0 2)
  | .cbpost d a b => some (encCR 0x2B d a b 3)
  | .cbtake d a => some (encCR 0x2B d a 0 4)
  | .mwl d a b g => some (encCR 0x2C d a b (g.toNat * 8 + 0))
  | .mwls d a b g => some (encCR 0x2C d a b (g.toNat * 8 + 1))
  | .mma d a b g => some (encCR 0x2C d a b (g.toNat * 8 + 2))
  | .mgrp d a b g => some (encCR 0x2C d a b (g.toNat * 8 + 3))
  | .macz d a b g => some (encCR 0x2C d a b (g.toNat * 8 + 4))
  | .mdrain d a b g => some (encCR 0x2C d a b (g.toNat * 8 + 5))
  | .mwait a => some (encCR 0x2C 0 a 0 6)
  | .jdec d a => some (encCR 0x2D d a 0 0)
  | .boost a => some (encCR 0x2D 0 a 0 1)
  | .etq d a => some (encCR 0x2D d a 0 2)
  | _ => none

def encAF (maj : Nat) (d a b : BitVec 5) (r fs fn : Nat) : Nat :=
  maj * 2 ^ 24 + d.toNat * 2 ^ 19 + a.toNat * 2 ^ 14 + b.toNat * 2 ^ 9 + r * 2 ^ 6 + fs * 2 ^ 4 + fn

def encAV (maj : Nat) (d a b : BitVec 4) (e : Et) (fn : Nat) : Nat :=
  maj * 2 ^ 24 + d.toNat * 2 ^ 20 + a.toNat * 2 ^ 16 + b.toNat * 2 ^ 12 + e.code * 2 ^ 8 + fn

def encAK (maj : Nat) (d : BitVec 5) (a b : BitVec 3) : Nat :=
  maj * 2 ^ 24 + d.toNat * 2 ^ 19 + a.toNat * 2 ^ 15 + b.toNat * 2 ^ 11

/-- The A word of an instruction (R48, R53); none for a C word or an event. -/
def encodeA : Instr → Option Nat
  | .nopA => some 0
  | .fadd d a b r f => some (encAF 0x10 d a b r.code f.code 0)
  | .fsub d a b r f => some (encAF 0x10 d a b r.code f.code 1)
  | .fmul d a b r f => some (encAF 0x10 d a b r.code f.code 2)
  | .fdiv d a b r f => some (encAF 0x10 d a b r.code f.code 3)
  | .fmin d a b f => some (encAF 0x10 d a b 0 f.code 4)
  | .fmax d a b f => some (encAF 0x10 d a b 0 f.code 5)
  | .fsqrt d a r f => some (encAF 0x10 d a 0 r.code f.code 6)
  | .fclass d a f => some (encAF 0x10 d a 0 0 f.code 7)
  | .ffma d a b c r s => some (0x11 * 2 ^ 24 + d.toNat * 2 ^ 19 + a.toNat * 2 ^ 14 + b.toNat * 2 ^ 9 + c.toNat * 2 ^ 4
      + r.code * 2 + bit s)
  | .fcmp cc d a b f => some (encAF 0x12 d a b 0 f.code cc.code)
  | .fcvt d a dt st r => some (0x13 * 2 ^ 24 + d.toNat * 2 ^ 19 + a.toNat * 2 ^ 14 + dt.code * 2 ^ 10 + st.code * 2 ^ 6
      + r.code * 2 ^ 3)
  | .fsin d a s => some (encAF 0x14 d a 0 0 (bit s) 0)
  | .fcos d a s => some (encAF 0x14 d a 0 0 (bit s) 1)
  | .fexp2 d a s => some (encAF 0x14 d a 0 0 (bit s) 2)
  | .flog2 d a s => some (encAF 0x14 d a 0 0 (bit s) 3)
  | .frcp d a s => some (encAF 0x14 d a 0 0 (bit s) 4)
  | .frsq d a s => some (encAF 0x14 d a 0 0 (bit s) 5)
  | .vadd d a b e => some (encAV 32 d a b e 0)
  | .vsub d a b e => some (encAV 33 d a b e 0)
  | .vmul d a b e => some (encAV 34 d a b e 0)
  | .vfma d a b e => some (encAV 35 d a b e 0)
  | .vfms d a b e => some (encAV 36 d a b e 0)
  | .vmin d a b e => some (encAV 37 d a b e 0)
  | .vmax d a b e => some (encAV 38 d a b e 0)
  | .vabs d a e => some (encAV 39 d a 0 e 0)
  | .vneg d a e => some (encAV 40 d a 0 e 0)
  | .vdiv d a b e => some (encAV 41 d a b e 0)
  | .vsqrt d a e => some (encAV 42 d a 0 e 0)
  | .vand d a b e => some (encAV 44 d a b e 0)
  | .vor d a b e => some (encAV 45 d a b e 0)
  | .vxor d a b e => some (encAV 46 d a b e 0)
  | .vnot d a e => some (encAV 47 d a 0 e 0)
  | .vshl d a b e => some (encAV 48 d a b e 0)
  | .vshr d a b e => some (encAV 49 d a b e 0)
  | .vsra d a b e => some (encAV 50 d a b e 0)
  | .vmov d a e => some (encAV 54 d a 0 e 0)
  | .vtrn d a e => some (encAV 58 d a 0 e 0)
  | .vchain d a b e => some (encAV 62 d a b e 0)
  | .vcvt d a e => some (encAV 64 d a 0 e 0)
  | .vqnt d a b e => some (encAV 65 d a b e 0)
  | .vdqnt d a b e => some (encAV 66 d a b e 0)
  | .vxmax d a e => some (encAV 67 d a 0 e 0)
  | .vexp2 d a e => some (encAV 68 d a 0 e 0)
  | .vlog2 d a e => some (encAV 69 d a 0 e 0)
  | .vrcp d a e => some (encAV 70 d a 0 e 0)
  | .vrsq d a e => some (encAV 71 d a 0 e 0)
  | .vsin d a e => some (encAV 72 d a 0 e 0)
  | .vcos d a e => some (encAV 73 d a 0 e 0)
  | .vcmp cc d a b e => some (encAV 52 (BitVec.ofNat 4 d.toNat) a b e cc.code)
  | .vsel d a b n e => some (encAV 53 d a b e n.toNat)
  | .vbcast d a e => some (0x37 * 2 ^ 24 + d.toNat * 2 ^ 20 + a.toNat * 2 ^ 15 + e.code * 2 ^ 8)
  | .vextr d a b => some (0x38 * 2 ^ 24 + d.toNat * 2 ^ 19 + a.toNat * 2 ^ 15 + b.toNat * 2 ^ 10)
  | .viota d e => some (encAV 57 d 0 0 e 0)
  | .vredr o d a e => some (encAV 60 d a 0 e o.code)
  | .vredc o d a e => some (encAV 61 d a 0 e o.code)
  | .mand d a b => some (encAK 80 (wide d) a b)
  | .mor d a b => some (encAK 81 (wide d) a b)
  | .mxor d a b => some (encAK 82 (wide d) a b)
  | .mnot d a => some (encAK 83 (wide d) a 0)
  | .mpopc d a => some (encAK 84 d a 0)
  | .mfirst d a => some (encAK 85 d a 0)
  | _ => none

/-- The C word of an instruction with its lone bit and its wait count (R36). -/
def encodeC (lone : Bool) (w : BitVec 3) (i : Instr) : Option Nat :=
  (encodeCBits i).map fun b => bit lone * 2 ^ 31 + w.toNat * 2 ^ 28 + b

/-- The words of a well-formed instruction: a lone C word with no wait (VXP, which stands only in a pair, with L = 0), or the
pair of C NOP and the A word. An event has no words. -/
def encode (i : Instr) : Option (List Nat) :=
  match encodeA i with
  | some a => some [0x00400000, a]
  | none =>
    match i with
    | .vxp .. => (encodeC false 0 i).map fun c => [c]
    | _ => (encodeC true 0 i).map fun c => [c]

end Sys2Proof
end

