-- ==== Sys2Proof/Machine/Map.lean ====
section
/-!
DEFINITION. Sparse data by a numeric key: a list of pairs with the keys rising and none twice. An absent key reads as a
default. `put` keeps entries equal to the default; `putC` removes them, which makes equal maps equal lists.
-/
namespace Sys2Proof.Machine

/-- Sparse data by a numeric key. -/
abbrev Map (α : Type) := List (Nat × α)

/-- The value at a key. -/
def Map.find {α : Type} (m : Map α) (k : Nat) : Option α :=
  match m with
  | [] => none
  | (j, v) :: r => if k = j then some v else Map.find r k

/-- The value at a key, or the default. -/
def Map.get {α : Type} (d : α) (m : Map α) (k : Nat) : α := (Map.find m k).getD d

/-- Store a value at a key. -/
def Map.put {α : Type} (m : Map α) (k : Nat) (v : α) : Map α :=
  match m with
  | [] => [(k, v)]
  | (j, u) :: r => if k = j then (k, v) :: r else if k < j then (k, v) :: (j, u) :: r else (j, u) :: Map.put r k v

/-- Remove a key. -/
def Map.del {α : Type} (m : Map α) (k : Nat) : Map α := m.filter fun p => p.1 != k

/-- Store a value at a key; the default removes the entry. -/
def Map.putC {α : Type} [DecidableEq α] (d : α) (m : Map α) (k : Nat) (v : α) : Map α :=
  if v = d then Map.del m k else Map.put m k v

/-- The canonical form: keys strictly rising and no entry equal to the default. -/
def Map.wf {α : Type} [DecidableEq α] (d : α) : Map α → Bool
  | [] => true
  | [(_, v)] => v ≠ d
  | (j, v) :: (k, u) :: r => v ≠ d && j < k && Map.wf d ((k, u) :: r)

end Sys2Proof.Machine
end

