-- ==== Sys2Proof/Machine/State.lean ====
section
/-!
DEFINITION. The state of the machine as plain data: strands, cores, tiles, clusters, dies, packages, jobs and memory, each
held sparsely under its number, the reasons a step may stop, and the state after reset.
-/
namespace Sys2Proof.Machine

open Sys2Proof

/-! ## Strands -/

/-- Strand states (R71). -/
inductive StrandState where
  | off | dormant | ready | active | blocked | held
  deriving DecidableEq, Repr

/-- A guard slot's state with the binding of a PENDING slot (R64, R177); `comb` is a combined guard of R192 over the software
slot it names. -/
inductive Guard where
  | free | soft | coll | tru | fls
  | comb (sw : BitVec 4)
  deriving DecidableEq, Repr

/-- The registers of a strand (R59, R65). -/
structure Arch where
  x : Vector Word 32
  v : Vector VecVal 16
  m : Vector MaskVal 8
  g : Vector Guard 16
  lc0 : BitVec 32
  ls0 : Word
  le0 : Word
  lc1 : BitVec 32
  ls1 : Word
  le1 : Word
  ras : List Word
  h : Vector Word 4
  mbset : BitVec 16
  mbidx : BitVec 32
  mbcnt : BitVec 32
  cseq : BitVec 16
  ev : Bool
  pc : Word
  status : Word
  cause : Word
  epc : Word
  eval : Word
  tvec : Word
  fmode : Word
  vshape : Word
  rsbase : Word
  rslim : Word
  rstop : Word
  depth : BitVec 32
  ctxbase : Word
  frame : Word
  deriving DecidableEq, Repr

/-- A result of a unit that has not landed yet (R42-R44, R90): the register with the new value and the bits it keeps, or flags
of FMODE. `due` is the cycle at which it lands; none while it waits for the event numbered `id`. -/
structure Pend where
  reg : Option Reg
  val : VecVal
  keep : VecVal
  flags : BitVec 5
  due : Option Nat
  fixed : Bool
  id : Nat
  deriving DecidableEq, Repr

/-- A held store's entry in the holding buffer (R190); `nib` names the half of its one byte that a sub-byte store writes, `sure` an entry
of a confirmed path, which drains (R195). -/
structure Held where
  gva : Word
  mask : BitVec 16
  data : BitVec 128
  rel : Bool
  asid : BitVec 16
  wld : Bool
  size : Nat
  nib : Option Bool
  sure : Bool
  deriving DecidableEq, Repr

/-- The checkpoint of a CBR (R182, R188). -/
structure Checkpoint where
  arch : Arch
  pend : List Pend
  slot : BitVec 4
  dir : Bool
  taken : Word
  fall : Word
  mark : Nat
  was : Guard
  deriving DecidableEq, Repr

/-- The open collective of a strand (R175, R180): where it was issued, its lanes, and what its result goes to. -/
structure OpenColl where
  kind : CollKind
  tag : BitVec 4
  pc : Word
  seq : BitVec 16
  id : Nat
  sent : Bool
  outcome : Option Lanes
  deriving DecidableEq, Repr

/-- What a BLOCKED strand waits for (R17, R72). -/
inductive Wait where
  | none
  | result (id : Nat)
  | tag (n : Nat)
  | event
  | sem (s : BitVec 3)
  | sync
  | outcome
  | retry
  | miss
  | full
  | charge
  | engine
  | reply
  | steal
  deriving DecidableEq, Repr

/-- Why a strand is HELD (R72). -/
inductive HeldWhy where
  | none
  | access (acc : Nat)
  | fetch
  | unit (g : Word)
  | delegated (hstr : Nat)
  | preempted
  | steal
  deriving DecidableEq, Repr

/-- A cause that waits for the strand's next unit boundary (R196, R264-R268, R279): its code, EVAL, and EPC where the cause
names a unit of its own. -/
structure Posted where
  code : BitVec 8
  eval : Word
  epc : Option Word
  acc : Nat
  deriving DecidableEq, Repr

/-- Commands that a task has left with a strand that no longer runs it (R242): those of depth at least `depth` that the strand `sid` issued up
to number `upto`. -/
structure Left where
  sid : Nat
  upto : Nat
  depth : Nat
  deriving DecidableEq, Repr

/-- An entry of a lane (R301): its four words, its push number, the cycle of the push, whether it stands in the spill array
(R303), the thief or donor that has reserved it (R324), who pushed it and how far that strand had come (R326), and the commands of its task
(R242). -/
structure LaneEntry where
  w0 : Word
  fr : Word
  a0 : Word
  a1 : Word
  num : Nat
  at_ : Nat
  spilled : Bool
  resv : Option Nat
  src : Nat
  stamp : Nat
  left : List Left
  deriving DecidableEq, Repr

/-- What a theft takes from a lane (R322): the records, the entries that leave the lane, the lone record that
stays with its lower half, and the frames to increment. -/
structure Taking where
  recs : List LaneEntry
  gone : List Nat
  keep : Option LaneEntry
  incs : List Word
  deriving DecidableEq, Repr

/-- What an engine command waits for before it may run (R179, R192): a slot to become TRUE, the path run ahead on to be
confirmed; or its verdict. `key` names the command in its strand's core, `comb` a slot claimed for both conditions. -/
structure GuardedCmd where
  key : Nat
  slot : Option (BitVec 4)
  path : Bool
  comb : Option (BitVec 4)
  verdict : Option Bool
  deriving DecidableEq, Repr

/-- A join decrement that a TEND or a JDEC has sent (R306, R313, R408): its frame, what the TEND's pops come to (the return-address
store, RSTOP, DEPTH and the anchor, none where there is no entry marked 10), the number of its message, and the reply: a cause's code or
0, and 1 for RESUME. -/
structure Ask where
  id : Nat
  target : Word
  ras : List Word
  rstop : Word
  depth : BitVec 32
  anchor : Option Word
  reply : Option (Nat × Bool)
  deriving DecidableEq, Repr

/-- The descriptors of a stolen record (R325): GVA and SIZE of NT0 to NT3 once they are read, the h values settled so far, and
the cause of a read that was refused (R312). -/
structure StolenStart where
  desc : Option (List (Word × Nat))
  hs : List Word
  fault : Option Nat
  deriving DecidableEq, Repr

/-- A value of an exchange that has arrived (R160). -/
structure XchgIn where
  src : Nat
  chain : Bool
  num : Nat
  total : Bool
  et : Et
  rlog : Nat
  vals : List Word
  deriving DecidableEq, Repr

/-- An exchange that has been issued and has no result yet (R160-R163): its number of its kind, the unit, the result it sets,
the participant's own values with their flags, the earliest cycle of its result, and whether its value has been sent. -/
structure XOpen where
  chain : Bool
  num : Nat
  id : Nat
  pc : Word
  et : Et
  rlog : Nat
  nc : Nat
  vals : List Word
  rm : Rm
  flags : BitVec 5
  ready : Nat
  sent : Bool
  deriving DecidableEq, Repr

/-- How a DORMANT strand was dispatched (R60, R112, R338). -/
inductive Origin where
  | none
  | message (m : Msg)
  | delegated (trapped : Nat)
  deriving DecidableEq, Repr

/-- A write of another strand that a load has returned before it was performed everywhere (R231): the load's number, and the core and
number of the store. -/
structure Seen where
  load : Nat
  eid : Nat
  id : Nat
  deriving DecidableEq, Repr

/-- A strand: its registers and what the core holds for it. `preempt` is a pre-empt pending; `yielded` says that it became READY by YIELD
(R19). `flagSeen` are the flags of FMODE when they were last looked at, and `flagTime` the cycle of each flag's last change (R135); `seen` are the
writes that a later release carries with it, and `fences` its release fences that an older
store of it may still outlast (R231); `rlqs` are its RLQs without a result: the result's number, the entry and the word (R401). `taking` is
what a theft for the strand has reserved, with the lane (R324); `left` are commands of its tasks, by the task's depth, that stand elsewhere
(R242). -/
structure Strand where
  arch : Arch
  st : StrandState
  stamp : Nat
  dispatched : Bool
  wait : Wait
  waited : Nat
  granted : Bool
  lastIssue : Option Nat
  pend : List Pend
  worker : Bool
  posted : List Posted
  ext : Option Word
  wdog : Bool
  preempt : Bool
  yielded : Bool
  forced : Bool
  prior : StrandState
  why : HeldWhy
  origin : Origin
  ra : Option Checkpoint
  hold : List Held
  coll : Option OpenColl
  sent : Bool
  cbarN : Nat
  chainN : Nat
  maxN : Nat
  xin : List XchgIn
  xop : List XOpen
  refill : Option Word
  lane : List LaneEntry
  pushN : Nat
  inCbar : Bool
  gcmds : List GuardedCmd
  detect : Option Nat
  stolen : List LaneEntry
  poll : Option Nat
  ask : Option Ask
  progress : Option Nat
  start : Option StolenStart
  refused : Option Word
  owed : List Nat
  acqs : List Nat
  flagSeen : BitVec 5
  flagTime : Vector (Option Nat) 5
  seen : List Seen
  fences : List Nat
  rlqs : List (Nat × Nat × Nat)
  taking : Option (Nat × Taking)
  left : List (Nat × Left)
  reread : Option Nat
  deriving DecidableEq, Repr

/-- The issue unit being executed (R38-R40): its strand, address, next address, cycle of issue, the VXP fields of its C word,
and how it has gone so far. -/
inductive UnitStatus where
  | running
  | trapped (rank : Nat)
  | waiting
  | jumped
  deriving DecidableEq, Repr

/-- The fields of a VXP word (R50). -/
structure Vxp where
  mask : MReg
  mz : Bool
  rmo : Rm
  vc : Option VReg
  deriving DecidableEq, Repr

/-- The unit in hand. -/
structure UnitCtx where
  sid : Nat
  pc : Word
  next : Word
  lone : Bool
  now : Nat
  vxp : Vxp
  status : UnitStatus
  deriving DecidableEq, Repr

/-! ## Accesses -/

/-- A piece of an access inside one 128-byte line: its first byte, its length in bytes, and for a 4-bit element whether the
upper nibble is meant (R123, R253). -/
structure Piece where
  gva : Word
  len : Nat
  nib : Option Bool
  deriving DecidableEq, Repr

/-- Where the bits of a load go. -/
inductive LdDst where
  | none
  | x (r : XReg)
  | pair (r : BitVec 4)
  | v (r : VReg)
  | m (r : MReg)
  | refill
  deriving DecidableEq, Repr

/-- The operation of an atomic (R255-R257). -/
inductive AmoOp where
  | add | and | or | xor | min | max | minu | maxu | swap | fadd
  | cas (expected : Nat)
  deriving DecidableEq, Repr

/-- What an access does; data counts its bits from the first piece's first byte up. -/
inductive AccOp where
  | load (dst : LdDst)
  | store (data : Nat)
  | amo (op : AmoOp) (y : Nat) (dst : LdDst) (reduction : Bool)
  | fence (sc : Scope) (k : FenceKind)
  | flush
  deriving DecidableEq, Repr

/-- Some bits of a byte: which, and their values. -/
abbrev Part := Byte × Byte

/-- An access that has issued and is not yet performed (R220, R228): its number, its strand, its pieces and its ordering; whether an
unmapped page holds it, and the lowest GVA that a service has refused it so far (R264); the bits that a load takes from held stores
(R191); whether it is an invariant load (R237); and, of a store that its die has written, the coherence objects (home die and index)
whose copies on other dies are still to be invalidated (R236). -/
structure Acc where
  id : Nat
  snum : Nat
  op : AccOp
  pieces : List Piece
  asid : BitVec 16
  wld : Bool
  user : Bool
  acq : Bool
  rel : Bool
  strong : Bool
  lines : Nat
  held : Bool
  overlay : List (Nat × Part)
  bad : Option Word
  inv : Bool
  drops : List (Nat × Nat)
  deriving DecidableEq, Repr

/-- An entry of the side log (R356): the line, the bytes written and their data, KIND with the reduction's operation and
size, and the issuing strand; which half of each byte a sub-byte store writes, and whether the owner has refused the store (R31). -/
structure SideEntry where
  line : Word
  mask : BitVec 128
  data : BitVec 1024
  rel : Bool
  red : Option AmoOp
  snum : Nat
  asid : BitVec 16
  wld : Bool
  id : Nat
  nib : Option Bool
  denied : Bool
  deriving DecidableEq, Repr

/-- An entry of a tile's range-lock table (R240, R401): first and last GVA, whether it is a destination, the engine kind, the
tag, the issuing EID, and the model's number of the command. -/
structure RLock where
  first : Word
  last : Word
  dst : Bool
  kind : Nat
  tag : Nat
  eid : Nat
  key : Nat
  deriving DecidableEq, Repr

/-! ## Cores, tiles, clusters -/

/-- A request of a core that expects a reply (R333, R334, R341): its destination, the strand, the result it sets, and whether it holds a
command record. -/
structure Req where
  dest : Nat
  snum : Nat
  id : Nat
  cmd : Bool
  depth : Nat
  deriving DecidableEq, Repr

/-- The round of a core's steal engine (R321, R323): the strands that wait, the next probe, and the clusters and dies drawn. -/
structure Steal where
  queue : List Nat
  probe : Nat
  drawn : List Nat
  busy : Bool
  deriving DecidableEq, Repr

/-- An operand ring (R348) with the advances that wait at it (R349). -/
structure Ring where
  v : Bool
  base : Nat
  sl : Nat
  sb : BitVec 12
  tail : BitVec 16
  head : BitVec 16
  waiting : List (Option Nat)
  deriving DecidableEq, Repr

/-- Where a page or a device address stands (R207, R211): HBM (home 0 cached, 1 never cached) with its DPA, a tile's SRAM with
a SPAN code, or a slice's pinned area. -/
inductive Place where
  | hbm (die dpa : Nat) (cached : Bool)
  | tile (die clu tile off span : Nat)
  | slice (die clu off : Nat)
  deriving DecidableEq, Repr

/-- The page a request reaches (R380): the die that translates it, the page size, the leaf in force, and the index of the HOME
entry of a moved page. -/
structure Page where
  die : Nat
  size : Nat
  leaf : Word
  home : Option Nat
  nominal : Nat
  page : Nat
  deriving DecidableEq, Repr

/-- How far a running command has come (R343): the writes it has made, its flags, the pages written, and what it has read and still needs:
the index of the row it stands at, the keys of a sort, or the tiles that refuse a multicast. -/
structure EngProg where
  done : Nat
  flags : BitVec 5
  seen : List Page
  vals : List Nat
  deriving DecidableEq, Repr

/-- A copy, gather or sort-count engine (R340): its inbox in arrival order, the commands that run under their tags, and how far they have
come. -/
structure Engine where
  inbox : List Msg
  running : Map Msg
  prog : Map EngProg
  deriving DecidableEq, Repr

/-- The operation of a matrix command (R275). -/
inductive MOp where
  | mwl | mwls | mma | mgrp | macz | mdrain
  deriving DecidableEq, Repr

/-- A matrix command in the inbox (R276): its operation, operands, tag, and the message that brought it. -/
structure MCmd where
  op : MOp
  xa : Word
  xb : Word
  tag : Nat
  msg : Msg
  deriving DecidableEq, Repr

/-- A matrix tag (R276, R278): its generation, whether it is in use, its command's strand and number, and a fault that its strand has not
taken yet. -/
structure MTag where
  gen : BitVec 16
  used : Bool
  snum : Nat
  seq : Nat
  depth : Nat
  fault : Option Word
  deriving DecidableEq, Repr

/-- A group record of MGRP (R288). -/
structure MGroup where
  m : Nat
  kb : Nat
  c : Word
  cp : Nat
  sco : Nat
  wso : Nat
  deriving DecidableEq, Repr

/-- A scale of an activation row: the bits of an FP32 number, or an S10 code used exactly (R287). -/
inductive FScale where
  | none
  | f32 (b : Nat)
  | s10 (c : Nat)
  deriving DecidableEq, Repr

/-- A row that has entered the array and is not yet accumulated (R277): its number, its bytes, its scale, and whether its slot
is popped after it (R281). -/
structure MRow where
  m : Nat
  bytes : Nat
  scale : FScale
  pop : Bool
  deriving DecidableEq, Repr

/-- A page of an accumulator region as the command's check has found it (R287): its 64 KiB region, the place of the region's first byte,
and the page. -/
structure AccPage where
  region : Nat
  place : Place
  page : Option Page
  deriving DecidableEq, Repr

/-- A matrix command that has started (R277, R289): its groups (one for MMA, MACZ and MDRAIN), read by MGRP from its table (`tabled`); the
group, K block and row it stands at; whether it is past its checks (`begun`), its panel is latched, its tokens are charged at its start, it
has come to its end; the panel in force with its Palette and its number; the row in the array; the flags, the pages written and
the pages of its regions; and the unmapped page it waits for. -/
structure MRun where
  cmd : MCmd
  groups : List MGroup
  g : Nat
  kb : Nat
  m : Nat
  tabled : Bool
  begun : Bool
  latched : Bool
  paid : Bool
  done : Bool
  pal : Word
  panel : Nat
  panelNo : Nat
  row : Option MRow
  flags : BitVec 5
  seen : List Nat
  pages : List AccPage
  waits : Option Word
  deriving DecidableEq, Repr

/-- A tile's matrix engine (R274): Palette, latched panel and how many panels have been latched, tags, inbox, the commands that have started
and not ended, oldest first (R277), the tags whose fault is not taken yet with the number of commands discarded behind each, and the tags
of the commands discarded meanwhile (R279). -/
structure Matrix where
  palette : Word
  panel : Nat
  latches : Nat
  tags : Vector MTag 64
  inbox : List MCmd
  runs : List MRun
  behind : List (Nat × Nat)
  gone : List Nat
  deriving DecidableEq, Repr

/-- A core (R10, R13, R65, R220). -/
structure Core where
  wdog : BitVec 32
  wcount : Nat
  jobid : BitVec 32
  asid : BitVec 16
  lcn : BitVec 22
  dqbase : Word
  cycle : Nat
  evc : Vector Word 8
  evsel : Vector (BitVec 16) 8
  w : Nat
  job : Option Nat
  free : Nat
  vfree : Nat
  accs : List Acc
  side : List SideEntry
  dirtyN : Nat
  boost : Nat
  reqs : Map Req
  swq : List Msg
  marked : Bool
  cnt : Int
  seed : BitVec 16
  steal : Steal
  deriving DecidableEq, Repr

/-- A tile (R10, R109). -/
structure Tile where
  sem : Vector (BitVec 16) 8
  semq : List (BitVec 3 × Nat)
  locks : Map RLock
  rings : Vector Ring 8
  copy : Engine
  matrix : Matrix
  deriving DecidableEq, Repr

/-- A line of HBM present in the slices of its die (R214, R236, R238): the clusters that hold it, the one that holds it dirty
with what HBM holds meanwhile, and the sectors the host owns. -/
structure Line where
  line : Nat
  holders : List Nat
  dirty : Option Nat
  back : BitVec 1024
  host : BitVec 2
  deriving DecidableEq, Repr

/-- A charge of energy tokens that waits or has been taken (R411, R412): its requester, the unit that waits for it (none for a
matrix engine), its cost, the cycle it became due, whether it is the head charge, and the balance it left when it was taken. -/
structure Charge where
  req : Nat
  sid : Option Nat
  pc : Word
  cost : Nat
  since : Nat
  head : Bool
  taken : Bool
  bal : Int
  deriving DecidableEq, Repr

/-- A cluster's own state: CFSUM.EFLG with the flags that engines have reported in their latest cycle (R134, R135), MDEP and SLCFG (R199, R215),
the energy-token bucket with the cycle it stands at (R409), the cycles in which charges waited since the last interval boundary and the cycle
of that boundary (R415), what a power limit has taken from REFILL (R451), HOT, OVER, VLIM and RETD (R414, R415, R427), the boost level settled
and the one its clock runs at, 3 below nominal (R417, R418, R420), its grace interval, whether it runs below nominal (R418), the number from
which new requests are held while its clock changes (R420), and gating (R421). -/
structure Cluster where
  eflg : BitVec 5
  reported : BitVec 5
  reportedAt : Nat
  mdepBusy : Bool
  mdep : BitVec 24
  pinw : BitVec 4
  slBusy : Bool
  tokens : Int
  refill : Nat
  time : Nat
  charges : List Charge
  waitN : Nat
  since : Nat
  cut : Nat
  hot : Bool
  overBit : Bool
  vlim : Bool
  retd : Bool
  level : Nat
  clk : Nat
  grace : Bool
  below : Bool
  hold : Option Nat
  gated : Bool
  gather : Engine
  sortc : Engine
  deriving DecidableEq, Repr

/-- An entry of the memory-side TLB (R371, R372): ASID, page size as a power of two, page number, the leaf in force with its
D and WV, the word loaded, and the DPA it was loaded from. -/
structure TlbEntry where
  asid : BitVec 16
  size : Nat
  page : Nat
  leaf : Word
  loaded : Word
  at_ : Nat
  deriving DecidableEq, Repr

/-- An event: the rows of spec/opcode_table.json that are no instruction, as data of the state (what has been set off, what
the agenda brings). Each has the constructor of `Instr` of the same name and data. -/
inductive Ev where
  | loadWaitSwitch (sid : Nat)
  | watchdog (eid : Nat)
  | external (p : Post)
  | preemptDeadline (job : Nat)
  | dormantDispatch (eid : Nat)
  | delegatedDispatch (sid : Nat)
  | delegatedReload (sid : Nat)
  | loadHandler (m : Msg)
  | storeHandler (m : Msg)
  | atomicHandler (m : Msg)
  | casHandler (m : Msg)
  | joinDecrement (m : Msg)
  | mailboxInsert (m : Msg)
  | ringAdvance (m : Msg)
  | ringAdvanceDeferred (tile : Nat) (ring : Nat)
  | semaphoreSignal (m : Msg)
  | exchange (x : Xchg)
  | subByteStore (m : Msg)
  | softwareMessage (m : Msg)
  | reply (m : Msg)
  | refusal (m : Msg)
  | resetAgent (die : Nat) (agent : Nat)
  | engineCommand (m : Msg)
  | engineCommandStart (e : EngRef)
  | engineCompletion (e : EngRef) (tag : Nat)
  | matrixPanelLatch (tile : Nat)
  | matrixRowEntry (tile : Nat)
  | matrixRowAccumulate (tile : Nat)
  | matrixTagComplete (tile : Nat) (tag : Nat)
  | engineFaultTaken (sid : Nat)
  | ringStallStop (tile : Nat)
  | drainRow (tile : Nat)
  | collectiveContribution (job : Nat) (member : Nat) (l : Lanes)
  | dieLanes (job : Nat) (die : Nat)
  | planeReduction (job : Nat)
  | collectiveOutcome (sid : Nat)
  | heldStoreDrain (sid : Nat)
  | cbarComplete (job : Nat) (cluster : Nat)
  | departureApplied (cluster : Nat)
  | mdepWrite (cluster : Nat) (val : Word)
  | cfsumWrite (cluster : Nat) (val : Word)
  | slcfgWrite (cluster : Nat) (val : Word)
  | slcfgDone (cluster : Nat)
  | registerWrite (r : RegRef) (val : Word)
  | stealProbe (eid : Nat)
  | stealRoundTimer (eid : Nat)
  | theft (thief : Nat) (victim : Nat) (probe : Nat)
  | stolenRecordStart (sid : Nat)
  | syncPoll (sid : Nat)
  | tokenPass (job : Nat)
  | sideLogRetire (sid : Nat) (gva : Word) (size : Nat) (data : Nat) (rel : Bool)
  | sideLogReplay (eid : Nat) (region : Nat)
  | faultOpen (sid : Nat) (gva : Word) (k : FaultKind)
  | tlbWalk (asid : Nat) (gva : Word)
  | dirtyLogMerge (eid : Nat)
  | inval (die : Nat)
  | resolve (die : Nat)
  | migrate (die : Nat)
  | migrateCommit (die : Nat) (slot : Nat)
  | scrub (die : Nat)
  | wsync (die : Nat)
  | doorbell (pkg : Nat) (fn : Nat) (q : Nat)
  | launchPacketArrival (pkg : Nat) (q : Nat) (src : LaunchSrc) (ret : Option (Nat × Nat)) (words : List Word)
  | placementTick (pkg : Nat)
  | launchRetry (pkg : Nat) (q : Nat)
  | placementReservation (pkg : Nat) (from_ : Nat) (q : Nat) (op : ResvOp) (cores : Nat)
  | residence (pkg : Nat) (q : Nat)
  | contextSave (job : Nat)
  | jobCompletion (job : Nat)
  | kill (job : Nat)
  | energyRefill (cluster : Nat)
  | energyCharge (cluster : Nat)
  | headCharge (cluster : Nat)
  | boostBoundary (pkg : Nat)
  | hotMark (cluster : Nat) (on : Bool)
  | clockSwitch (cluster : Nat)
  | quiesceTimeout (cluster : Nat)
  | clusterGate (cluster : Nat)
  | clusterWake (cluster : Nat)
  | vernierMeasure (cluster : Nat) (hours : Nat)
  | almanacWrite (pkg : Nat)
  | patrolScrub (granule : Nat) (uncorrectable : Bool)
  | powerLimitCrossing (pkg : Nat) (above : Bool)
  | powerManagerSetting (pkg : Nat) (what : PmSetting) (val : Nat)
  | flitSlot (pkg : Nat) (port : Nat)
  | flitReceive (pkg : Nat) (port : Nat) (f : Flit)
  | replayTimeout (pkg : Nat) (port : Nat)
  | retrain (pkg : Nat) (port : Nat)
  | retrainDone (pkg : Nat) (port : Nat)
  | portDown (pkg : Nat) (port : Nat)
  | rekey (pkg : Nat) (port : Nat) (transmit : Bool)
  | hostAccess (pkg : Nat) (h : Nat) (size : Nat) (wr : Option Nat)
  | hostSectorWriteback (pkg : Nat) (h : Nat) (mask : BitVec 64) (data : BitVec 512)
  | xword (pkg : Nat) (fn : Nat) (val : Word)
  | msixUnmask (pkg : Nat) (fn : Nat) (vec : Nat)
  | readAlmanac (pkg : Nat)
  | checkpoint (pkg : Nat)
  | checkpointKillTimeout (pkg : Nat) (job : Nat)
  | checkpointComplete (pkg : Nat)
  | inputPowerLoss (pkg : Nat)
  | restore (pkg : Nat)
  | setPlim (pkg : Nat)
  | spdm (pkg : Nat)
  | setPlane (pkg : Nat)
  | loadImage (pkg : Nat)
  | powerUp (pkg : Nat)
  | readySet (pkg : Nat) (bit : Nat)
  | bringupFailure (pkg : Nat) (bit : Nat)
  | bringupFailureTimeout (pkg : Nat) (bit : Nat)
  | accessPerformed (eid : Nat) (acc : Nat)
  | reservedEncoding (why : EncFault)
  deriving DecidableEq, Repr

/-- An open fault (R374): its record number once the record is written, ASID, 64 KiB region, and the steps that wait for it
beside the core's held accesses and HELD strands. -/
structure OpenFault where
  num : Option Nat
  asid : BitVec 16
  region : Nat
  held : List (Word × Ev)
  deriving DecidableEq, Repr

/-- A region of the world table's hardware copy (R404), in 64 KiB units. -/
structure Region where
  sec : Bool
  first : Nat
  last : Nat
  deriving DecidableEq, Repr

/-- STREAK and LWD of a page (R400): its ASID, GVA page number in 64 KiB units, count and die. -/
structure Streak where
  asid : BitVec 16
  page : Nat
  count : Nat
  die : Nat
  deriving DecidableEq, Repr

/-- A coherence object (R396): its ASID and the job that declared it (R399), shape, generation; and its state on each die (R236):
0 INVALID, 1 SHARED, 2 EXCLUSIVE. -/
structure Obj where
  asid : BitVec 16
  job : Option Nat
  base : Word
  rowBytes : Nat
  rows : Nat
  pitch : Nat
  gen : BitVec 16
  live : Bool
  state : Map Nat
  deriving DecidableEq, Repr

/-- A page move that runs (R377): its command's number, the page and its size as a power of two, its new leaf and die, WV and the
cycle at its start, whether a host write has reached the page, and NOTE. -/
structure Mig where
  slot : Nat
  asid : BitVec 16
  gva : Word
  size : Nat
  leaf : Word
  dst : Nat
  wv : Nat
  start : Nat
  host : Bool
  note : Bool
  deriving DecidableEq, Repr

/-- An entry of the Catalogue cache (R390): ASID, entry number and record. -/
structure CatEntry where
  asid : BitVec 16
  e : Nat
  words : Nat
  deriving DecidableEq, Repr

/-- A line of a coherence object that a die other than its home holds (R236, R250): the home die, the object's index, the line, the
clusters in whose slices it stands, and its data where the die holds it SHARED; where it holds it EXCLUSIVE memory has them. -/
structure Copy where
  home : Nat
  obj : Nat
  line : Nat
  slices : List Nat
  data : Option (BitVec 1024)
  deriving DecidableEq, Repr

/-- What a die keeps under the promise of an invariant load (R237): the job, the first byte's key, the length and the value. -/
structure Kept where
  job : Nat
  key : Nat
  len : Nat
  val : Nat
  deriving DecidableEq, Repr

/-- A pointer entry of the walk cache (R372): ASID, the offset bits that lead to it as the number above bit `shift`, and the node. -/
structure WalkEntry where
  asid : BitVec 16
  shift : Nat
  index : Nat
  node : Nat
  deriving DecidableEq, Repr

/-- A die's table agent and slices; `cmd` numbers the command that the agent has taken and not ended, and `cmdw` are its words as they
were taken (R369); `walks` is the walk cache, most recently filled first (R372); `mails` are the operations on mailboxes and buffers that
wait for a page of the die, in order of arrival (R352, R374). -/
structure Die where
  tlb : List TlbEntry
  faults : List OpenFault
  regions : List Region
  blocks : BitVec 512
  lines : List Line
  streaks : List Streak
  objs : Map Obj
  migs : List Mig
  cmd : Option Nat
  cmdw : List Word
  walks : List WalkEntry
  mails : List Msg
  cat : List CatEntry
  agents : Map Nat
  dead : List Nat
  copies : List Copy
  kept : List Kept
  deriving DecidableEq, Repr

/-! ## Jobs and packages -/

/-- A collective that is open (R172, R173): what has reached the Meridian unit of each member's die, by member, and what has
reached the combining dies, by die. -/
structure Coll where
  got : Map Lanes
  dies : Map Lanes
  deriving DecidableEq, Repr

/-- A job that is resident or saved: its launch packet as 16 words and the package list, where it was submitted, its cores in
LCN order, its gang's collective (R173), outcomes not yet applied by their members, departures and returns, the Transit ring's
token (R329), and how far a pre-emption has come (R364): the cores that have been saved, CTXBASE of each strand, and the
semaphores of each tile by the LCN of its staging core; the 64 KiB regions that its save has been refused, and the strands that have taken
ACCESS for one (R269); and the commands of tasks that are parked, by frame (R242). -/
structure Job where
  words : List Word
  list : List (Nat × Nat)
  pkg : Nat
  queue : Nat
  src : LaunchSrc
  arrival : Nat
  cores : List Nat
  mbset : BitVec 16
  coll : Coll
  results : Map Lanes
  departed : List Nat
  returned : List Nat
  token : Nat
  mark : Bool
  sum : Int
  detections : Nat
  preempt : Bool
  saved : List Nat
  ctx : List Word
  sems : List (Nat × List (BitVec 16))
  order : Nat
  lost : List Nat
  told : List Nat
  parked : List (Word × List Left)
  deriving DecidableEq, Repr

/-- A packet in a launch queue (R359, R364): its words and list, its source, arrival, the 16-microsecond ticks it has been at the
head, and the job it resumes. -/
structure Packet where
  words : List Word
  list : List (Nat × Nat)
  src : LaunchSrc
  arrival : Nat
  ticks : Nat
  resume : Option Nat
  deriving DecidableEq, Repr

/-- A launch window of BAR 2 (R441): the packet buffer, BUSY, NSUB and ST. -/
structure Window where
  buf : List Word
  busy : Bool
  nsub : BitVec 16
  st : Nat
  deriving DecidableEq, Repr

/-- A Blutas port (R424, R429-R433): both counters and key numbers, whether a rekey marker is to be sent, the bytes that wait to be sent, how
many have been sent in all, and the requests they hold (source EID and number) with the place of each one's last byte, the replay buffer and
what of it is to be sent again, the last sequence numbers, the bodies received in order, whether a NAK is to be sent and whether one has been
since the last accepted flit, the resends without progress, the state 0 up, 1 retraining, 2 down, and the flits sent, newest first, each under
its counter. -/
structure Port where
  tx : Nat
  rx : Nat
  txKey : Nat
  rxKey : Nat
  marker : Bool
  out : List Byte
  gone : Nat
  loaded : List ((Nat × Nat) × Nat)
  replay : List (BitVec 12 × Nat)
  resend : List (BitVec 12 × Nat)
  seq : BitVec 12
  last : BitVec 12
  inbox : List Nat
  nak : Bool
  nakSent : Bool
  tries : Nat
  state : Nat
  sent : List (Nat × Flit)
  deriving DecidableEq, Repr

/-- What of a checkpoint that has been made the spec gives no bytes (R448-R450): its poison, the packets in its launch queues with what they
resume, the saved jobs, and those it killed. -/
structure Image where
  poison : List Nat
  queues : Map (List Packet)
  jobs : Map Job
  killed : List Nat
  deriving DecidableEq, Repr

/-- The attestation responder (R447): the version that requests use, and the session: 0 none, 1 keys exchanged, 2 open. -/
structure Spdm where
  ver : Nat
  session : Nat
  deriving DecidableEq, Repr

/-- A package: whether it is a CRL-4P-384 (R1), its readiness vector (R443), the plane that requests to a package take, the classes of atomics
that a plane carries (R259, R435): 0 I, 1 F, 2 Q; the boost permit pool with PCAP and RF, and whether a cluster was above nominal in the
interval (R417); the Almanac's volatile and nonvolatile counts (R425); the MSI-X table and the messages sent (R442); the ranges of the
command in hand and the descriptor that is armed (R448, R449); the failures reported (R444); the images loaded by slot, the alias key and whether
both firmware images failed (R445); the responder, with a DOE request as it comes in and its answer (R447); and the last answer to a host access:
poisoned or not, and its data (R439). -/
structure Pkg where
  half : Bool
  ready : BitVec 128
  route : Map Nat
  classes : Map (List Nat)
  pool : Nat
  pcap : Nat
  rf : Nat
  raised : Bool
  counts : Map Nat
  almanac : Map Nat
  queues : Map (List Packet)
  held : Map (List Nat)
  stopped : Bool
  windows : Map Window
  xtgt : Map (BitVec 24)
  mbox : Word
  mdata : Map Word
  msixMask : List Nat
  msixPend : List Nat
  msixSent : List Nat
  msixTab : Map (Word × Word)
  msixOut : List (Word × Word)
  ports : Map Port
  down : List Nat
  tier : Config.Tier
  armed : Option Config.Tier
  image : Option Image
  killed : List Nat
  plim : Nat
  limited : Bool
  failed : List Nat
  refused : List Nat
  reports : List Nat
  clock : Nat
  images : Map Config.Firmware
  alias_ : Nat
  recovery : Bool
  spdm : Spdm
  doe : List Word
  doeOut : List Word
  hostData : Option (Bool × Nat)
  deriving DecidableEq, Repr

/-- Why the machine stops with a fault. No rule of the spec stops the machine, so no meaning raises one. -/
inductive Fault where
  /-- Never raised: the spec gives every step a next state. Safe. -/
  | noSuchStep
  deriving DecidableEq, Repr

/-- Why an instruction has no meaning. -/
inductive Refusal where
  /-- Raised by the dispatch for an instruction that has no meaning yet. Safe: the machine stops. -/
  | notModelled (mnemonic : String)
  deriving DecidableEq, Repr

/-- What the model does next when it is not the focus core's turn (log entry 1): an event, the issue of another core, or the
n-th step already set off. -/
inductive Act where
  | event (e : Ev)
  | issue (eid : Nat)
  | deliver (n : Nat)
  deriving DecidableEq, Repr

/-- The whole machine. -/
structure State where
  focus : Nat
  unit : UnitCtx
  agenda : List Act
  flight : List Ev
  fresh : Nat
  strands : Map Strand
  cores : Map Core
  tiles : Map Tile
  clusters : Map Cluster
  dies : Map Die
  pkgs : Map Pkg
  jobs : Map Job
  mem : List Host.Cell
  poison : List Nat
  deriving DecidableEq, Repr

/-! ## Reset -/

/-- The registers of a strand at reset (R59, R65, R66, R70). -/
def Arch.reset : Arch where
  x := Vector.replicate 32 0
  v := Vector.replicate 16 0
  m := Vector.replicate 8 0
  g := Vector.replicate 16 .free
  lc0 := 0
  ls0 := 0
  le0 := 0
  lc1 := 0
  ls1 := 0
  le1 := 0
  ras := []
  h := Vector.replicate 4 0
  mbset := 0
  mbidx := 0
  mbcnt := 0
  cseq := 0
  ev := false
  pc := 0
  status := 0xE7
  cause := 0
  epc := 0
  eval := 0
  tvec := 0
  fmode := 0
  vshape := 0x381
  rsbase := 0
  rslim := 0
  rstop := 0
  depth := 0
  ctxbase := 0
  frame := 0

/-- A strand at reset: OFF (R71). -/
def Strand.reset : Strand where
  arch := Arch.reset
  st := .off
  stamp := 0
  dispatched := false
  wait := .none
  waited := 0
  granted := false
  lastIssue := none
  pend := []
  worker := false
  posted := []
  ext := none
  wdog := false
  preempt := false
  yielded := false
  forced := false
  prior := .off
  why := .none
  origin := .none
  ra := none
  hold := []
  coll := none
  sent := false
  cbarN := 0
  chainN := 0
  maxN := 0
  xin := []
  xop := []
  refill := none
  lane := []
  pushN := 0
  inCbar := false
  gcmds := []
  detect := none
  stolen := []
  poll := none
  ask := none
  progress := none
  start := none
  refused := none
  owed := []
  acqs := []
  flagSeen := 0
  flagTime := Vector.replicate 5 none
  seen := []
  fences := []
  rlqs := []
  taking := none
  left := []
  reread := none

def Core.reset : Core where
  wdog := 0x100000
  wcount := 0
  jobid := 0
  asid := 0
  lcn := 0
  dqbase := 0
  cycle := 0
  evc := Vector.replicate 8 0
  evsel := Vector.replicate 8 0
  w := 0
  job := none
  free := 0
  vfree := 0
  accs := []
  side := []
  dirtyN := 0
  boost := 0
  reqs := []
  swq := []
  marked := true
  cnt := 0
  seed := 1
  steal := { queue := [], probe := 0, drawn := [], busy := false }

def Ring.reset : Ring := { v := false, base := 0, sl := 0, sb := 0, tail := 0, head := 0, waiting := [] }
def Engine.reset : Engine := { inbox := [], running := [], prog := [] }
def MTag.reset : MTag := { gen := 0, used := false, snum := 0, seq := 0, depth := 0, fault := none }
def Matrix.reset : Matrix :=
  { palette := 0, panel := 0, latches := 0, tags := Vector.replicate 64 MTag.reset, inbox := [], runs := [], behind := [], gone := [] }

def Tile.reset : Tile where
  sem := Vector.replicate 8 0
  semq := []
  locks := []
  rings := Vector.replicate 8 Ring.reset
  copy := Engine.reset
  matrix := Matrix.reset

def Cluster.reset : Cluster where
  eflg := 0
  reported := 0
  reportedAt := 0
  mdepBusy := false
  mdep := 0
  pinw := 0
  slBusy := false
  tokens := 4096
  refill := 64
  time := 0
  charges := []
  waitN := 0
  since := 0
  cut := 0
  hot := false
  overBit := false
  vlim := false
  retd := false
  level := 0
  clk := 0
  grace := false
  below := false
  hold := none
  gated := false
  gather := Engine.reset
  sortc := Engine.reset

def Die.reset : Die where
  tlb := []
  faults := []
  regions := []
  blocks := 0
  lines := []
  streaks := []
  objs := []
  migs := []
  cmd := none
  cmdw := []
  walks := []
  mails := []
  cat := []
  agents := []
  dead := []
  copies := []
  kept := []

def Pkg.reset : Pkg where
  half := false
  ready := 0
  route := []
  classes := []
  pool := 1024
  pcap := 1024
  rf := 4
  raised := false
  counts := []
  almanac := []
  queues := []
  held := []
  stopped := false
  windows := []
  xtgt := []
  mbox := 0
  mdata := []
  msixMask := []
  msixPend := []
  msixSent := []
  msixTab := []
  msixOut := []
  ports := []
  down := []
  tier := { arm := false, ranges := [] }
  armed := none
  image := none
  killed := []
  plim := 4600
  limited := false
  failed := []
  refused := []
  reports := []
  clock := 0
  images := []
  alias_ := 0
  recovery := false
  spdm := { ver := 0, session := 0 }
  doe := []
  doeOut := []
  hostData := none

/-- No prefix (R50). -/
def Vxp.none : Vxp := { mask := 0, mz := false, rmo := .dyn, vc := Option.none }

def UnitCtx.reset : UnitCtx where
  sid := 0
  pc := 0
  next := 0
  lone := true
  now := 0
  vxp := Vxp.none
  status := .running

/-- The machine after power-up: every strand OFF, every memory zero. -/
def State.reset : State where
  focus := 0
  unit := UnitCtx.reset
  agenda := []
  flight := []
  fresh := 0
  strands := []
  cores := []
  tiles := []
  clusters := []
  dies := []
  pkgs := []
  jobs := []
  mem := []
  poison := []

end Sys2Proof.Machine
end

