-- ==== Sys2Proof/Machine/Flags.lean ====
section
/-!
DEFINITION. Fields of words, and the flags and fields of STATUS and FMODE (R66, R69).
-/
namespace Sys2Proof.Machine

open Sys2Proof

/-- The n bits of a word from bit lo up, as a number. -/
def field {w : Nat} (x : BitVec w) (lo n : Nat) : Nat := x.toNat / 2 ^ lo % 2 ^ n

/-- A word with the n bits from bit lo up replaced. -/
def putField (x : Word) (lo n v : Nat) : Word :=
  let m : Word := BitVec.ofNat 64 ((2 ^ n - 1) * 2 ^ lo)
  (x &&& ~~~m) ||| (BitVec.ofNat 64 (v % 2 ^ n * 2 ^ lo))

/-- A word with one bit set or cleared. -/
def putBit (x : Word) (n : Nat) (b : Bool) : Word := putField x n 1 (if b then 1 else 0)

/-- The flags of FMODE[4:0] (R69). -/
abbrev Fl := BitVec 5
def Fl.nv : Fl := 16
def Fl.dz : Fl := 8
def Fl.ovf : Fl := 4
def Fl.unf : Fl := 2
def Fl.nx : Fl := 1

/-- The privilege level (R66): 0 U, 1 S, 3 M. -/
def Arch.prv (a : Arch) : Nat := field a.status 0 2
/-- The world bit (R66). -/
def Arch.wld (a : Arch) : Bool := a.status.getLsbD 2
/-- The interrupt enable (R66). -/
def Arch.ie (a : Arch) : Bool := a.status.getLsbD 3
/-- The checking scoreboard (R43, R66). -/
def Arch.chk (a : Arch) : Bool := a.status.getLsbD 4
/-- Running ahead of a CBR (R66, R188). -/
def Arch.ahead (a : Arch) : Bool := a.status.getLsbD 9

/-- The rounding mode of FMODE (R69); the reserved codes do not occur and read as RNE. -/
def Arch.rm (a : Arch) : Rm := (Rm.ofCode (field a.fmode 8 3)).getD .rne

/-- The rounding mode of a unit with an rm field (R89). -/
def Arch.round (a : Arch) : Rm → Rm
  | .dyn => a.rm
  | r => r

/-- Flags are sticky: raising adds them (R69). -/
def Arch.raiseFlags (a : Arch) (f : Fl) : Arch := { a with fmode := a.fmode ||| f.zeroExtend 64 }

/-- STATUS at the entry of a trap taken on the strand itself (R112). -/
def statusOnTrap (st : Word) : Word :=
  let s1 := putBit (putBit st 8 (st.getLsbD 3)) 3 false
  let s2 := putField (putBit s1 7 (st.getLsbD 2)) 5 2 (field st 0 2)
  if field st 0 2 = 0 then putField s2 0 2 1 else s2

/-- STATUS after ERET (R115). -/
def statusOnEret (st : Word) : Word :=
  let s1 := putField st 0 2 (field st 5 2)
  let s2 := putBit (putBit s1 3 (st.getLsbD 8)) 2 (st.getLsbD 7)
  putBit (putField s2 5 2 0) 8 false

end Sys2Proof.Machine
end

