-- ==== Sys2Proof/Machine/Ops.lean ====
section
/-!
DEFINITION. The shared operations: reading and writing records and registers, results that land later, waiting, and taking
a trap (R112).
-/
namespace Sys2Proof.Machine

open Sys2Proof

/-! ## Records by number -/

def State.strand (s : State) (sid : Nat) : Strand := Map.get Strand.reset s.strands sid
def State.core (s : State) (eid : Nat) : Core := Map.get Core.reset s.cores eid
def State.tile (s : State) (t : Nat) : Tile := Map.get Tile.reset s.tiles t

def State.setStrand (s : State) (sid : Nat) (t : Strand) : State := { s with strands := Map.put s.strands sid t }
def State.setCore (s : State) (eid : Nat) (c : Core) : State := { s with cores := Map.put s.cores eid c }
def State.setTile (s : State) (t : Nat) (c : Tile) : State := { s with tiles := Map.put s.tiles t c }

def State.modStrand (s : State) (sid : Nat) (f : Strand → Strand) : State := s.setStrand sid (f (s.strand sid))
def State.modCore (s : State) (eid : Nat) (f : Core → Core) : State := s.setCore eid (f (s.core eid))
def State.modTile (s : State) (t : Nat) (f : Tile → Tile) : State := s.setTile t (f (s.tile t))

/-- A cluster by EID/32, a die by EID/512. -/
def State.cluster (s : State) (c : Nat) : Cluster := Map.get Cluster.reset s.clusters c
def State.die (s : State) (d : Nat) : Die := Map.get Die.reset s.dies d
def State.setCluster (s : State) (c : Nat) (k : Cluster) : State := { s with clusters := Map.put s.clusters c k }
def State.setDie (s : State) (d : Nat) (k : Die) : State := { s with dies := Map.put s.dies d k }
def State.modCluster (s : State) (c : Nat) (f : Cluster → Cluster) : State := s.setCluster c (f (s.cluster c))
def State.modDie (s : State) (d : Nat) (f : Die → Die) : State := s.setDie d (f (s.die d))

/-- A package by PKG. -/
def State.pkg (s : State) (p : Nat) : Pkg := Map.get Pkg.reset s.pkgs p
def State.setPkg (s : State) (p : Nat) (k : Pkg) : State := { s with pkgs := Map.put s.pkgs p k }
def State.modPkg (s : State) (p : Nat) (f : Pkg → Pkg) : State := s.setPkg p (f (s.pkg p))

/-- The compute dies and the Blutas ports of a package: those of a CRL-4P-384, or of a CRL-8P-768 (R1). -/
def State.dieCount (s : State) (p : Nat) : Nat := if (s.pkg p).half then 4 else 8
def State.planesOf (s : State) (p : Nat) : Nat := 9 * s.dieCount p

/-- Does a die's number name no die where the requester's package, or the package that it lies in, is a CRL-4P-384 (R2; log entry 9)? -/
def State.noDie (s : State) (p d : Nat) : Bool := s.dieCount p ≤ d % 8 || s.dieCount (d / 8) ≤ d % 8

/-- The plane on which requests leave package p for package q (R435): what firmware has assigned, or else q modulo the planes that both have. -/
def State.planeTo (s : State) (p q : Nat) : Nat := Map.get (q % min (s.planesOf p) (s.planesOf q)) (s.pkg p).route q
/-- The classes of atomics that the route between two packages carries (R259): what firmware has recorded for its plane, or else I and F, as
R436 gives for the switch, with Q where a free value says so (log entry 16). -/
def State.planeClass (s : State) (p q : Nat) : List Nat := Map.get ([0, 1] ++ if Config.measure 44 (s.planeTo p q) % 2 = 1 then [2] else [])
  (s.pkg p).classes (s.planeTo p q)

/-- Are requests from package p to package q refused at issue: no package has that number, which is below 512, or their plane is down at
either end (R433, R436)? -/
def State.cut (s : State) (p q : Nat) : Bool :=
  p != q && (512 ≤ q || !(s.pkg q).ready.getLsbD 81 || (s.pkg p).down.contains (s.planeTo p q) || (s.pkg q).down.contains (s.planeTo p q))

/-- Is a request of package p to a die refused at issue: it names no die, or is cut off (R2, R433)? -/
def State.barred (s : State) (p d : Nat) : Bool := s.noDie p d || s.cut p (d / 8)

/-- READY0 and READY1 (R65): the readiness vector of a package. -/
def State.ready0 (s : State) (p : Nat) : Word := (s.pkg p).ready.setWidth 64
def State.ready1 (s : State) (p : Nat) : Word := ((s.pkg p).ready >>> 64).setWidth 64

/-- The strand whose unit is in hand. -/
def State.cur (s : State) : Strand := s.strand s.unit.sid
def State.modCur (s : State) (f : Strand → Strand) : State := s.modStrand s.unit.sid f
/-- Its core's EID (R13) and strand number. -/
def State.eid (s : State) : Nat := s.unit.sid / 4
def State.snum (s : State) : Nat := s.unit.sid % 4
def State.curCore (s : State) : Core := s.core s.eid
def State.arch (s : State) : Arch := s.cur.arch
def State.modArch (s : State) (f : Arch → Arch) : State := s.modCur fun t => { t with arch := f t.arch }

/-- The cycle of the core of a strand. -/
def State.cycleOf (s : State) (sid : Nat) : Nat := (s.core (sid / 4)).cycle

/-! ## Registers (R45, R59) -/

/-- An x register; x0 reads zero. -/
def Arch.getX (a : Arch) (r : XReg) : Word := if r = 0 then 0 else a.x[r.toNat]
/-- Write an x register; a write to x0 is discarded. -/
def Arch.setX (a : Arch) (r : XReg) (w : Word) : Arch := if r = 0 then a else { a with x := a.x.set r.toNat w }
def Arch.getV (a : Arch) (r : VReg) : VecVal := a.v[r.toNat]
def Arch.setV (a : Arch) (r : VReg) (w : VecVal) : Arch := { a with v := a.v.set r.toNat w }
/-- A mask register; m0 reads all ones. -/
def Arch.getM (a : Arch) (r : MReg) : MaskVal := if r = 0 then BitVec.allOnes 1024 else a.m[r.toNat]
/-- Write a mask register; a write to m0 is discarded. -/
def Arch.setM (a : Arch) (r : MReg) (w : MaskVal) : Arch := if r = 0 then a else { a with m := a.m.set r.toNat w }
def Arch.getG (a : Arch) (r : GReg) : Guard := a.g[r.toNat]
def Arch.setG (a : Arch) (r : GReg) (w : Guard) : Arch := { a with g := a.g.set r.toNat w }

def State.rx (s : State) (r : XReg) : Word := s.arch.getX r
def State.rv (s : State) (r : VReg) : VecVal := s.arch.getV r
def State.rmask (s : State) (r : MReg) : MaskVal := s.arch.getM r

/-- The two registers of a pair as 128 bits, the even one low (R252, R257). -/
def State.rpair (s : State) (k : BitVec 4) : Nat :=
  (s.rx (BitVec.ofNat 5 (2 * k.toNat))).toNat + 2 ^ 64 * (s.rx (BitVec.ofNat 5 (2 * k.toNat + 1))).toNat

/-! ## Results that land later (R42-R44, R90) -/

/-- A result that lands: kept bits take what the register holds then (R43). -/
def Pend.apply (p : Pend) (a : Arch) : Arch :=
  let a := if p.flags = 0 then a else a.raiseFlags p.flags
  match p.reg with
  | none => a
  | some (.x r) => a.setX r (p.val.setWidth 64)
  | some (.v r) => a.setV r ((a.getV r &&& p.keep) ||| (p.val &&& ~~~p.keep))
  | some (.m r) => a.setM r ((a.getM r &&& p.keep.setWidth 1024) ||| (p.val.setWidth 1024 &&& ~~~(p.keep.setWidth 1024)))

/-- Is the result due at cycle t? -/
def Pend.ready (t : Nat) (p : Pend) : Bool :=
  match p.due with
  | none => false
  | some d => d ≤ t

/-- Land the results that are due, those of one register in program order (R44); `kept` are older ones not yet landed. -/
def landAux (t : Nat) (kept : List Pend) (a : Arch) : List Pend → List Pend × Arch
  | [] => (kept.reverse, a)
  | p :: r =>
    if p.ready t && !(kept.any fun q => q.reg == p.reg && p.reg.isSome) then landAux t kept (p.apply a) r
    else landAux t (p :: kept) a r

/-- The cycle at which a flag that FMODE does not show is raised by a result due by cycle t (R90). -/
def Strand.dueFlag (k : Strand) (t i : Nat) : Option Nat :=
  if k.arch.fmode.getLsbD i then none
  else k.pend.foldl (fun m p => match p.due with
    | some d => if d ≤ t && p.flags.getLsbD i then some (min d (m.getD d)) else m
    | none => m) none

/-- The flags that the results due by cycle t raise are dated by those results (R135). -/
def Strand.noteDue (t : Nat) (k : Strand) : Strand :=
  { k with flagSeen := (List.range 5).foldl (fun (f : Fl) i => if (k.dueFlag t i).isSome then f ||| (1 <<< i) else f) k.flagSeen,
           flagTime := Vector.ofFn fun i => match k.dueFlag t i.val with
             | some d => some d
             | none => k.flagTime[i.val] }

/-- Land the results of a strand that are due at cycle t. -/
def Strand.land (t : Nat) (k : Strand) : Strand :=
  let r := landAux t [] k.arch k.pend
  { k.noteDue t with pend := r.1, arch := r.2 }

/-- The cycle at which the last fixed-latency result lands, at least `t`. -/
def lastDue (t : Nat) (l : List Pend) : Nat :=
  l.foldl (fun m p => match p.due with | some d => if p.fixed then max m d else m | none => m) t

/-- The cycle at which the last result of known latency lands, at least `t`. -/
def lastKnown (t : Nat) (l : List Pend) : Nat :=
  l.foldl (fun m p => match p.due with | some d => max m d | none => m) t

/-- Every fixed-latency result lands (R44, R112). -/
def Strand.landFixed (t : Nat) (k : Strand) : Strand := k.land (lastDue t k.pend)

/-- The flags of FMODE at cycle t, with the results due by then. -/
def Strand.flagsAt (k : Strand) (t : Nat) : Fl := (k.land t).arch.fmode.setWidth 5

/-- The flags of FMODE that have changed by an SWR or a restored record are dated by cycle t (R135). -/
def Strand.noteFlags (t : Nat) (k : Strand) : Strand :=
  let f : Fl := k.arch.fmode.setWidth 5
  { k with flagSeen := f, flagTime := Vector.ofFn fun i =>
      if f.getLsbD i.val = k.flagSeen.getLsbD i.val then k.flagTime[i.val] else some t }

/-- The flags whose change at cycle t is not 16 cycles old: a read may show either value (R135). -/
def Strand.flagsOpen (k : Strand) (t : Nat) : Fl :=
  let k := (k.land t).noteFlags t
  (List.range 5).foldl (fun (f : Fl) i => match k.flagTime.getD i none with
    | some d => if t < d + 16 then f ||| (1 <<< i) else f
    | none => f) 0

/-! ## Guards of engine commands (R177-R179, R192) -/

/-- A slot that a command waits for resolves. -/
def GuardedCmd.onSlot (g : BitVec 4) (v : Bool) (c : GuardedCmd) : GuardedCmd :=
  if c.verdict.isNone && c.slot == some g then
    (if v then { c with slot := none, verdict := if c.path then none else some true } else { c with verdict := some false })
  else c

/-- The path that a command waits for is confirmed or not. -/
def GuardedCmd.onPath (ok : Bool) (c : GuardedCmd) : GuardedCmd :=
  if c.verdict.isNone && c.path then
    (if ok then { c with path := false, verdict := if c.slot.isNone then some true else none } else { c with verdict := some false })
  else c

/-! ## Results that units set off -/

/-- A result that the unit in hand sets off. -/
def State.pushPend (s : State) (p : Pend) : State := s.modCur fun k => { k with pend := k.pend ++ [p] }

/-- A fixed-latency result of an x register (R42); x0 discards it. -/
def State.wx (s : State) (r : XReg) (w : Word) (lat : Nat) : State :=
  if r = 0 then s else
  s.pushPend { reg := some (.x r), val := w.setWidth 4096, keep := 0, flags := 0, due := some (s.unit.now + lat),
               fixed := true, id := 0 }

/-- A scoreboarded result of an x register that lands after `lat` cycles. -/
def State.wxs (s : State) (r : XReg) (w : Word) (lat : Nat) : State :=
  if r = 0 then s else
  s.pushPend { reg := some (.x r), val := w.setWidth 4096, keep := 0, flags := 0, due := some (s.unit.now + lat),
               fixed := false, id := 0 }

/-- A fixed-latency result of a v register that keeps the bits of `keep`. -/
def State.wv (s : State) (r : VReg) (w keep : VecVal) (lat : Nat) (fixed : Bool) : State :=
  s.pushPend { reg := some (.v r), val := w, keep := keep, flags := 0, due := some (s.unit.now + lat), fixed := fixed, id := 0 }

/-- A fixed-latency result of an m register that keeps the bits of `keep`; m0 discards it. -/
def State.wm (s : State) (r : MReg) (w keep : MaskVal) (lat : Nat) : State :=
  if r = 0 then s else
  s.pushPend { reg := some (.m r), val := w.setWidth 4096, keep := keep.setWidth 4096, flags := 0,
               due := some (s.unit.now + lat), fixed := true, id := 0 }

/-- Flags that are raised when the unit's result is due or lands (R90). -/
def State.wflags (s : State) (f : Fl) (lat : Nat) (fixed : Bool) : State :=
  if f = 0 then s else
  s.pushPend { reg := none, val := 0, keep := 0, flags := f, due := some (s.unit.now + lat), fixed := fixed, id := 0 }

/-- A scoreboarded result of a register that waits for the event numbered `id`. -/
def State.wlater (s : State) (r : Reg) (keep : VecVal) (id : Nat) : State :=
  if r = .x 0 || r = .m 0 then s else
  s.pushPend { reg := some r, val := 0, keep := keep, flags := 0, due := none, fixed := false, id := id }

/-- The results numbered `id` arrive at cycle t with these values. -/
def fillPend (t id : Nat) (f : Reg → VecVal) (l : List Pend) : List Pend :=
  l.map fun p =>
    if p.id = id && p.due.isNone then { p with due := some t, val := match p.reg with | some r => f r | none => 0 } else p

/-- Results of these registers that are still to come are discarded (R60, R312, R316). -/
def Strand.overwrite (k : Strand) (l : List Reg) : Strand :=
  { k with pend := k.pend.map fun p => if p.reg.any l.contains then { p with reg := none } else p }

/-- The results numbered `id` will never arrive. -/
def dropPend (id : Nat) (l : List Pend) : List Pend := l.filter fun p => !(p.id = id && p.due.isNone)

/-! ## Becoming READY (R72, R73, R339) -/

/-- Does a strand run a handler whose sender waits for the reply (R339)? -/
def Strand.owesReply (k : Strand) : Bool := match k.origin with
  | .message m => m.tag.isSome
  | _ => false

/-- Is the strand in the middle of a unit: one whose wait is over, one that has sent a request, or one that takes what a steal
or a detection has brought? -/
def Strand.midUnit (k : Strand) : Bool :=
  k.granted || k.ask.isSome || k.progress.isSome || !k.stolen.isEmpty || k.start.isSome || k.refused.isSome || k.detect.isSome

/-- A strand is HELD for a pre-empt (R72); one in the middle of a unit ends it while it is HELD. -/
def Strand.halted (k : Strand) (prior : StrandState) : Strand :=
  { k with st := .held, prior := prior, why := .preempted, dispatched := false, wait := .none, waited := 0 }

/-- A READY strand under a pre-empt is HELD, unless it owes a reply (R72, R339). -/
def Strand.halt (k : Strand) : Strand := if k.preempt && !k.owesReply then k.halted .ready else k

/-- An ACTIVE strand under a pre-empt is HELD at its YIELD, or its ERET to U, unless it owes a reply (R72, R114, R339). -/
def Strand.yields (k : Strand) : Bool := k.preempt && !k.owesReply

/-- The strand becomes READY at its core's cycle (R72, R73). -/
def Strand.makeReady (k : Strand) (t : Nat) : Strand :=
  ({ k with st := .ready, stamp := t, yielded := false, wait := .none, waited := 0, why := .none } : Strand).halt

/-- A strand that waits for the results numbered `id` goes on. -/
def Strand.endWait (k : Strand) (t id : Nat) : Strand :=
  if k.wait == .result id then (if k.st == .blocked then k.makeReady t else { k with wait := .none, waited := 0 }) else k

/-- A strand receives the results numbered `id`, in its registers and in a checkpoint that still awaits them (R188). -/
def Strand.receive (k : Strand) (t id : Nat) (f : Reg → VecVal) : Strand :=
  { (k.endWait t id) with pend := fillPend t id f k.pend, ra := k.ra.map fun c => { c with pend := fillPend t id f c.pend } }

/-- The results numbered `id` never land. -/
def Strand.forget (k : Strand) (t id : Nat) : Strand :=
  { (k.endWait t id) with pend := dropPend id k.pend, ra := k.ra.map fun c => { c with pend := dropPend id c.pend } }

/-! ## Numbers for what is set off, and the steps set off -/

/-- A fresh number for an access, a collective or a free value. -/
def State.bump (s : State) : State := { s with fresh := s.fresh + 1 }

/-- A step that has been set off and comes about later. -/
def State.later (s : State) (e : Ev) : State := { s with flight := s.flight ++ [e] }

/-- The unit, or the event, cannot come about yet. -/
def State.notYet (s : State) : State := { s with unit := { s.unit with status := .waiting } }

/-- The unit in hand waits: the strand stays at it. -/
def State.waits (s : State) : State := s.notYet.modArch fun a => { a with pc := s.unit.pc }

/-- The unit in hand waits and the strand becomes BLOCKED on `w` (R17, R72). -/
def State.block (s : State) (w : Wait) : State := s.waits.modCur fun k => { k with st := .blocked, wait := w }

/-- A BLOCKED strand whose awaited event has come becomes READY (R72). -/
def State.wake (s : State) (sid : Nat) : State :=
  if (s.strand sid).st = .blocked then s.modStrand sid fun k => k.makeReady (s.cycleOf sid) else s

/-- Control goes to `t` (R39). -/
def State.jump (s : State) (t : Word) : State :=
  { (s.modArch fun a => { a with pc := t }) with unit := { s.unit with status := .jumped } }

/-- The unit waits, as a load wait, for the outcome of the open collective (R180, R189). -/
def State.awaitOutcome (s : State) : State := s.waits.modCur fun k => { k with wait := .outcome }

/-- A unit that R189 makes wait while the strand runs ahead. -/
def State.unlessAhead (s : State) (t : State) : State := if s.arch.ahead then s.awaitOutcome else t

/-! ## Traps (R112, R113) -/

/-- Cause codes (R113). -/
def cIllegal : Nat := 0x01
def cMisaligned : Nat := 0x02
def cPrivilege : Nat := 0x03
def cStall : Nat := 0x04
def cWatchdog : Nat := 0x05
def cLoadFault : Nat := 0x06
def cAlignment : Nat := 0x08
def cRangeLock : Nat := 0x09
def cAtomicRoute : Nat := 0x0A
def cAccess : Nat := 0x0B
def cEngineFault : Nat := 0x0C
def cCollMismatch : Nat := 0x0D
def cReturnUnderflow : Nat := 0x0E
def cSpillLimit : Nat := 0x0F
def cShardRange : Nat := 0x10
def cTrapInstr : Nat := 0x13
def cPreempt : Nat := 0x20
def cExternal : Nat := 0x21

/-- Handler base (R68). -/
def handlerBase (tvec : Word) : Word := tvec &&& ~~~(0xFF : Word)

/-- The registers at a trap's entry on the strand itself (R112). -/
def Arch.trap (a : Arch) (async : Bool) (code : Nat) (p eval : Word) : Arch :=
  { a with cause := putBit (BitVec.ofNat 64 code) 63 async, epc := p, eval := eval, status := statusOnTrap a.status,
           pc := handlerBase a.tvec }

/-- The registers of a strand whose trap is delegated: the cause is written and the strand stops at p (R112). -/
def Arch.trapHeld (a : Arch) (async : Bool) (code : Nat) (p eval : Word) : Arch :=
  { a with cause := putBit (BitVec.ofNat 64 code) 63 async, epc := p, eval := eval, pc := p }

/-- Is a DORMANT strand the handler strand of a trap whose dispatch waits for its record's stores (R112, R460)? -/
def State.reserved (s : State) (h : Nat) : Bool :=
  [0, 1, 2, 3].any fun i => let k := s.strand (h / 4 * 4 + i); k.why == .delegated h && k.reread.isNone

/-- The strand that a trap of `sid` is delegated to (R68, R112): the core's strand HSTR, where it differs, is DORMANT, and is
not already the handler of a trap being delegated. A strand about to be saved takes it itself (R269). -/
def State.delegate (s : State) (sid : Nat) : Option Nat :=
  let a := (s.strand sid).arch
  let h := sid / 4 * 4 + field a.tvec 2 2
  if (s.strand sid).why != .preempted && a.tvec.getLsbD 0 && h != sid && (s.strand h).st = .dormant && !s.reserved h
  then some h else none

/-- A trap ends the unit that the strand stands at: what it has done so far is forgotten, and records that its DONATE had
reserved return to the lane. -/
def Strand.dropUnit (k : Strand) (sid : Nat) : Strand :=
  let free := fun (e : LaneEntry) => if e.resv = some sid then { e with resv := none } else e
  { k with wait := .none, waited := 0, granted := false, refill := none, ask := none, refused := none, progress := none,
           lane := if k.progress.isSome then k.lane.map free else k.lane }

/-- Take a trap on strand `sid` at address p, once its fixed-latency results have landed (R112). -/
def State.trapOwn (s : State) (sid : Nat) (async : Bool) (code : Nat) (p eval : Word) : State :=
  let t := lastDue (s.cycleOf sid) (s.strand sid).pend
  (s.modStrand sid fun k => let k := k.landFixed (s.cycleOf sid)
    { (k.dropUnit sid) with arch := k.arch.trap async code p eval }).modCore (sid / 4)
      fun c => { c with free := t + 6, wcount := 0 }

/-- Take a trap: on the strand itself, or, where R68 delegates it, by stopping the strand and setting off the dispatch of its
handler strand. -/
def State.trapEntry (s : State) (sid : Nat) (async : Bool) (code : Nat) (p eval : Word) : State :=
  match s.delegate sid with
  | none => s.trapOwn sid async code p eval
  | some h =>
    let t := lastDue (s.cycleOf sid) (s.strand sid).pend
    ((s.modStrand sid fun k => let k := k.landFixed (s.cycleOf sid)
      { (k.dropUnit sid) with arch := k.arch.trapHeld async code p eval, st := .held, prior := .active, why := .delegated h }).modCore (sid / 4)
        fun c => { c with free := t + 6, wcount := 0 }).later (.delegatedDispatch sid)

/-- The unit in hand raises a synchronous cause of the given rank (R40, R248); under run-ahead it waits instead (R194). -/
def State.raise (s : State) (rank code : Nat) (eval : Word) : State :=
  if s.arch.ahead then s.awaitOutcome
  else
    let t := s.trapEntry s.unit.sid false code s.unit.pc eval
    { t with unit := { t.unit with status := .trapped rank } }

/-- The unit in hand raises a cause because an owner or a service has refused it: under a pre-empt the entry is the strand's own (R269). -/
def State.refusal (s : State) (code : Nat) (eval : Word) : State :=
  if s.arch.ahead || !s.cur.preempt then s.raise 5 code eval
  else
    let t := s.trapOwn s.unit.sid false code s.unit.pc eval
    { t with unit := { t.unit with status := .trapped 5 } }

/-- ILLEGAL_INSTR of the C word with the given EVAL[15:0] (R113): the encoding has rank 2, every other reason the last. -/
def State.illegal (s : State) (why : Nat) : State := s.raise (if why = 0 then 2 else 5) cIllegal (BitVec.ofNat 64 (0x10000 + why))

/-- PRIVILEGE with EVAL = 0xFFFF or a register's number (R113). -/
def State.privilege (s : State) (n : Nat) : State := s.raise 3 cPrivilege (BitVec.ofNat 64 n)

/-- A cause that the strand takes at its next unit boundary (R264-R268). -/
def State.postAcc (s : State) (sid code : Nat) (eval : Word) (epc : Option Word) (acc : Nat) : State :=
  s.modStrand sid fun k => { k with posted := k.posted ++ [{ code := BitVec.ofNat 8 code, eval := eval, epc := epc, acc := acc }] }
def State.post (s : State) (sid code : Nat) (eval : Word) (epc : Option Word) : State := s.postAcc sid code eval epc 0

/-- Is a posted cause that of a refused access (R264, R265)? -/
def Posted.loadFault (p : Posted) : Bool := p.code.toNat == cLoadFault && p.acc != 0 && p.epc.isNone

/-- The cause that a strand takes next, and those left: of the refused accesses pending together one LOAD_FAULT is taken, with the lowest
refused GVA (R264). -/
def nextPosted : List Posted → Option (Posted × List Posted)
  | [] => none
  | p :: r =>
    if p.loadFault then
      some ({ p with eval := BitVec.ofNat 64 (((r.filter Posted.loadFault).map fun q => q.eval.toNat).foldl min p.eval.toNat) },
        r.filter fun q => !q.loadFault)
    else some (p, r)

/-- The outcome of a meaning that always gives a next state. -/
abbrev Res := Host.Outcome State Fault Refusal

end Sys2Proof.Machine
end

