-- ==== Sys2Proof/Machine/Mem.lean ====
section
/-!
DEFINITION. Where a byte lives (R205-R217), translation (R366-R372, R379-R380), the world table (R404-R405), poison (R204),
and reading and writing the bytes of one piece.
-/
namespace Sys2Proof.Machine

open Sys2Proof

/-! ## Bytes -/

/-- A byte of the physical memories; an address that nothing has written reads zero (R203). -/
def Mem.byte (m : List Host.Cell) (k : Nat) : Byte := Map.get (0 : Byte) m k
/-- Write one byte; zero is what an unlisted address reads as. -/
def Mem.set (m : List Host.Cell) (k : Nat) (b : Byte) : List Host.Cell := Map.putC (0 : Byte) m k b
/-- The canonical form of the memory. -/
def Memory.wf (m : List Host.Cell) : Bool := Map.wf (0 : Byte) m

/-- Little-endian number of the bytes at the given addresses (R4). -/
def Mem.read (m : List Host.Cell) : List Nat → Nat
  | [] => 0
  | k :: r => (Mem.byte m k).toNat + 256 * Mem.read m r

/-- Store a number's bytes, lowest first, at the given addresses. -/
def Mem.write (m : List Host.Cell) : List Nat → Nat → List Host.Cell
  | [], _ => m
  | k :: r, v => Mem.write (Mem.set m k (BitVec.ofNat 8 v)) r (v / 256)

/-! ## Physical places -/

/-- The SRAM byte that tile offset `a` names under a SPAN code (R216): row, bank and byte as one number. -/
def spanByte (span a : Nat) : Nat :=
  if span < 6 then
    let w := 16 * 2 ^ span
    let bank := Nat.xor (a / w % 32) (a / (w * 32) % 32)
    let row := a / (32 * w) * (w / 16) + a % w / 16
    row * 512 + bank * 16 + a % 16
  else a

/-- The key of the i-th byte of a place in the model's memory: die, kind and local address. -/
def Place.key (p : Place) (i : Nat) : Nat :=
  match p with
  | .hbm d a _ => d * 2 ^ 44 + (a + i)
  | .tile d c t o s => d * 2 ^ 44 + 2 ^ 42 + c * 2 ^ 24 + t * 2 ^ 20 + spanByte s (o + i)
  | .slice d c o => d * 2 ^ 44 + 2 * 2 ^ 42 + c * 2 ^ 22 + (o + i)

/-- A place `n` bytes further on. -/
def Place.plus (p : Place) (n : Nat) : Place :=
  match p with
  | .hbm d a c => .hbm d (a + n) c
  | .tile d c t o s => .tile d c t (o + n) s
  | .slice d c o => .slice d c (o + n)

/-- The keys of n bytes. -/
def Place.keys (p : Place) (n : Nat) : List Nat := (List.range n).map p.key

/-- The tile or cluster of a place in SRAM, as its number EID/2 or EID/32. -/
def Place.tileNo : Place → Option Nat
  | .tile d c t _ _ => some (d * 256 + c * 16 + t)
  | _ => none

/-! ## Global virtual addresses (R205-R207) -/

/-- The die a GVA names, numbered PKG*8 + DIE. -/
def gvaDie (g : Word) : Nat := g.toNat / 2 ^ 51
def gvaOff (g : Word) : Nat := g.toNat % 2 ^ 51
def gvaPkg (g : Word) : Nat := g.toNat / 2 ^ 54

/-- Does a GVA lie in the device window (R206)? -/
def isDevice (g : Word) : Bool := gvaOff g / 2 ^ 40 = 0x7FF

/-- What a device address holds (R207). -/
inductive Device where
  | sram (clu tile off : Nat)
  | control (clu off : Nat)
  | intrinsic
  | reserved
  deriving DecidableEq, Repr

def device (g : Word) : Device :=
  let d := gvaOff g % 2 ^ 40
  if d < 0x10000000 then .sram (d / 2 ^ 24) (d / 2 ^ 20 % 16) (d % 2 ^ 20)
  else if d / 2 ^ 20 = 0xFF000 then .control (d / 2 ^ 16 % 16) (d % 2 ^ 16)
  else if 0xFFFFFF0000 ≤ d then .intrinsic
  else .reserved

/-! ## Page tables (R367-R371) -/

/-- The table area of every die (R367). -/
def TA : Nat := 0x17C0000000
/-- The first DPA beyond HBM (R211). -/
def hbmEnd : Nat := 0x1800000000

/-- Eight bytes of a die's HBM. -/
def State.hbm64 (s : State) (d a : Nat) : Word := BitVec.ofNat 64 (Mem.read s.mem ((Place.hbm d a false).keys 8))
def State.setHbm64 (s : State) (d a : Nat) (w : Word) : State :=
  { s with mem := Mem.write s.mem ((Place.hbm d a false).keys 8) w.toNat }

/-- Is an entry a pointer to a node (R370)? Its DPA. -/
def pointer (e : Word) : Option Nat :=
  if field e 0 2 = 1 ∧ field e 2 6 = 0 ∧ field e 40 24 = 0 ∧ field e 8 32 * 256 < hbmEnd then some (field e 8 32 * 256)
  else none

/-- The target of a leaf of page size 2^size (R211, R212, R371), for the byte at offset `off` in the page; none where the leaf
breaks a layout. `pinw` gives SLCFG.PINW of a cluster of the die: of a page of a slice that reaches past it, the bytes below are there
(DESIGN CHOICE, log entry 90). -/
def leafPlace (d size : Nat) (leaf : Word) (pinw : Nat → Nat) (off : Nat) : Option Place :=
  let tgt := field leaf 16 24
  if field leaf 0 2 ≠ 3 ∨ field leaf 12 4 ≠ 0 ∨ leaf.getLsbD 8 then none else
  match field leaf 2 2 with
  | 2 =>
    if size = 16 ∧ tgt < 2 ^ 12 ∧ field leaf 9 3 ≠ 7 then
      some (.tile d (tgt / 2 ^ 8) (tgt / 16 % 16) (tgt % 16 * 2 ^ 16 + off) (field leaf 9 3))
    else none
  | 3 =>
    let clu := tgt / 2 ^ 8
    let po := tgt % 64 * 2 ^ 16
    if size ≠ 30 ∧ tgt < 2 ^ 12 ∧ tgt / 64 % 4 = 0 ∧ po % 2 ^ size = 0 ∧ po + off < pinw clu * 262144 then
      some (.slice d clu (po + off))
    else none
  | h =>
    if tgt * 2 ^ 16 % 2 ^ size = 0 ∧ tgt * 2 ^ 16 + off < hbmEnd then some (.hbm d (tgt * 2 ^ 16 + off) (h == 0)) else none

/-- A leaf found by a walk: page size, the word, and its DPA. -/
structure Leaf where
  size : Nat
  word : Word
  at_ : Nat
  deriving DecidableEq, Repr

/-- The levels of a walk below the root: index, and the page size of a leaf there (R370). -/
def walkLevels (off : Nat) : List (Nat × Nat) :=
  [(off / 2 ^ 39 % 4096, 0), (off / 2 ^ 30 % 512, 30), (off / 2 ^ 21 % 512, 21), (off / 2 ^ 16 % 32, 16)]

/-- Walk the remaining levels from the node at `node`. A leaf stands at level 2, 1 or 0; level 0 holds leaves only. -/
def State.walkFrom (s : State) (d : Nat) (node : Nat) : List (Nat × Nat) → Option Leaf
  | [] => none
  | (i, size) :: rest =>
    let e := s.hbm64 d (node + 8 * i)
    if field e 0 2 = 3 then (if size = 0 then none else some { size := size, word := e, at_ := node + 8 * i })
    else
      match pointer e with
      | none => none
      | some n => s.walkFrom d n rest

/-- The DPA of an ASID's entry of the root table (R367). -/
def rootAt (asid : BitVec 16) : Nat := TA + 0x100000 + 32 * asid.toNat

/-- The node at which the walk of an offset begins, with the levels below: that of the deepest pointer entry in the walk cache (R372), or
level 3 of a root entry that is valid and whose zero word is zero (R370). -/
def State.walkStart (s : State) (d : Nat) (asid : BitVec 16) (off : Nat) : Option (Nat × List (Nat × Nat)) :=
  let hit := fun (n : Nat) => ((s.die d).walks.find? fun (w : WalkEntry) => w.asid == asid && w.shift == n && w.index == off / 2 ^ n).map
    fun w => w.node
  match hit 21, hit 30, hit 39 with
  | some n, _, _ => some (n, (walkLevels off).drop 3)
  | none, some n, _ => some (n, (walkLevels off).drop 2)
  | none, none, some n => some (n, (walkLevels off).drop 1)
  | none, none, none =>
    let r := s.hbm64 d (rootAt asid)
    let node := field r 15 25 * 2 ^ 15
    if r.getLsbD 0 ∧ node < hbmEnd ∧ s.hbm64 d (rootAt asid + 24) = 0 then some (node, walkLevels off) else none

/-- The walk of an ASID's tables for an offset (R370). -/
def State.walk (s : State) (d : Nat) (asid : BitVec 16) (off : Nat) : Option Leaf :=
  match s.walkStart d asid off with
  | some (node, l) => s.walkFrom d node l
  | none => none

/-- The pointer entries that a walk from a node reads: the shift of each with the node that it names. -/
def State.pointers (s : State) (d node : Nat) : List (Nat × Nat) → List (Nat × Nat)
  | [] => []
  | (i, _) :: rest => match pointer (s.hbm64 d (node + 8 * i)) with
    | some n => ([0, 21, 30, 39].getD rest.length 0, n) :: s.pointers d n rest
    | none => []

/-- A walk has ended: its pointer entries are in the walk cache, which holds 256 (R372). -/
def State.walkFill (s : State) (d : Nat) (asid : BitVec 16) (off : Nat) : State :=
  match s.walkStart d asid off with
  | some (node, l) =>
    let ps := (s.pointers d node l).map fun (n, p) => ({ asid := asid, shift := n, index := off / 2 ^ n, node := p } : WalkEntry)
    if ps.isEmpty then s else s.modDie d fun k => { k with walks := (ps ++ k.walks).take 256 }
  | none => s

/-! ## The memory-side TLB (R372) -/

def tlbSet (asid : BitVec 16) (page : Nat) : Nat := Nat.xor (asid.toNat % 256) (page % 256)

def TlbEntry.hits (e : TlbEntry) (asid : BitVec 16) (off : Nat) : Bool := e.asid == asid && e.page == off / 2 ^ e.size

/-- An entry leaves the TLB: its D and WV are written back unless software has changed the word (R371). -/
def State.tlbWriteBack (s : State) (d : Nat) (e : TlbEntry) : State :=
  if e.leaf ≠ e.loaded ∧ s.hbm64 d e.at_ = e.loaded then s.setHbm64 d e.at_ e.leaf else s

/-- Put an entry in front (most recently used). Of 17 entries of one set the last leaves. -/
def State.tlbInsert (s : State) (d : Nat) (e : TlbEntry) : State :=
  let k := s.die d
  let same := k.tlb.filter fun f => tlbSet f.asid f.page == tlbSet e.asid e.page
  match same.reverse with
  | [] => s.setDie d { k with tlb := e :: k.tlb }
  | o :: _ =>
    if same.length < 16 then s.setDie d { k with tlb := e :: k.tlb }
    else (s.tlbWriteBack d o).setDie d { k with tlb := e :: k.tlb.erase o }

/-- A walk completes and fills the TLB (R372); none where the page is unmapped. -/
def State.tlbWalk (s : State) (d : Nat) (asid : BitVec 16) (off : Nat) : State × Option TlbEntry :=
  match s.walk d asid off with
  | none => (s, none)
  | some l =>
    let ok := (l.word.getLsbD 8 && field l.word 12 4 == 0 && field l.word 28 12 == 0) ||
      (leafPlace d l.size l.word (fun c => (s.cluster (d * 16 + c)).pinw.toNat) 0).isSome
    if ok then
      let e : TlbEntry := { asid := asid, size := l.size, page := off / 2 ^ l.size, leaf := l.word, loaded := l.word, at_ := l.at_ }
      ((s.walkFill d asid off).tlbInsert d e, some e)
    else (s, none)

/-- The entry for an offset, from the TLB or by a walk, most recently used afterwards. -/
def State.tlbLookup (s : State) (d : Nat) (asid : BitVec 16) (off : Nat) : State × Option TlbEntry :=
  match (s.die d).tlb.find? fun e => e.hits asid off with
  | some e => (s.modDie d fun k => { k with tlb := e :: k.tlb.erase e }, some e)
  | none => s.tlbWalk d asid off

/-- Word w of entry i of a die's home-lookup table (R379). -/
def homeWord (i w : Nat) : Nat := TA + 0x400000 + 32 * i + 8 * w

/-- Find the page of a GVA, through any forward. -/
def State.findPage (s : State) (asid : BitVec 16) (g : Word) : State × Option Page :=
  let n := gvaDie g
  let off := gvaOff g
  match s.tlbLookup n asid off with
  | (s, none) => (s, none)
  | (s, some e) =>
    if e.leaf.getLsbD 8 then
      let f := s.hbm64 n (homeWord (field e.leaf 16 12) 0)
      let d := n / 8 * 8 + field f 3 3
      let i := field (s.hbm64 n (homeWord (field e.leaf 16 12) 2)) 0 12
      if f.getLsbD 0 then
        (s, some { die := d, size := e.size, leaf := s.hbm64 d (homeWord i 2), home := some i, nominal := n, page := e.page })
      else (s, none)
    else (s, some { die := n, size := e.size, leaf := e.leaf, home := none, nominal := n, page := e.page })

/-- The place of a GVA's byte on its page. -/
def State.pagePlace (s : State) (p : Page) (g : Word) : Option Place :=
  leafPlace p.die p.size p.leaf (fun c => (s.cluster (p.die * 16 + c)).pinw.toNat) (gvaOff g % 2 ^ p.size)

/-- A leaf after one write translated to its page: D set and WV advanced (R371). -/
def leafWritten (l : Word) : Word :=
  putField (putBit l 6 true) 40 24 (field l 40 24 + 1)

/-- One write is translated to a page (R371, R400): D, WV, and STREAK with LWD of the writing die. -/
def State.countWrite (s : State) (asid : BitVec 16) (p : Page) (from_ : Nat) : State :=
  let s : State := match p.home with
    | some i => s.setHbm64 p.die (homeWord i 2) (leafWritten p.leaf)
    | none => s.modDie p.nominal fun k =>
        { k with tlb := k.tlb.map fun (e : TlbEntry) =>
            if e.asid = asid ∧ e.size = p.size ∧ e.page = p.page then { e with leaf := leafWritten e.leaf } else e }
  let page := p.page * 2 ^ (p.size - 16)
  s.modDie p.nominal fun k =>
    let old := k.streaks.find? fun (t : Streak) => t.asid == asid && t.page == page
    let t : Streak := match old with
      | some t => if t.die = from_ then { t with count := min 15 (t.count + 1) } else { t with count := 1, die := from_ }
      | none => { asid := asid, page := page, count := 1, die := from_ }
    { k with streaks := t :: k.streaks.filter fun (u : Streak) => !(u.asid == asid && u.page == page) }

/-! ## Poison (R204) -/

/-- The DPAs of the entries that a walk from a node reads. -/
def State.walkAddrs (s : State) (d node : Nat) : List (Nat × Nat) → List Nat
  | [] => []
  | (i, _) :: rest => (node + 8 * i) :: (match pointer (s.hbm64 d (node + 8 * i)) with
    | some n => s.walkAddrs d n rest
    | none => [])

/-- Is the 8-byte word of a table at a DPA of a die poisoned? -/
def State.tableBad (s : State) (d a : Nat) : Bool := s.poison.contains ((Place.hbm d a false).key 0 / 8)

/-- Is a word poisoned that a moved page's leaf leads to: of the FWD entry at the nominal die, or the leaf in the HOME entry (R379)? -/
def State.movedBad (s : State) (d : Nat) (leaf : Word) : Bool :=
  let i := field leaf 16 12
  let f := s.hbm64 d (homeWord i 0)
  leaf.getLsbD 8 && (s.tableBad d (homeWord i 0) || s.tableBad d (homeWord i 2) ||
    s.tableBad (d / 8 * 8 + field f 3 3) (homeWord (field (s.hbm64 d (homeWord i 2)) 0 12) 2))

/-- Does the translation of an offset read a poisoned granule of a table: on a miss the walk's, and a moved page's HOME words? -/
def State.tablesBad (s : State) (asid : BitVec 16) (g : Word) : Bool :=
  let d := gvaDie g
  if s.poison.isEmpty then false
  else match (s.die d).tlb.find? fun e => e.hits asid (gvaOff g) with
    | some e => s.movedBad d e.leaf
    | none =>
      (match s.walkStart d asid (gvaOff g) with
       | some (node, l) => (l.length == 4 && (s.tableBad d (rootAt asid) || s.tableBad d (rootAt asid + 24))) ||
           (s.walkAddrs d node l).any (s.tableBad d)
       | none => s.tableBad d (rootAt asid) || s.tableBad d (rootAt asid + 24)) ||
      (match s.walk d asid (gvaOff g) with
       | some l => s.movedBad d l.word
       | none => false)

/-! ## The world table (R404, R405) -/

/-- Is a place marked secure on its die? The 64 KiB of the world table always are. -/
def State.secure (s : State) (p : Place) : Bool :=
  match p with
  | .hbm d a _ =>
    (s.die d).regions.any (fun r => r.sec && r.first ≤ a / 2 ^ 16 && a / 2 ^ 16 ≤ r.last) || a / 2 ^ 16 == (TA + 0x300000) / 2 ^ 16
  | .tile d c t _ _ => (s.die d).blocks.getLsbD (c * 16 + t)
  | .slice d c _ => (s.die d).blocks.getLsbD (256 + c)

/-! ## Readiness (R443, R444) -/

/-- The bits of a die's functions. -/
def rHbm : Nat := 0
def rSlc : Nat := 1
def rTile : Nat := 2
def rTbl : Nat := 3
def rMer : Nat := 4
def rCeng : Nat := 5
def rD2d : Nat := 6

/-- Is a bit of a package set; has its function failed for good? -/
def State.ready (s : State) (p bit : Nat) : Bool := (s.pkg p).ready.getLsbD bit
def State.gone (s : State) (p bit : Nat) : Bool := (s.pkg p).refused.contains bit

/-- The bit of a function k of die d (numbered PKG*8 + DIE). -/
def dieBit (d k : Nat) : Nat := 8 * (d % 8) + k
def State.dieHas (s : State) (d k : Nat) : Bool := s.ready (d / 8) (dieBit d k)

/-- Are all functions of a die usable? -/
def State.dieReady (s : State) (d : Nat) : Bool :=
  [0, 1, 2, 3, 4, 5, 6].all (s.dieHas d) && s.ready (d / 8) (64 + d % 8)

/-- The functions, as package and bit, on the way from die f to die d: between dies of a package their links; between packages the gateways
and ports of the dies with the plane, and the links to and from them (R434, R435). -/
def State.way (s : State) (f d : Nat) : List (Nat × Nat) :=
  let hop := fun (a b : Nat) => if a = b then [] else [(a / 8, dieBit a rD2d), (b / 8, dieBit b rD2d)]
  if f / 8 = d / 8 then hop f d
  else
    let n := s.planeTo (f / 8) (d / 8) / 9
    hop f (f / 8 * 8 + n) ++ [(f / 8, 64 + n), (d / 8, 64 + n)] ++ hop (d / 8 * 8 + n) d

/-- The function of a die, as package and bit. -/
def rOf (d k : Nat) : Nat × Nat := (d / 8, dieBit d k)

/-- The functions that serve a page at its place. -/
def State.serves (s : State) (p : Page) (g : Word) : List (Nat × Nat) :=
  match s.pagePlace p g with
  | some (.hbm e _ _) => [rOf e rHbm, rOf e rSlc]
  | some (.tile e _ _ _ _) => [rOf e rTile]
  | some (.slice e _ _) => [rOf e rSlc]
  | none => []

/-- The functions, as package and bit, that a request from cluster `from_` to a GVA needs. A request for a moved page goes through its nominal
die to its home die, which serves its own cores directly (R380). -/
def State.needs (s : State) (from_ : Nat) (asid : BitVec 16) (g : Word) : List (Nat × Nat) :=
  let d := gvaDie g
  if isDevice g then s.way (from_ / 16) d ++ (match device g with
    | .sram .. => [rOf d rTile]
    | _ => [])
  else match (s.findPage asid g).2 with
    | none => s.way (from_ / 16) d ++ [rOf d rTbl]
    | some p =>
      (if p.die = from_ / 16 then [rOf p.die rTbl] else s.way (from_ / 16) d ++ [rOf d rTbl] ++ s.way d p.die ++ [rOf p.die rTbl]) ++ s.serves p g

/-- The home cluster of the line at a DPA (R214). -/
def homeSlice (a : Nat) : Nat :=
  ([7, 11, 15, 19, 23, 27, 31, 35].map fun i => a / 2 ^ i % 16).foldl Nat.xor 0

/-- The gated cluster at which a request arrives (R421): that of the tile or slice which a GVA names, or of its line's home slice, where
the line is not in the requester's own slice. -/
def State.gatedAt (s : State) (from_ : Nat) (asid : BitVec 16) (g : Word) : Option Nat :=
  if s.clusters.all fun q => !q.2.gated then none
  else
    let clu : Option Nat := if isDevice g then (match device g with
        | .sram c _ _ => some (gvaDie g * 16 + c)
        | .control c _ => some (gvaDie g * 16 + c)
        | _ => none)
      else (s.findPage asid g).2.bind fun p => (s.pagePlace p g).bind fun q => match q with
        | .hbm d a _ => if from_ / 16 = d ∧ (s.die d).lines.any (fun (l : Line) => l.line == a / 128 && l.holders.contains (from_ % 16)) then none
          else some (d * 16 + homeSlice a)
        | .tile d c _ _ _ => some (d * 16 + c)
        | .slice d c _ => some (d * 16 + c)
    clu.filter fun c => (s.cluster c).gated

/-- A request wakes the gated cluster at which it arrives (R421). -/
def State.rouse (s : State) (from_ : Nat) (asid : BitVec 16) (g : Word) : State :=
  match s.gatedAt from_ asid g with
  | some c => if s.flight.contains (.clusterWake c) then s else { s with flight := s.flight ++ [.clusterWake c] }
  | none => s

/-- Does a request stay in a package all of whose dies' functions are usable? -/
def State.plain (s : State) (from_ : Nat) (g : Word) : Bool :=
  from_ / 128 == gvaPkg g && ([0, 1, 2, 3, 4, 5, 6, 7] : List Nat).all fun i => s.dieReady (gvaPkg g * 8 + i)

/-- Is a request held: at a gated cluster (R421), or at the ingress of a function that is not usable yet (R444)? A die number that names no
die holds nothing: it is refused (R2). -/
def State.heldAt (s : State) (from_ : Nat) (asid : BitVec 16) (g : Word) : Bool :=
  (s.gatedAt from_ asid g).isSome || !s.plain from_ g && !s.noDie (from_ / 128) (gvaDie g) &&
    (s.needs from_ asid g).any fun (p, b) => !s.ready p b && !s.gone p b

/-- Does a request need a function that has failed for good (R444)? -/
def State.goneAt (s : State) (from_ : Nat) (asid : BitVec 16) (g : Word) : Bool :=
  !s.plain from_ g && (s.needs from_ asid g).any fun (p, b) => s.gone p b

/-! ## One piece of an access at its owner -/

/-- What the owner finds for one piece (R264, R265): a place, a control register, an unmapped page, a denial, or poison in the tables
that translate it (R204). -/
inductive Found where
  | at_ (p : Place)
  | control (clu off : Nat)
  | unmapped
  | denied
  | poison
  deriving DecidableEq, Repr

/-- Is a core granted to a job of an ASID (R32)? -/
def State.grantedTo (s : State) (asid : BitVec 16) (eid : Nat) : Bool := (s.core eid).job.isSome && (s.core eid).asid == asid

/-- Does a page lie in the SRAM of a tile neither core of which is granted to a job of the request's ASID? The tile's memory agent then
refuses the request (R32). -/
def State.foreign (s : State) (asid : BitVec 16) (q : Place) : Bool :=
  match q.tileNo with
  | some t => !s.grantedTo asid (2 * t) && !s.grantedTo asid (2 * t + 1)
  | none => false

/-- Translate a GVA of a request from cluster `from_` at its owner and check permission and world (R265, R371, R375, R405). `wr` is a write. -/
def State.resolve (s : State) (from_ : Nat) (asid : BitVec 16) (wld wr : Bool) (g : Word) : State × Option Page × Found :=
  if s.goneAt from_ asid g || s.noDie (gvaPkg g) (gvaDie g) then (s, none, .denied)
  else if isDevice g then
    match device g with
    | .sram c t o =>
      let p := Place.tile (gvaDie g) c t o 6
      (s, none, if !wld && s.secure p then .denied else .at_ p)
    | .control c o => (s, none, .control (gvaDie g * 16 + c) o)
    | _ => (s, none, .denied)
  else if s.tablesBad asid g then (s, none, .poison)
  else
    match s.findPage asid g with
    | (s, none) => (s, none, .unmapped)
    | (s, some p) =>
      match s.pagePlace p g with
      | none => (s, none, .unmapped)
      | some q =>
        if (if wr then p.leaf.getLsbD 5 else p.leaf.getLsbD 4) && !s.foreign asid q then
          (s, some p, if !wld && s.secure q then .denied else .at_ q)
        else (s, some p, .denied)

/-! ## Poison of data (R204) -/

/-- Is any 8-byte granule of n bytes of a place poisoned? -/
def State.poisoned (s : State) (p : Place) (n : Nat) : Bool := s.poison.any fun g => (p.keys n).any fun k => k / 8 == g

/-- A write clears the poison of the granules it writes whole. -/
def clearPoison (l : List Nat) (ks : List Nat) : List Nat :=
  l.filter fun g => !((List.range 8).all fun i => ks.contains (g * 8 + i))

/-! ## Lines of the slices (R214) -/

/-- A line's set (R214). -/
def lineSet (a : Nat) : Nat := Nat.xor (a / 2 ^ 7 % 2048) (a / 2 ^ 18 % 2048)

def Line.heldBy (l : Line) (c : Nat) : Bool := l.holders.contains c || homeSlice (l.line * 128) == c

/-- A line that no slice holds any more: the home slice keeps the record of a sector that the host owns (R238). -/
def Line.shed (l : Line) : Option Line := if l.host = 0 then none else some { l with holders := [], dirty := none }

/-- Cluster c of a die makes room: while a set holds more lines than the ways left by PINW, one leaves, and none of which the host owns a
sector; from its home slice every copy goes with it, and dirty data is in memory already. -/
def evictFrom (c ways fresh : Nat) (a : Nat) (ls : List Line) : List Line :=
  let mine := ls.filter fun l => l.heldBy c && lineSet (l.line * 128) == lineSet (a * 128) && l.host == 0
  if mine.length ≤ ways then ls
  else
    let others := mine.filter fun l => l.line != a
    match others[Config.victim fresh % max 1 others.length]? with
    | none => ls
    | some v =>
      if homeSlice (v.line * 128) = c then ls.filter fun l => l.line != v.line
      else ls.map fun l => if l.line = v.line then
        { l with holders := l.holders.filter (· != c), dirty := if l.dirty = some c then none else l.dirty } else l

/-- An access by cluster c (numbered in its die) to a cached line: it becomes present there, exclusively and dirty on a write; a read
recalls it from another slice that holds it dirty (R214). A write has recalled what the host owned of it (R238). -/
def State.touchLine (s : State) (d c : Nat) (dpa : Nat) (wr : Bool) : State :=
  let a := dpa / 128
  let k := s.die d
  let old := k.lines.find? fun l => l.line == a
  let l : Line := match old with
    | some l => l
    | none => { line := a, holders := [], dirty := none, back := 0, host := 0 }
  let sect : BitVec 2 := if dpa / 64 % 2 = 0 then 1 else 2
  let l := if wr then
      { l with holders := [c], dirty := some c, host := l.host &&& ~~~sect,
               back := if l.dirty.isSome then l.back
                       else BitVec.ofNat 1024 (Mem.read s.mem ((Place.hbm d (a * 128) true).keys 128)) }
    else { l with holders := if l.holders.contains c then l.holders else l.holders ++ [c],
                  dirty := if l.dirty == some c then l.dirty else none }
  let ls := l :: k.lines.filter fun m => m.line != a
  let ways := fun e => 16 - (s.cluster (d * 16 + e)).pinw.toNat
  let h := homeSlice (a * 128)
  { (s.setDie d { k with lines := evictFrom h (ways h) s.fresh a (evictFrom c (ways c) s.fresh a ls) }) with fresh := s.fresh + 1 }

/-- The die's other dies in its package. -/
def otherDies (e : Nat) : List Nat := ((List.range 8).map (e / 8 * 8 + ·)).filter (· != e)

/-- Every copy of a line on the other dies of its package is dropped. -/
def State.dropLine (s : State) (d a : Nat) : State :=
  (otherDies d).foldl (fun s e => s.modDie e fun k =>
    { k with copies := k.copies.filter fun (c : Copy) => !(c.home == d && c.line == a / 128) }) s

/-- No slice of a die holds the line of a DPA any more. -/
def State.shedLine (s : State) (d a : Nat) : State :=
  s.modDie d fun k => { k with lines := k.lines.filterMap fun (l : Line) => if l.line = a / 128 then l.shed else some l }

/-- A cached access from a core of the die (cluster number `from_` over all dies) touches its line there; from another die it
is performed at the home slice, an atomic of another package too (DESIGN CHOICE, log entry 80). Before an access to a HOME = 01 place every cached
copy of
its line is written back and invalidated (R213). -/
def State.touch (s : State) (from_ : Nat) (p : Place) (wr : Bool) : State :=
  match p with
  | .hbm d a true => s.touchLine d (if from_ / 16 = d then from_ % 16 else homeSlice a) a wr
  | .hbm d a false => (s.shedLine d a).dropLine d a
  | _ => s

/-! ## The host's sectors (R238) -/

/-- The half-line bits of the sectors that n bytes at a DPA touch. -/
def sectors (a n : Nat) : BitVec 2 :=
  (if a % 128 < 64 then 1 else 0) ||| (if 64 < a % 128 + n then 2 else 0)

/-- Must an access of n bytes first recall a sector that the host owns (R238)? A write must, and every access past the caches (R213). -/
def State.hostHas (s : State) (p : Place) (n : Nat) (wr : Bool) : Bool :=
  match p with
  | .hbm d a cached => (wr || !cached) && (s.die d).lines.any fun l => l.line == a / 128 && l.host &&& sectors a n != 0
  | _ => false

/-! ## Ways of a slice (R215) -/

/-- The bytes of a slice's pinned area from `lo` up, n of them, lose their contents. -/
def State.dropPinned (s : State) (clu lo n : Nat) : State :=
  let k := (Place.slice (clu / 16) (clu % 16) lo).key 0
  let out := fun (a : Nat) => decide (k ≤ a ∧ a < k + n)
  { s with mem := s.mem.filter fun c => !out c.1, poison := s.poison.filter fun g => !out (8 * g) }

/-- The way of a slice in which a line stands, as far as the spec says: some way. -/
def lineWay (l : Line) : Nat := Config.victim l.line % 16

/-- Cluster c of a die loses the lines in the ways from 16 - n up: from its home slice a line leaves with every copy; dirty data is
in memory already. -/
def Die.loseWays (k : Die) (c n : Nat) : Die :=
  { k with lines := k.lines.filterMap fun (l : Line) =>
      if l.heldBy c && 16 - n ≤ lineWay l then
        (if homeSlice (l.line * 128) = c then l.shed
         else some { l with holders := l.holders.filter (· != c), dirty := if l.dirty = some c then none else l.dirty })
      else some l }

/-- No set of cluster c holds more lines than the ways that PINW leaves. -/
def Die.fitWays (k : Die) (c ways fresh : Nat) : Die :=
  { k with lines := k.lines.foldl (fun ls (l : Line) => evictFrom c ways fresh l.line ls) k.lines }

/-! ## Shapes of coherence objects (R396) -/

/-- Do two ranges of bytes meet? -/
def meet (a m b n : Nat) : Bool := a < b + n && b < a + m

/-- The bytes from an object's base to its end. -/
def Obj.extent (o : Obj) : Nat := if o.rows = 0 then 0 else (o.rows - 1) * o.pitch + o.rowBytes

/-- Does the object hold a byte of the n bytes from GVA `lo`? -/
def Obj.meets (o : Obj) (lo n : Nat) : Bool :=
  let b := o.base.toNat
  let p := max 1 o.pitch
  n != 0 && (if o.rows = 1 then meet b o.rowBytes lo n else
    let first := if lo ≤ b then 0 else (lo - b) / p
    meet (b + first * p) (if first < o.rows then o.rowBytes else 0) lo n ||
      (first + 1 < o.rows && meet (b + (first + 1) * p) o.rowBytes lo n))

/-- The first bytes of an object's rows. -/
def Obj.rowStarts (o : Obj) : List Nat := (List.range o.rows).map fun r => o.base.toNat + r * o.pitch

/-- Do two objects share a byte? -/
def Obj.overlaps (o q : Obj) : Bool := o.rowStarts.any fun lo => q.meets lo o.rowBytes

/-- The live object of an ASID on a die that holds a byte of a range. -/
def Die.objectAt (k : Die) (asid : BitVec 16) (lo n : Nat) : Bool :=
  k.objs.any fun (_, (o : Obj)) => o.live && o.asid == asid && o.meets lo n

/-! ## Coherence objects on the dies of a package (R236) -/

/-- The live object that a line of an ASID belongs to: its home die and index. -/
def State.objOf (s : State) (asid : BitVec 16) (g : Word) : Option (Nat × Nat) :=
  ((s.die (gvaDie g)).objs.find? fun (_, (o : Obj)) => o.live && o.asid == asid && o.meets g.toNat 1).map fun q => (gvaDie g, q.1)

/-- The states of an object change. -/
def State.modObj (s : State) (o : Nat × Nat) (f : Nat → Nat → Nat) : State :=
  s.modDie o.1 fun k => { k with objs := k.objs.map fun (i, (b : Obj)) =>
    if i = o.2 then (i, { b with state := (List.range 8).foldl (fun m j =>
      let e := o.1 / 8 * 8 + j
      Map.putC 0 m e (f e (Map.get 0 b.state e))) b.state }) else (i, b) }

def State.objState (s : State) (o : Nat × Nat) (e : Nat) : Nat :=
  match Map.find (s.die o.1).objs o.2 with
  | some b => Map.get 0 b.state e
  | none => 0

/-- Die e keeps no copy of an object. -/
def State.loseCopies (s : State) (o : Nat × Nat) (e : Nat) : State :=
  s.modDie e fun k => { k with copies := k.copies.filter fun (c : Copy) => !(c.home == o.1 && c.obj == o.2) }

/-- Every SHARED copy of an object on a die other than e is invalidated. -/
def State.dropShared (s : State) (e : Nat) (o : Nat × Nat) : State :=
  (((otherDies e).filter fun f => s.objState o f == 1).foldl (fun s f => s.loseCopies o f) s).modObj o fun f v =>
    if f ≠ e ∧ v = 1 then 0 else v

/-- Die e obtains an object EXCLUSIVE: it is nobody else's, and what others hold SHARED is still to be invalidated. -/
def State.objTake (s : State) (e : Nat) (o : Nat × Nat) : State :=
  (((otherDies e).filter fun f => s.objState o f == 2).foldl (fun s f => s.loseCopies o f) (s.loseCopies o e)).modObj o fun f v =>
    if f = e then 2 else if v = 2 then 0 else v

/-- A line's data. -/
def State.lineData (s : State) (d a : Nat) : BitVec 1024 :=
  BitVec.ofNat 1024 (Mem.read s.mem ((Place.hbm d (a / 128 * 128) true).keys 128))

/-- A line of an object stands in the slice of a cluster of a die that is not its home: with data where the die holds it SHARED. -/
def State.keepCopy (s : State) (cl : Nat) (o : Nat × Nat) (a : Nat) (data : Option (BitVec 1024)) : State :=
  s.modDie (cl / 16) fun k =>
    let here := fun (c : Copy) => c.home == o.1 && c.line == a / 128
    if k.copies.any here then
      { k with copies := k.copies.map fun (c : Copy) =>
          if here c && !c.slices.contains (cl % 16) then { c with slices := c.slices ++ [cl % 16] } else c }
    else { k with copies := k.copies ++ [{ home := o.1, obj := o.2, line := a / 128, slices := [cl % 16], data := data }] }

/-- Die e reads a line of an object: the die holds the object SHARED, or EXCLUSIVE already. -/
def State.objShare (s : State) (e : Nat) (o : Nat × Nat) : State :=
  if s.objState o e = 2 then s else s.modObj o fun f v => if f = e then 1 else if v = 2 then 1 else v

/-- The cluster that a requester's access to a place of a die's HBM counts as: its own in the package, and one of the owning die for a
requester on another package (R233, R250). -/
def actsFrom (from_ d a : Nat) : Nat := if from_ / 128 = d / 8 then from_ else d * 16 + homeSlice a

/-- The object that an access to a place meets: a cached line of a declared object. -/
def State.objMet (s : State) (asid : BitVec 16) (g : Word) (p : Place) : Option (Nat × Nat) :=
  match p with
  | .hbm _ _ true => s.objOf asid g
  | _ => none

/-- A load or store from a cluster reaches its place: the slices (R214), and the state of a coherence object on its die (R236). A line of an
object on another die of the package comes into the requester's cluster slice (R250). -/
def State.reach (s : State) (from_ : Nat) (asid : BitVec 16) (g : Word) (p : Place) (wr : Bool) : State :=
  match s.objMet asid g p, p with
  | some o, .hbm d a _ =>
    let c := actsFrom from_ d a
    let e := c / 16
    if e = d then (if wr then (s.touch c p wr).objTake e o else (s.touch c p wr).objShare e o)
    else if wr then ((s.shedLine d a).objTake e o).keepCopy c o a none
    else
      let s := s.objShare e o
      s.keepCopy c o a (if s.objState o e = 2 then none else some (s.lineData d a))
  | _, _ => s.touch from_ p wr

/-- A write that is performed everywhere at once: every other die's copy is invalidated with it. -/
def State.reachAll (s : State) (from_ : Nat) (asid : BitVec 16) (g : Word) (p : Place) : State :=
  match s.objMet asid g p, p with
  | some o, .hbm d a _ => (s.reach from_ asid g p true).dropShared (actsFrom from_ d a / 16) o
  | _, _ => s.reach from_ asid g p true

/-! ## Reading and writing n bytes at a place -/

def State.readAt (s : State) (p : Place) (n : Nat) : Nat := Mem.read s.mem (p.keys n)

/-- What a requester in a cluster reads: its die's own copy of a line of a coherence object, where it holds one (R236). -/
def State.viewAt (s : State) (from_ : Nat) (p : Place) (n : Nat) : Nat :=
  match p with
  | .hbm d a true => (match (s.die (from_ / 16)).copies.findSome? fun (c : Copy) =>
        if c.home == d && c.line == a / 128 && d != from_ / 16 then c.data else none with
    | some c => c.toNat / 256 ^ (a % 128) % 256 ^ n
    | none => s.readAt p n)
  | _ => s.readAt p n

def State.writeAt (s : State) (p : Place) (n v : Nat) : State :=
  { s with mem := Mem.write s.mem (p.keys n) v, poison := if s.poison.isEmpty then [] else clearPoison s.poison (p.keys n) }

/-! ## Steps set off once, and steps held by an open fault (R374) -/

/-- Set off an event unless it is set off already. -/
def State.once (s : State) (e : Ev) : State := if s.flight.contains e then s else s.later e

/-- The 64 KiB region of a GVA. -/
def regionOf (g : Word) : Nat := g.toNat / 2 ^ 16

def OpenFault.isFor (asid : BitVec 16) (region : Nat) (f : OpenFault) : Bool := f.asid == asid && f.region == region

/-- A step that met an unmapped page waits for the page's service. -/
def State.holdEv (s : State) (sid : Nat) (asid : BitVec 16) (g : Word) (k : FaultKind) (e : Ev) : State :=
  let s := s.modDie (gvaDie g) fun d =>
    if d.faults.any (OpenFault.isFor asid (regionOf g)) then
      { d with faults := d.faults.map fun (f : OpenFault) =>
          if f.isFor asid (regionOf g) then { f with held := f.held ++ [(g, e)] } else f }
    else { d with faults := d.faults ++ [{ num := none, asid := asid, region := regionOf g, held := [(g, e)] }] }
  s.once (.faultOpen sid g k)

/-- Does a step of this kind wait for a page? -/
def State.isHeld (s : State) (p : Ev → Bool) : Bool := s.dies.any fun (_, d) => d.faults.any fun f => f.held.any fun q => p q.2

/-! ## The table agent's commands (R368, R369) -/

/-- The words of the command ring's slot i (R367); of a command that the agent has taken, those that it took (R369). -/
def slotAt (i : Nat) : Nat := TA + 0x1000 + 64 * (i % 256)
def State.cmdWord (s : State) (d i w : Nat) : Word :=
  if (s.die d).cmd = some i then (s.die d).cmdw.getD w 0 else s.hbm64 d (slotAt i + 8 * w)

/-- Are the zero fields of a command zero (R369)? -/
def State.cmdFormed (s : State) (d i : Nat) : Bool :=
  let w := s.cmdWord d i
  field (w 0) 33 31 == 0 && (match field (w 0) 0 8 with
  | 1 => w 3 == 0
  | 2 => w 3 == 0
  | 3 => true
  | 4 => w 2 == 0 && w 3 == 0
  | 5 => w 1 == 0 && w 2 == 0 && w 3 == 0
  | _ => false)

/-- The event that runs a slot's command. -/
def State.cmdEvent (s : State) (d i : Nat) : Ev :=
  if !s.cmdFormed d i then .reservedEncoding (.tableCmd d)
  else match field (s.cmdWord d i 0) 0 8 with
    | 1 => .inval d
    | 2 => .resolve d
    | 3 => .migrate d
    | 4 => .scrub d
    | _ => .wsync d

/-- CTAIL and CHEAD (R368). -/
def State.ctail (s : State) (d : Nat) : Word := s.hbm64 d TA
def State.chead (s : State) (d : Nat) : Word := s.hbm64 d (TA + 8)

/-- The agent sets off the next command of its ring, unless one is being run. -/
def State.agentNext (s : State) (d : Nat) : State :=
  if (s.die d).cmd.isSome ∨ s.chead d = s.ctail d then s else s.once (s.cmdEvent d (s.chead d).toNat)

/-- A write has been performed: one to CTAIL wakes the table agent (R368). -/
def State.noticed (s : State) (q : Place) (n : Nat) : State :=
  match q with
  | .hbm d a _ => if a < TA + 8 ∧ TA < a + n then s.agentNext d else s
  | _ => s

/-! ## Agents (R382) -/

/-- The entry of an agent in its die's generation table, and its DPA. -/
def genAt (agent : Nat) : Nat := TA + 0x320000 + 2 * (agent % 2048)
def State.genTable (s : State) (d agent : Nat) : BitVec 16 :=
  BitVec.ofNat 16 (Mem.read s.mem ((Place.hbm d (genAt agent) false).keys 2))

/-- The generation that an agent holds and stamps. -/
def State.ownGen (s : State) (d agent : Nat) : BitVec 16 := BitVec.ofNat 16 (Map.get 0 (s.die d).agents agent)

/-- The index of a core's memory agent. -/
def coreAgent (eid : Nat) : Nat := eid % 512

/-- A message of a stale generation, or of a reserved KIND, is dropped and counted in DROPGEN (R334, R382). -/
def State.dropGen (s : State) (d : Nat) : State := s.setHbm64 d (TA + 0x28) (s.hbm64 d (TA + 0x28) + 1)

/-- An agent sends: `f`, where it has its present generation; what a stale one sends is dropped and counted, and answered with RESET_AGENT
(R382, R384). -/
def State.speaks (s : State) (d agent : Nat) (f : State → State) : State :=
  if s.genTable d agent = s.ownGen d agent then f s else (s.dropGen d).once (.resetAgent d agent)

/-- The core whose tile holds the place of a GVA in tile SRAM, where the job or the sender has one of its cores; else the sender (R32). -/
def State.ownerOf (s : State) (asid : BitVec 16) (eid : Nat) (g : Word) : Nat :=
  let core := fun (t : Nat) => if t = eid / 2 then eid else if s.grantedTo asid (2 * t) then 2 * t else 2 * t + 1
  if isDevice g then eid
  else match (s.findPage asid g).2 with
    | some p => (match (s.pagePlace p g).bind Place.tileNo with
      | some t => core t
      | none => eid)
    | none => eid

end Sys2Proof.Machine
end

