-- ==== Sys2Proof/Machine/Float.lean ====
section
/-!
DEFINITION. Number formats, rounding and floating-point operations on bit patterns (R87-R96, R118-R127): a value is taken
apart exactly, computed exactly as a rational number, and rounded once.
-/
namespace Sys2Proof.Machine

open Sys2Proof

/-! ## Formats (R118, R120) -/

/-- How a format uses its largest exponent (R120): infinities and NaNs, one NaN code only (E4M3), or nothing special (E2M1). -/
inductive Special where
  | ieee | oneNan | finite
  deriving DecidableEq, Repr

/-- A floating-point format: exponent bits, fraction bits, bias. -/
structure Fmt where
  e : Nat
  m : Nat
  bias : Nat
  special : Special
  deriving DecidableEq, Repr

def Fmt.f64 : Fmt := ⟨11, 52, 1023, .ieee⟩
def Fmt.f32 : Fmt := ⟨8, 23, 127, .ieee⟩
def Fmt.bf16 : Fmt := ⟨8, 7, 127, .ieee⟩
def Fmt.f16 : Fmt := ⟨5, 10, 15, .ieee⟩
def Fmt.e4m3 : Fmt := ⟨4, 3, 7, .oneNan⟩
def Fmt.e5m2 : Fmt := ⟨5, 2, 15, .ieee⟩
def Fmt.e2m1 : Fmt := ⟨2, 1, 1, .finite⟩

def Fmt.width (f : Fmt) : Nat := 1 + f.e + f.m

def fsFmt : Fs → Fmt
  | .f64 => .f64 | .f32 => .f32 | .f16 => .f16 | .bf16 => .bf16

/-- The format of a Boolean `single` field (AF4, majors 0x11 and 0x14). -/
def single (b : Bool) : Fmt := if b then .f32 else .f64

/-- The default NaN (R88, R120). -/
def Fmt.nan (f : Fmt) : Nat :=
  match f.special with
  | .ieee => (2 ^ f.e - 1) * 2 ^ f.m + 2 ^ (f.m - 1)
  | .oneNan => 2 ^ (f.e + f.m) - 1
  | .finite => 0

def Fmt.signBit (f : Fmt) (neg : Bool) : Nat := if neg then 2 ^ (f.e + f.m) else 0
def Fmt.inf (f : Fmt) (neg : Bool) : Nat := f.signBit neg + (2 ^ f.e - 1) * 2 ^ f.m
def Fmt.zero (f : Fmt) (neg : Bool) : Nat := f.signBit neg
/-- The largest finite value (R121). -/
def Fmt.maxFin (f : Fmt) (neg : Bool) : Nat :=
  f.signBit neg + match f.special with
    | .ieee => (2 ^ f.e - 1) * 2 ^ f.m - 1
    | .oneNan => 2 ^ (f.e + f.m) - 2
    | .finite => 2 ^ (f.e + f.m) - 1

/-- A value: a NaN, an infinity, or (-1)^neg * m * 2^e. -/
inductive FVal where
  | nan (sig : Bool)
  | inf (neg : Bool)
  | fin (neg : Bool) (m : Nat) (e : Int)
  deriving DecidableEq, Repr

/-- Take an encoding apart (R119, R120). -/
def Fmt.val (f : Fmt) (b : Nat) : FVal :=
  let neg := b / 2 ^ (f.e + f.m) % 2 == 1
  let e := b / 2 ^ f.m % 2 ^ f.e
  let fr := b % 2 ^ f.m
  let num := if e = 0 then FVal.fin neg fr (1 - (f.bias : Int) - (f.m : Int))
    else FVal.fin neg (2 ^ f.m + fr) ((e : Int) - (f.bias : Int) - (f.m : Int))
  match f.special with
  | .ieee =>
    if e = 2 ^ f.e - 1 then (if fr = 0 then .inf neg else .nan (fr / 2 ^ (f.m - 1) == 0)) else num
  | .oneNan => if b % 2 ^ (f.e + f.m) = 2 ^ (f.e + f.m) - 1 then .nan false else num
  | .finite => num

/-- A result's bits and its flags. -/
abbrev FRes := Nat × Fl

def Fmt.isNan (f : Fmt) (b : Nat) : Bool := match f.val b with
  | .nan _ => true
  | _ => false
def Fmt.isSig (f : Fmt) (b : Nat) : Bool := match f.val b with
  | .nan s => s
  | _ => false

/-! ## Rounding (R124-R127) -/

/-- The largest k with 2^k <= n/d, as an integer. -/
def floorLog (n d : Nat) : Int :=
  let k : Int := (Nat.log2 n : Int) - (Nat.log2 d : Int)
  if (if 0 ≤ k then d * 2 ^ k.toNat ≤ n else d ≤ n * 2 ^ (-k).toNat) then k else k - 1

/-- n/d * 2^k as a quotient, a remainder and the divisor. -/
def scaled (n d : Nat) (k : Int) : Nat × Nat × Nat :=
  if 0 ≤ k then (n * 2 ^ k.toNat / d, n * 2 ^ k.toNat % d, d)
  else (n / (d * 2 ^ (-k).toNat), n % (d * 2 ^ (-k).toNat), d * 2 ^ (-k).toNat)

/-- Does the mode move a magnitude up from q when r/d of a step is left (R124)? -/
def roundsUp (rm : Rm) (neg : Bool) (q r d : Nat) : Bool :=
  match rm with
  | .rne => d < 2 * r || (2 * r == d && q % 2 == 1)
  | .rtz => false
  | .rup => !neg && r != 0
  | .rdn => neg && r != 0
  | .rna => d ≤ 2 * r
  | .dyn => d < 2 * r || (2 * r == d && q % 2 == 1)

/-- Overflow (R125, R126). -/
def Fmt.overflow (f : Fmt) (rm : Rm) (neg : Bool) : FRes :=
  let fl := Fl.ovf ||| Fl.nx
  match f.special with
  | .ieee =>
    match rm with
    | .rtz => (f.maxFin neg, fl)
    | .rup => (if neg then f.maxFin neg else f.inf neg, fl)
    | .rdn => (if neg then f.inf neg else f.maxFin neg, fl)
    | _ => (f.inf neg, fl)
  | _ => (f.maxFin neg, fl)

/-- Round (-1)^neg * n/d * 2^e to a format (R124-R127). -/
def Fmt.round (f : Fmt) (rm : Rm) (neg : Bool) (n d : Nat) (e : Int) : FRes :=
  if n = 0 then (f.zero neg, 0) else
  let emin : Int := 1 - (f.bias : Int)
  let l := floorLog n d + e
  let t := max (emin - f.m) (l - f.m)
  let (q, r, dd) := scaled n d (e - t)
  let q1 := if roundsUp rm neg q r dd then q + 1 else q
  let tiny := l < emin && (
    let (u, v, w) := scaled n d (e - (l - f.m))
    !(l == emin - 1 && roundsUp rm neg u v w && u + 1 == 2 ^ (f.m + 1)))
  let (q2, t2) := if q1 = 2 ^ (f.m + 1) then (2 ^ f.m, t + 1) else (q1, t)
  let bits := if q2 < 2 ^ f.m then q2 else ((t2 + f.m + f.bias).toNat - 1) * 2 ^ f.m + q2
  let top := match f.special with
    | .ieee => (2 ^ f.e - 1) * 2 ^ f.m
    | .oneNan => 2 ^ (f.e + f.m) - 1
    | .finite => 2 ^ (f.e + f.m)
  if top ≤ bits then f.overflow rm neg
  else (f.signBit neg + bits, if r = 0 then 0 else if tiny then Fl.unf ||| Fl.nx else Fl.nx)

/-- NV for a signalling operand. -/
def sigFlag (b : Bool) : Fl := if b then Fl.nv else 0

/-- Round a value, or convert a special one (R88, R126). -/
def Fmt.ofVal (f : Fmt) (rm : Rm) (v : FVal) : FRes :=
  match v with
  | .nan s => (f.nan, if f.special = .finite then Fl.nv else sigFlag s)
  | .inf neg => if f.special = .ieee then (f.inf neg, 0) else (f.maxFin neg, Fl.nv)
  | .fin neg m e => f.round rm neg m 1 e

/-! ## Arithmetic (R88, R91) -/

def FVal.neg : FVal → FVal
  | .nan s => .nan s
  | .inf n => .inf (!n)
  | .fin n m e => .fin (!n) m e

def FVal.isSig : FVal → Bool
  | .nan s => s
  | _ => false

def FVal.isNan : FVal → Bool
  | .nan _ => true
  | _ => false

/-- A signed integer times 2^e. -/
def signedOf (neg : Bool) (m : Nat) (e emin : Int) : Int :=
  let k : Int := (m * 2 ^ (e - emin).toNat : Nat)
  if neg then -k else k

/-- The exact sum of two finite values; an exact zero of opposite signs is +0, or -0 in RDN. -/
def FVal.addFin (rm : Rm) (an : Bool) (am : Nat) (ae : Int) (bn : Bool) (bm : Nat) (be : Int) : FVal :=
  let e := min ae be
  let k := signedOf an am ae e + signedOf bn bm be e
  if k = 0 then .fin (if an = bn then an else rm == .rdn) 0 0 else .fin (k < 0) k.natAbs e

/-- A sum with the flags of its special cases. -/
def FVal.add (rm : Rm) (a b : FVal) : FVal × Fl :=
  match a, b with
  | .nan s, y => (.nan false, sigFlag (s || y.isSig))
  | x, .nan s => (.nan false, sigFlag (s || x.isSig))
  | .inf n, .inf k => if n = k then (.inf n, 0) else (.nan false, Fl.nv)
  | .inf n, _ => (.inf n, 0)
  | _, .inf n => (.inf n, 0)
  | .fin an am ae, .fin bn bm be => (FVal.addFin rm an am ae bn bm be, 0)

def FVal.mul (a b : FVal) : FVal × Fl :=
  match a, b with
  | .nan s, y => (.nan false, sigFlag (s || y.isSig))
  | x, .nan s => (.nan false, sigFlag (s || x.isSig))
  | .inf n, .inf k => (.inf (n != k), 0)
  | .inf n, .fin k m _ => if m = 0 then (.nan false, Fl.nv) else (.inf (n != k), 0)
  | .fin k m _, .inf n => if m = 0 then (.nan false, Fl.nv) else (.inf (n != k), 0)
  | .fin an am ae, .fin bn bm be => (.fin (an != bn) (am * bm) (ae + be), 0)

/-- Round a value that already carries flags. -/
def Fmt.finish (f : Fmt) (rm : Rm) (v : FVal × Fl) : FRes :=
  let r := f.ofVal rm v.1
  (r.1, r.2 ||| v.2)

def fAdd (f : Fmt) (rm : Rm) (a b : Nat) : FRes := f.finish rm (FVal.add rm (f.val a) (f.val b))
def fSub (f : Fmt) (rm : Rm) (a b : Nat) : FRes := f.finish rm (FVal.add rm (f.val a) (f.val b).neg)
def fMul (f : Fmt) (rm : Rm) (a b : Nat) : FRes := f.finish rm (FVal.mul (f.val a) (f.val b))

/-- a * b + c with one rounding; 0 * inf gives NV whatever c holds (R91). `negProd` negates the product. -/
def fFma (f : Fmt) (rm : Rm) (negProd : Bool) (a b c : Nat) : FRes :=
  let p := FVal.mul (f.val a) (f.val b)
  let p := if negProd then (p.1.neg, p.2) else p
  let s := FVal.add rm p.1 (f.val c)
  f.finish rm (s.1, s.2 ||| p.2)

def fDiv (f : Fmt) (rm : Rm) (a b : Nat) : FRes :=
  match f.val a, f.val b with
  | .nan s, y => f.finish rm (.nan false, sigFlag (s || y.isSig))
  | x, .nan s => f.finish rm (.nan false, sigFlag (s || x.isSig))
  | .inf _, .inf _ => f.finish rm (.nan false, Fl.nv)
  | .inf n, .fin k _ _ => f.finish rm (.inf (n != k), 0)
  | .fin n _ _, .inf k => (f.zero (n != k), 0)
  | .fin an am ae, .fin bn bm be =>
    if bm = 0 then
      (if am = 0 then f.finish rm (.nan false, Fl.nv) else f.finish rm (.inf (an != bn), Fl.dz))
    else f.round rm (an != bn) am bm (ae - be)

/-- The integer square root, from bit k - 1 down. -/
def isqrtFrom (n : Nat) : Nat → Nat → Nat
  | 0, r => r
  | k + 1, r => isqrtFrom n k (if (r + 2 ^ k) * (r + 2 ^ k) ≤ n then r + 2 ^ k else r)

def isqrt (n : Nat) : Nat := isqrtFrom n (Nat.log2 n / 2 + 1) 0

/-- The square root of m * 2^e with `k` extra bits, as a number times a power of two whose last bit is sticky. -/
def sqrtVal (m : Nat) (e : Int) (k : Nat) : Nat × Int :=
  let (m, e) := if e % 2 = 0 then (m, e) else (2 * m, e - 1)
  let n := m * 2 ^ (2 * k)
  let r := isqrt n
  (2 * r + (if r * r = n then 0 else 1), e / 2 - k - 1)

def fSqrt (f : Fmt) (rm : Rm) (a : Nat) : FRes :=
  match f.val a with
  | .nan s => f.finish rm (.nan false, sigFlag s)
  | .inf n => if n then f.finish rm (.nan false, Fl.nv) else f.finish rm (.inf false, 0)
  | .fin n m e =>
    if m = 0 then (f.zero n, 0)
    else if n then f.finish rm (.nan false, Fl.nv)
    else
      let r := sqrtVal m e (f.m + 4)
      f.round rm false r.1 1 r.2

/-! ## Comparison, minimum, maximum, class (R92-R94) -/

/-- Compare two values that are no NaN; both zeros are equal. -/
def FVal.lt (a b : FVal) : Bool :=
  match a, b with
  | .nan _, _ => false
  | _, .nan _ => false
  | .inf n, .inf k => n && !k
  | .inf n, .fin .. => n
  | .fin .., .inf k => !k
  | .fin an am ae, .fin bn bm be => let e := min ae be; signedOf an am ae e < signedOf bn bm be e

def FVal.eq (a b : FVal) : Bool :=
  match a, b with
  | .nan _, _ => false
  | _, .nan _ => false
  | .inf n, .inf k => n == k
  | .fin an am ae, .fin bn bm be => let e := min ae be; signedOf an am ae e == signedOf bn bm be e
  | _, _ => false

def FVal.negative : FVal → Bool
  | .nan _ => false
  | .inf n => n
  | .fin n _ _ => n

/-- minimumNumber or maximumNumber (R92): -0 is less than +0; the first of two equal values is kept. -/
def fMinMax (f : Fmt) (isMax : Bool) (a b : Nat) : FRes :=
  let x := f.val a
  let y := f.val b
  let fl := sigFlag (x.isSig || y.isSig)
  if x.isNan && y.isNan then (f.nan, fl)
  else if x.isNan then (b, fl)
  else if y.isNan then (a, fl)
  else
    let yLess := y.lt x || (x.eq y && !x.negative && y.negative)
    let xLess := x.lt y || (x.eq y && x.negative && !y.negative)
    if isMax then (if xLess then b else a, 0) else (if yLess then b else a, 0)

def fCmp (f : Fmt) (cc : FCc) (a b : Nat) : Bool × Fl :=
  let x := f.val a
  let y := f.val b
  let sg := sigFlag (x.isSig || y.isSig)
  let qn := sigFlag (x.isNan || y.isNan)
  match cc with
  | .eq => (x.eq y, sg)
  | .lt => (x.lt y, qn)
  | .le => (x.lt y || x.eq y, qn)
  | .un => (x.isNan || y.isNan, sg)

def fClass (f : Fmt) (a : Nat) : Nat :=
  let sub := fun m => m < 2 ^ f.m
  match f.val a with
  | .nan s => if s then 2 ^ 8 else 2 ^ 9
  | .inf n => if n then 1 else 2 ^ 7
  | .fin n m _ =>
    if m = 0 then (if n then 2 ^ 3 else 2 ^ 4)
    else if sub m then (if n then 2 ^ 2 else 2 ^ 5)
    else (if n then 2 ^ 1 else 2 ^ 6)

/-! ## Conversion (R95, R122, R126) -/

/-- Float to float. A NaN source becomes the default NaN (R88, R126). -/
def fToF (src dst : Fmt) (rm : Rm) (a : Nat) : FRes := dst.ofVal rm (src.val a)

/-- An integer to a format. -/
def fOfInt (dst : Fmt) (rm : Rm) (k : Int) : FRes := dst.round rm (k < 0) k.natAbs 1 0

/-- A value rounded to an integer and saturated to lo..hi (R95). -/
def fToInt (src : Fmt) (rm : Rm) (lo hi : Int) (a : Nat) : Int × Fl :=
  match src.val a with
  | .nan _ => (0, Fl.nv)
  | .inf n => (if n then lo else hi, Fl.nv)
  | .fin n m e =>
    let (q, r, d) := scaled m 1 e
    let q1 := if roundsUp rm n q r d then q + 1 else q
    let k : Int := if n then -(q1 : Int) else q1
    if k < lo then (lo, Fl.nv) else if hi < k then (hi, Fl.nv) else (k, if r = 0 then 0 else Fl.nx)

/-- An integer saturated to lo..hi, with NV when it saturates. -/
def satInt (lo hi k : Int) : Int × Fl := if k < lo then (lo, Fl.nv) else if hi < k then (hi, Fl.nv) else (k, 0)

/-! ## Special functions (R96, R167)

Each is computed as a rational number close to the exact value, rounded towards zero, and moved by the free value
`Config.ulpPick` among the neighbours that the error bound allows; log entry 13. -/

/-- Fixed-point precision of the approximations. -/
def fxp : Nat := 320

/-- The encoding `k` steps from a finite encoding, away from zero for k > 0; it stays finite, and keeps its sign. -/
def Fmt.step (f : Fmt) (b : Nat) (k : Int) : Nat :=
  let mag : Int := (b % 2 ^ (f.e + f.m) : Nat)
  let top : Int := (f.maxFin false : Nat)
  f.signBit (b / 2 ^ (f.e + f.m) % 2 == 1) + (max 0 (min top (mag + k))).toNat

/-- An inexact result near n/d * 2^e within `ulp` units (1 or 2) for function number `fnum` at operand `a`. A unit is a step of the encoding
from the exact value rounded towards zero, also across a power of two (DESIGN CHOICE, log entry 78). -/
def near (f : Fmt) (fnum ulp a : Nat) (neg : Bool) (n d : Nat) (e : Int) : FRes :=
  let r := f.round .rtz neg n d e
  let t := f.round .rne neg n d e
  let pick := Config.ulpPick fnum f.width a
  let k : Int := if ulp = 1 then pick % 2 else pick % 4 - 1
  if t.2 &&& Fl.ovf ≠ 0 then (f.inf neg, Fl.ovf ||| Fl.nx)
  else (f.step r.1 k, if t.2 &&& Fl.unf ≠ 0 then Fl.unf ||| Fl.nx else Fl.nx)

/-- 2^(i/2^(k+1)) factors: the fixed-point product over the bits of a fraction, `c` the square root for the current bit. -/
def exp2Loop : Nat → Nat → Nat → Nat → Nat
  | 0, _, _, acc => acc
  | k + 1, fr, c, acc =>
    let c' := isqrt (c * 2 ^ fxp)
    exp2Loop k fr c' (if fr / 2 ^ k % 2 = 1 then acc * c' / 2 ^ fxp else acc)

/-- 2^(fr / 2^128) in fixed point. -/
def exp2Fix (fr : Nat) : Nat := exp2Loop 128 fr (2 * 2 ^ fxp) (2 ^ fxp)

def fExp2 (f : Fmt) (a : Nat) : FRes :=
  match f.val a with
  | .nan s => f.finish .rne (.nan false, sigFlag s)
  | .inf n => if n then (f.zero false, 0) else f.finish .rne (.inf false, 0)
  | .fin n m e =>
    if m = 0 then f.round .rne false 1 1 0
    else if 0 ≤ floorLog m 1 + e ∧ 20 ≤ floorLog m 1 + e then
      (if n then near f 2 1 a false 1 1 (-(2 ^ 20)) else f.overflow .rne false)
    else
      let (q, r, d) := scaled m 1 e
      if r = 0 then
        let x := f.round .rne false 1 1 (if n then -(q : Int) else q)
        if x.2 = 0 then x else near f 2 1 a false 1 1 (if n then -(q : Int) else q)
      else
        let fr0 := r * 2 ^ 128 / d
        let (i, fr) : Int × Nat := if n then (-(q : Int) - 1, 2 ^ 128 - 1 - fr0) else (q, fr0)
        near f 2 1 a false (exp2Fix fr + 1) (2 ^ fxp) i

/-- Binary digits of log2 of a fixed-point number in [1, 2), by squaring. -/
def log2Loop : Nat → Nat → Nat → Nat
  | 0, _, acc => acc
  | k + 1, x, acc =>
    let y := x * x / 2 ^ fxp
    if 2 * 2 ^ fxp ≤ y then log2Loop k (y / 2) (2 * acc + 1) else log2Loop k y (2 * acc)

def fLog2 (f : Fmt) (a : Nat) : FRes :=
  match f.val a with
  | .nan s => f.finish .rne (.nan false, sigFlag s)
  | .inf n => if n then f.finish .rne (.nan false, Fl.nv) else f.finish .rne (.inf false, 0)
  | .fin n m e =>
    if m = 0 then f.finish .rne (.inf true, Fl.dz)
    else if n then f.finish .rne (.nan false, Fl.nv)
    else
      let k := Nat.log2 m
      let i : Int := k + e
      if m = 2 ^ k then fOfInt f .rne i
      else
        let fr := log2Loop 150 (m * 2 ^ fxp / 2 ^ k) 0
        let tot : Int := i * 2 ^ 150 + fr
        near f 3 1 a (tot < 0) (2 * tot.natAbs + 1) 2 (-150)

def fRcp (f : Fmt) (a : Nat) : FRes :=
  match f.val a with
  | .nan s => f.finish .rne (.nan false, sigFlag s)
  | .inf n => (f.zero n, 0)
  | .fin n m e =>
    if m = 0 then f.finish .rne (.inf n, Fl.dz)
    else
      let x := f.round .rne n 1 m (-e)
      if m = 2 ^ Nat.log2 m ∧ x.2 = 0 then x
      else if x.2 &&& Fl.ovf ≠ 0 then (f.inf n, Fl.ovf ||| Fl.nx)
      else near f 4 1 a n 1 m (-e)

def fRsq (f : Fmt) (a : Nat) : FRes :=
  match f.val a with
  | .nan s => f.finish .rne (.nan false, sigFlag s)
  | .inf n => if n then f.finish .rne (.nan false, Fl.nv) else (f.zero false, 0)
  | .fin n m e =>
    if m = 0 then f.finish .rne (.inf n, Fl.dz)
    else if n then f.finish .rne (.nan false, Fl.nv)
    else
      let r := sqrtVal m e 200
      if m = 2 ^ Nat.log2 m ∧ ((Nat.log2 m : Int) + e) % 2 = 0 then f.round .rne false 1 1 (-(((Nat.log2 m : Int) + e) / 2))
      else near f 5 1 a false 1 r.1 (-r.2)

/-- pi / 2 in fixed point, from Machin's formula: 16 arctan(1/5) - 4 arctan(1/239), each by its series. -/
def arctanInv (q : Nat) : Nat → Nat → Nat → Int → Int
  | 0, _, _, acc => acc
  | k + 1, t, i, acc =>
    arctanInv q k (t / (q * q)) (i + 1) (acc + (if i % 2 = 0 then ((t / (2 * i + 1) : Nat) : Int) else -((t / (2 * i + 1) : Nat) : Int)))

def halfPi : Nat := ((16 * arctanInv 5 150 (2 ^ fxp / 5) 0 0 - 4 * arctanInv 239 50 (2 ^ fxp / 239) 0 0) / 2).toNat

/-- The series of sine (odd) or cosine of a fixed-point angle below pi/2: terms t, t*y2/((i+1)(i+2)), with alternating signs. -/
def trigSeries (y2 : Nat) : Nat → Nat → Nat → Bool → Int → Int
  | 0, _, _, _, acc => acc
  | k + 1, t, i, pos, acc =>
    trigSeries y2 k (t * y2 / 2 ^ fxp / ((i + 1) * (i + 2))) (i + 2) (!pos) (acc + (if pos then (t : Int) else -(t : Int)))

/-- sin (or cos) of (-1)^n * m * 2^e for a nonzero magnitude at most 2^16, as a signed fixed-point number. -/
def trig (cos n : Bool) (m : Nat) (e : Int) : Int :=
  let x := (scaled m 1 (e + fxp)).1
  let q := x / halfPi
  let y := x % halfPi
  let y2 := y * y / 2 ^ fxp
  let sinv := trigSeries y2 45 y 1 true 0
  let cosv := trigSeries y2 45 (2 ^ fxp) 0 true 0
  let k := (q + (if cos then 1 else 0)) % 4
  let v := if k % 2 = 0 then sinv else cosv
  let v := if 2 ≤ k then -v else v
  if n && !cos then -v else v

/-- FSIN and FCOS (R96). -/
def fTrig (f : Fmt) (cos : Bool) (a : Nat) : FRes :=
  match f.val a with
  | .nan s => f.finish .rne (.nan false, sigFlag s)
  | .inf _ => f.finish .rne (.nan false, Fl.nv)
  | .fin n m e =>
    if m = 0 then (if cos then f.round .rne false 1 1 0 else (f.zero n, 0))
    else if 17 ≤ floorLog m 1 + e ∨ (floorLog m 1 + e = 16 ∧ m ≠ 2 ^ Nat.log2 m) then f.finish .rne (.nan false, Fl.nv)
    else if floorLog m 1 + e < -80 then
      (if cos then near f 1 2 a false (2 ^ 200 - 1) (2 ^ 200) 0 else near f 0 2 a n (m * 2 ^ 150 - 1) (2 ^ 150) e)
    else
      let v := trig cos n m e
      near f (if cos then 1 else 0) 2 a (v < 0) (2 * v.natAbs + 1) (2 * 2 ^ fxp) 0

end Sys2Proof.Machine
end

