-- ==== Sys2Proof/Machine/Access.lean ====
section
/-!
DEFINITION. Accesses of a strand: the checks at issue (R247-R249, R259, R240), the issue of an access (R220, R228-R231), its
performance at its owner (R250, R264-R267), the store queue (R225), the holding buffer (R190, R191), and the side log (R266-R268).
-/
namespace Sys2Proof.Machine

open Sys2Proof

/-! ## Event counters (R422) -/

/-- An event occurs n times: the counters of core eid that select it advance; `who` are the strands concerned, none where the event has no
strand. -/
def State.countFor (s : State) (eid code n : Nat) (who : Option (List Nat)) : State :=
  let c := s.core eid
  if (List.range 8).all (fun i => field (c.evsel.getD i 0) 0 8 != code) then s
  else
    let hit := fun (i : Nat) =>
      let e := c.evsel.getD i 0
      field e 0 8 == code && (match who with
        | none => true
        | some l => l.any fun k => (field e 8 4 == 0 || e.getLsbD (8 + k % 4)) && (!e.getLsbD 12 || (s.strand k).arch.prv == 0))
    let evc : Vector Word 8 := Vector.ofFn fun i => if hit i.val then c.evc[i.val] + BitVec.ofNat 64 n else c.evc[i.val]
    s.setCore eid { c with evc := evc }

/-- An event of one strand, or of none. -/
def State.count (s : State) (eid code n : Nat) (sid : Option Nat) : State := s.countFor eid code n (sid.map fun k => [k])

/-! ## Pieces -/

/-- Cut n bytes from g into pieces that lie each in one 128-byte line; `fuel` bounds their number. -/
def cut (g : Word) (n : Nat) : Nat → List Piece
  | 0 => []
  | fuel + 1 =>
    let room := 128 - field g 0 7
    if n = 0 then []
    else if n ≤ room then [{ gva := g, len := n, nib := none }]
    else { gva := g, len := room, nib := none } :: cut (g + BitVec.ofNat 64 room) (n - room) fuel

/-- The pieces of n bytes from g. -/
def pieces (g : Word) (n : Nat) : List Piece := cut g n (n / 128 + 2)

/-- The bits of data that a piece carries. -/
def Piece.bits (p : Piece) : Nat := if p.nib.isSome then 4 else 8 * p.len

def pieceBytes (p : Piece) : List Nat := (List.range p.len).map fun i => (p.gva + BitVec.ofNat 64 i).toNat

/-- Do two pieces share a byte? -/
def Piece.meets (p q : Piece) : Bool :=
  (q.gva - p.gva).toNat < p.len || (p.gva - q.gva).toNat < q.len

def meetsAny (a b : List Piece) : Bool := a.any fun p => b.any fun q => p.meets q

/-! ## Checks at issue (R248) -/

/-- A cause found at issue: rank, code, EVAL. -/
structure Cause where
  rank : Nat
  code : Nat
  eval : Word
  deriving DecidableEq, Repr

/-- May a strand at this level access a GVA at all (R208, R209)? `reg` allows a control register. -/
def gvaAllowed (user reg : Bool) (g : Word) : Bool :=
  if isDevice g then
    !user && (match device g with
      | .sram .. => true
      | .control .. => reg
      | _ => false)
  else true

/-- The last of n bytes. -/
def lastByte (g : Word) (n : Nat) : Word := g + BitVec.ofNat 64 (n - 1)

/-- Is a row of n bytes refused at issue (R2, R208, R209, R433): at its first byte or at its last? -/
def State.rowBarred (s : State) (user reg : Bool) (n : Nat) (g : Word) : Bool :=
  [g, lastByte g n].any fun h => !gvaAllowed user reg h || s.barred (s.eid / 4096) (gvaDie h)

/-- A locked byte of a piece (R240): loads meet destination ranges, writes meet all. -/
def lockedAt (locks : Map RLock) (wr : Bool) (p : Piece) : Option Word :=
  ((List.range p.len).map fun i => p.gva + BitVec.ofNat 64 i).find? fun g =>
    locks.any fun (_, l) => (wr || l.dst) && l.first.toNat ≤ g.toNat && g.toNat ≤ l.last.toNat

/-- The checks of ranks 5 to 8 on an access whose rows start at `rows`, each `rlen` bytes, aligned to `al`; `wr` a write,
`reg` a plain 8-byte LD or ST, `route` whether the plane carries it (R259). -/
def State.check (s : State) (rows : List Word) (rlen al : Nat) (wr reg route : Bool) (locks : Bool) : Option Cause :=
  let user := s.arch.prv == 0
  match rows.find? (s.rowBarred user reg rlen) with
  | some g => some { rank := 5, code := cAccess, eval := g }
  | none =>
    match rows.find? fun g => g.toNat % al != 0 || gvaDie g != gvaDie (lastByte g rlen) with
    | some g => some { rank := 6, code := cAlignment, eval := g }
    | none =>
      match rows with
      | [] => none
      | g :: _ =>
        if !route then some { rank := 7, code := cAtomicRoute, eval := g }
        else if !locks then none
        else
          ((rows.flatMap fun g => pieces g rlen).findSome? (lockedAt (s.tile (s.eid / 2)).locks wr)).map
            fun g => { rank := 8, code := cRangeLock, eval := g }

/-! ## The store queue and the holding buffer -/

/-- The i-th byte of a number. -/
def nthByte (v i : Nat) : Byte := BitVec.ofNat 8 (v / 256 ^ i)

/-- No bits of a byte, and all of them. -/
def Part.none : Part := (0, 0)
def Part.whole (b : Byte) : Part := (0xFF, b)

/-- Newer bits of a byte over older ones. -/
def Part.on (new old : Part) : Part := (new.1 ||| old.1, (new.2 &&& new.1) ||| (old.2 &&& old.1 &&& ~~~new.1))

/-- The bits of a byte that a sub-byte element takes, or all (R123). -/
def nibMask : Option Bool → Byte
  | Option.none => 0xFF
  | some false => 0x0F
  | some true => 0xF0

/-- What a store of one piece puts into its o-th byte. -/
def Piece.part (p : Piece) (data o : Nat) : Part :=
  (nibMask p.nib, match p.nib with
    | Option.none => nthByte data o
    | some false => BitVec.ofNat 8 (data % 16)
    | some true => BitVec.ofNat 8 (data % 16 * 16))

/-- What a store of these pieces and this data writes of address g; a later row is written over an earlier one (R253). -/
def storePart (ps : List Piece) (data : Nat) (g : Nat) : Part :=
  match ps with
  | [] => Part.none
  | p :: r =>
    let o := (BitVec.ofNat 64 g - p.gva).toNat
    (storePart r (data / 2 ^ p.bits) g).on (if o < p.len then p.part data o else Part.none)

def Acc.isStore (a : Acc) : Bool :=
  match a.op with
  | .store _ => true
  | .amo _ _ _ r => r
  | .flush => true
  | _ => false

def Acc.isLoad (a : Acc) : Bool :=
  match a.op with
  | .load _ => true
  | .amo .. => true
  | _ => false

/-- The accesses of the core that issued before one. -/
def olderAccs (l : List Acc) (id : Nat) : List Acc := l.takeWhile fun a => a.id != id

/-- What a side-log entry holds of address g (R267); a reduction holds no value, and a refused store writes nothing. -/
def SideEntry.part (e : SideEntry) (g : Nat) : Part :=
  let o := (BitVec.ofNat 64 g - e.line).toNat
  if o < 128 && e.mask.getLsbD o && e.red.isNone && !e.denied then
    (nibMask e.nib, nthByte e.data.toNat o) else Part.none

/-- Does a side-log entry touch a byte of a piece? -/
def SideEntry.touches (e : SideEntry) (p : Piece) : Bool :=
  (pieceBytes p).any fun g => let o := (BitVec.ofNat 64 g - e.line).toNat; o < 128 && e.mask.getLsbD o

/-- What the stores of the queue `q`, oldest first, and the side log hold of address g (R225, R267). Side-log entries are older than
every store still in the queue. -/
def queuePart (q : List Acc) (side : List SideEntry) (g : Nat) : Part :=
  q.foldl (fun b a => match a.op with
    | .store d => (storePart a.pieces d g).on b
    | _ => b) (side.foldl (fun b e => (e.part g).on b) Part.none)

/-- What held stores hold of address g, the newest first (R191). -/
def heldPart (l : List Held) (g : Nat) : Part :=
  l.foldl (fun best h =>
    let o := (BitVec.ofNat 64 g - h.gva).toNat
    if o < 16 && h.mask.getLsbD o then Part.on (nibMask h.nib, nthByte h.data.toNat o) best else best) Part.none

/-- The data of a piece with a sub-byte value in its place in the byte. -/
def Piece.bytes (p : Piece) (data : Nat) : Nat :=
  match p.nib with
  | Option.none => data % 256 ^ p.len
  | some false => data % 16
  | some true => data % 16 * 16

/-- The granules that a store enters into the holding buffer: one entry for each 16 bytes that each piece touches (R190). -/
def heldOf (ps : List Piece) (data : Nat) (rel : Bool) (asid : BitVec 16) (wld : Bool) : List Held :=
  match ps with
  | [] => []
  | p :: r =>
    let base := field p.gva 0 4
    let n := (base + p.len + 15) / 16
    let here := (List.range n).map fun k =>
      let g := p.gva - BitVec.ofNat 64 base + BitVec.ofNat 64 (16 * k)
      let idx := (List.range 16).map fun i => (16 * k + i, i)
      let m := idx.foldl (fun acc (j, i) => if base ≤ j && j < base + p.len then acc + 2 ^ i else acc) 0
      let d := idx.foldl (fun acc (j, i) =>
        if base ≤ j && j < base + p.len then acc + (nthByte (p.bytes data) (j - base)).toNat * 256 ^ i else acc) 0
      { gva := g, mask := BitVec.ofNat 16 m, data := BitVec.ofNat 128 d, rel := rel, asid := asid, wld := wld, size := p.len,
        nib := p.nib, sure := false : Held }
    here ++ heldOf r (data / 2 ^ p.bits) rel asid wld

/-! ## Issue of an access -/

/-- Does a piece lie in the SRAM of the issuing core's own tile (R220)? -/
def State.ownTile (s : State) (eid : Nat) (asid : BitVec 16) (p : Piece) : Bool :=
  if isDevice p.gva then
    (match device p.gva with
     | .sram c t _ => gvaDie p.gva * 256 + c * 16 + t == eid / 2
     | _ => false)
  else
    match (s.findPage asid p.gva).2 with
    | none => false
    | some q => (match s.pagePlace q p.gva with
      | some pl => pl.tileNo == some (eid / 2)
      | none => false)

/-- Lines beyond the own tile that the pieces touch (R220). -/
def State.linesOf (s : State) (eid : Nat) (asid : BitVec 16) (ps : List Piece) : Nat :=
  ((ps.filter fun p => !s.ownTile eid asid p).map fun p => p.gva.toNat / 128).eraseDups.length

/-- Miss registers in use, by the core and by one strand (R220). -/
def missUsed (l : List Acc) : Nat := l.foldl (fun n a => n + a.lines) 0
def missOf (l : List Acc) (snum : Nat) : Nat := l.foldl (fun n a => if a.snum = snum then n + a.lines else n) 0

/-- Lines of the join decrements that strands of the core wait for (R220). -/
def State.askLines (s : State) (eid : Nat) : Nat := [0, 1, 2, 3].foldl (fun n i => match (s.strand (4 * eid + i)).ask with
  | some k => if k.reply.isNone then n + s.linesOf eid (s.core eid).asid (pieces k.target 8) else n
  | none => n) 0

/-- Are n miss registers free for a strand: of 64, and of 48 while another strand is READY or BLOCKED on memory? A unit that needs
more than there are goes on once all 64 are free (log entry 15). -/
def State.missFree (s : State) (sid n : Nat) : Bool :=
  let l := (s.core (sid / 4)).accs
  let busy := ([0, 1, 2, 3].map (sid / 4 * 4 + ·)).any fun o => o != sid &&
    ((s.strand o).st == .ready || ((s.strand o).st == .blocked && (match (s.strand o).wait with
      | .result _ => true
      | .retry => true
      | .miss => true
      | _ => false)))
  missUsed l + s.askLines (sid / 4) + min n 64 ≤ 64 && (!busy || missOf l (sid % 4) + n ≤ 48 || (48 < n && missOf l (sid % 4) == 0))

/-- The unit waits, as a load wait, and tries again when something of the core has been performed (R220). -/
def State.retry (s : State) : State := s.waits.modCur fun k => { k with wait := .retry }

/-- The unit waits for a miss register, or on a full holding buffer or for a FREE guard slot (R422), and tries again as others do. -/
def State.missWait (s : State) : State := s.waits.modCur fun k => { k with wait := .miss }
def State.fullWait (s : State) : State := s.waits.modCur fun k => { k with wait := .full }

/-- Does a wait end when something of the core has been performed? -/
def Wait.again : Wait → Bool
  | .retry => true
  | .miss => true
  | .full => true
  | _ => false

/-- Does the strand drain stores of a confirmed path (R195)? -/
def State.draining (s : State) : Bool := s.cur.hold.any fun (h : Held) => h.sure

/-- What a load takes from the strand's held stores (R191, R195). -/
def State.fromHeld (s : State) (ps : List Piece) : List (Nat × Part) :=
  if s.cur.hold.isEmpty then []
  else ps.flatMap fun p => (pieceBytes p).filterMap fun g =>
    let b := heldPart s.cur.hold g
    if b.1 = 0 then Option.none else some (g, b)

/-- The bits that an overlay gives of address g. -/
def overPart (l : List (Nat × Part)) (g : Nat) : Part :=
  match l.find? fun q => q.1 == g with
  | some q => q.2
  | Option.none => Part.none

/-- Does an overlay give every bit of the pieces? -/
def overAll (l : List (Nat × Part)) (ps : List Piece) : Bool :=
  ps.all fun p => (pieceBytes p).all fun g => nibMask p.nib &&& ~~~(overPart l g).1 == 0

/-- Does a fence of the strand, or an access to a control page, that is not performed yet hold back a later load (`load`), or a later
store, command, message or contribution (R230, R246, R260)? -/
def State.fenced (s : State) (load : Bool) : Bool :=
  s.curCore.accs.any fun (o : Acc) => o.snum == s.snum && (o.strong || (match o.op with
    | .fence _ .acq => true
    | .fence _ .rel => !load
    | .fence _ .ar => true
    | _ => false))

/-- Where the result of a load goes: the results that wait for it. -/
def LdDst.regs : LdDst → List Reg
  | .none => []
  | .x r => [.x r]
  | .pair r => pairRegs r
  | .v r => [.v r]
  | .m r => [.m r]
  | .refill => []

/-- Set off an access of the unit in hand. `keep` are the bits that a vector load leaves. -/
def State.sendAcc (s : State) (op : AccOp) (ps : List Piece) (acq rel strong inv : Bool) (overlay : List (Nat × Part))
    (keep : VecVal) : State :=
  let id := s.fresh + 1
  let c := s.curCore
  let a : Acc := { id := id, snum := s.snum, op := op, pieces := ps, asid := c.asid, wld := s.arch.wld, user := s.arch.prv == 0,
                   acq := acq, rel := rel, strong := strong, lines := s.linesOf s.eid c.asid ps, held := false, overlay := overlay,
                   bad := Option.none, inv := inv, drops := [] }
  let regs := match op with
    | .load d => d.regs
    | .amo _ _ d _ => d.regs
    | _ => []
  let s := { s with fresh := id }
  let s := s.modCore s.eid fun c => { c with accs := c.accs ++ [a] }
  (regs.foldl (fun s r => s.wlater r keep id) s).later (.accessPerformed s.eid id)

/-- Is a unit's access a cluster control register's (R209, R246)? -/
def strongAccess (ps : List Piece) : Bool := ps.any fun p => isDevice p.gva && (match device p.gva with
  | .control .. => true
  | _ => false)

/-- The key of a cached page's place in a package, where a die may keep a line under the promise of an invariant load (R237). -/
def invKey (from_ : Nat) (p : Place) : Option Nat :=
  match p with
  | .hbm d _ true => if d / 8 = from_ / 128 then some (p.key 0) else none
  | _ => none

/-- The place of a piece that a die keeps for an invariant load of core eid: its job and its key. -/
def State.invPlace (s : State) (eid : Nat) (asid : BitVec 16) (wld : Bool) (p : Piece) : Option (Nat × Nat × Place) :=
  match (s.resolve (eid / 32) asid wld false p.gva).2.2, (s.core eid).job with
  | .at_ q, some j => (invKey (eid / 32) q).map fun key => (j, key, q)
  | _, _ => none

/-- The values that a die keeps of a place for a job, and one more. -/
def State.keptOf (s : State) (eid j key len : Nat) : List Nat :=
  ((s.die (eid / 512)).kept.filter fun (k : Kept) => k.job == j && k.key == key && k.len == len).map fun k => k.val
def State.keepVal (s : State) (eid j key len v : Nat) : State :=
  if (s.keptOf eid j key len).contains v then s
  else s.modDie (eid / 512) fun k => { k with kept := k.kept ++ [{ job := j, key := key, len := len, val := v }] }

/-- An invariant load issues: its promise holds from then on, for the values that its places have then (R237). -/
def State.promise (s : State) (ps : List Piece) : State :=
  ps.foldl (fun s p => match s.invPlace s.eid s.curCore.asid s.arch.wld p with
    | some (j, key, q) => s.keepVal s.eid j key p.len (s.readAt q p.len)
    | none => s) s

/-- Issue a load: its bytes come first from the strand's held stores (R191). While those of a confirmed path drain, a load that they
do not cover whole is ordered after them (R195). -/
def State.issueLoad (s : State) (dst : LdDst) (ps : List Piece) (acq inv : Bool) (keep : VecVal) : State :=
  if s.fenced true || s.draining && !overAll (s.fromHeld ps) ps then s.retry
  else if !s.missFree s.unit.sid (s.linesOf s.eid s.curCore.asid ps) then s.missWait
  else (if inv then s.promise ps else s).sendAcc (.load dst) ps acq false (strongAccess ps) inv (s.fromHeld ps) keep

/-- Issue a store: under run-ahead it enters the holding buffer, whole or not at all (R190). -/
def State.issueStore (s : State) (ps : List Piece) (data : Nat) (rel : Bool) : State :=
  if s.arch.ahead then
    let h := heldOf ps data rel s.curCore.asid s.arch.wld
    if s.cur.hold.length + h.length ≤ 64 then s.modCur fun k => { k with hold := k.hold ++ h } else s.fullWait
  else if s.draining || s.fenced false then s.retry
  else if !s.missFree s.unit.sid (s.linesOf s.eid s.curCore.asid ps) then s.missWait
  else s.sendAcc (.store data) ps false rel (strongAccess ps) false [] 0

/-- Issue an atomic (R255-R258); it waits until the core's stores to any of its bytes have left the queue. A reduction of a region in
the side log follows the entries there without being sent (R267). -/
def State.issueAmo (s : State) (op : AmoOp) (y : Nat) (dst : LdDst) (ps : List Piece) (acq rel reduction : Bool) : State :=
  let clash := s.curCore.accs.any (fun a => a.isStore && meetsAny a.pieces ps) ||
    !reduction && s.curCore.side.any fun e => ps.any e.touches
  if s.draining || s.fenced false || s.fenced true || clash then s.retry
  else if !s.missFree s.unit.sid (s.linesOf s.eid s.curCore.asid ps) then s.missWait
  else s.sendAcc (.amo op y dst reduction) ps acq rel false false [] 0

/-! ## Order within a strand (R226, R228-R232) -/

/-- Is a scope no wider than the die, where a store stands once its own die has written it (R236)? -/
def narrow : Scope → Bool
  | .package => false
  | .system => false
  | _ => true

/-- Has its own die written a store, so that only copies of coherence objects on other dies are left (R236)? -/
def Acc.written (a : Acc) : Bool := a.pieces.isEmpty && !a.drops.isEmpty

/-- Does a fence of this scope wait for an older store? At strand or core scope it is performed when it is in the queue (R230). -/
def fenceWaits (sc : Scope) (o : Acc) : Bool := sc != .strand && sc != .core && !(o.written && narrow sc)

/-- Does an older access of the list hold back the access `a` of the same core? -/
def holdsBack (o a : Acc) : Bool :=
  let same := o.snum == a.snum
  let touch := meetsAny o.pieces a.pieces
  (match o.op with
   | .fence _ k =>
     same && (match k with
       | .acq => true
       | .rel => a.isStore || (match a.op with | .amo .. => true | _ => false)
       | .ar => true)
   | _ =>
     (same && (o.acq || o.strong || a.strong || a.rel)) ||
     (match a.op with
      | .fence sc k => same && (match k with
          | .acq => o.isLoad
          | .rel => o.isLoad || fenceWaits sc o
          | .ar => o.isLoad || fenceWaits sc o)
      | .load _ => touch && same && o.isLoad
      | _ => touch && (o.isStore || same)))

/-- Is a store, or a write that a load has returned, not performed yet at a scope: within its die only (`near`), or everywhere? -/
def State.pending (s : State) (near : Bool) (eid id : Nat) : Bool :=
  let c := s.core eid
  c.accs.any (fun a => a.id == id && !(near && a.written)) || c.side.any fun e => e.id == id

/-- Is there a write that a load of strand sid, issued before `id`, has returned and that is not performed yet at the scope (R231)? -/
def State.seenOpen (s : State) (sid id : Nat) (near : Bool) : Bool :=
  (s.strand sid).seen.any fun (q : Seen) => q.load < id && s.pending near q.eid q.id

/-- Must an access wait for what its strand has observed and posted (R231, R232, R246, R349, R352)? -/
def Acc.releases (a : Acc) : Bool :=
  a.rel || a.strong || (match a.op with
    | .fence _ .rel => true
    | .fence _ .ar => true
    | _ => false)

/-- The scopes up to the die, for a fence; a release store's or atomic's is package or system (R229). -/
def Acc.near (a : Acc) : Bool :=
  match a.op with
  | .fence sc _ => narrow sc
  | _ => false

/-- At core scope a fence waits for nothing that stands in the store queue (R230). -/
def Acc.inCore (a : Acc) : Bool :=
  match a.op with
  | .fence .core _ => true
  | _ => false

/-- Does an operation on a mailbox or buffer that the strand issued before an access, and that touches the same bytes, come first (R226,
R352)? -/
def State.mailFirst (s : State) (eid : Nat) (a : Acc) : Bool :=
  let first := fun (e : Ev) => match e with
    | .mailboxInsert m => m.src == eid && m.ssn == a.snum && m.seq < a.id &&
        a.pieces.any ({ gva := m.addr, len := if field m.opc 0 3 ≤ 2 then 256 else 0x10000, nib := Option.none } : Piece).meets
    | _ => false
  s.flight.any first || s.isHeld first

/-- May an access be performed now: nothing older holds it back, and a release has no side-logged store of its strand before it
(R232), nor a post, clear or ring advance (R349, R352), nor a write that its strand has observed (R231); and no acquire of a mailbox or
buffer before it is still on its way? -/
def State.mayPerform (s : State) (eid : Nat) (a : Acc) : Bool :=
  let c := s.core eid
  let sid := 4 * eid + a.snum
  !((olderAccs c.accs a.id).any fun o => holdsBack o a) && !((s.strand sid).acqs.any (· < a.id)) && !s.mailFirst eid a &&
  !(a.releases && (c.side.any (fun e => e.snum == a.snum && e.id < a.id) || (s.strand sid).owed.any (· < a.id) ||
      !a.inCore && s.seenOpen sid a.id a.near))

/-- Is an access a plain store? -/
def Acc.plainStore (a : Acc) : Bool :=
  match a.op with
  | .store _ => true
  | _ => false

/-- The stores that have entered the core's queue, where the other strands see them (R225), of its accesses in their order: one enters once
every older access that holds it back has entered before it (R226). -/
def State.entered (s : State) (eid : Nat) : List Nat :=
  ((s.core eid).accs.foldl (fun (p : List Nat × List Acc) a =>
    let ok := a.plainStore && !(p.2.any fun o => holdsBack o a && !p.1.contains o.id) &&
      !((s.strand (4 * eid + a.snum)).acqs.any (· < a.id))
    (if ok then p.1 ++ [a.id] else p.1, p.2 ++ [a])) ([], [])).1

/-- The stores that the queue of core eid holds for a read by strand `snum`, numbered `id`: those of its own before it, and the others'
that have entered (R225, R226). -/
def State.queueFor (s : State) (eid snum id : Nat) : List Acc :=
  let l := s.entered eid
  (s.core eid).accs.filter fun o => o.plainStore && (if o.snum = snum then o.id < id else l.contains o.id)

/-! ## Performing at the owner -/

/-- What came of a piece or of an access. -/
inductive Got where
  | value (v : Nat)
  | unmapped (g : Word)
  | denied (g : Word)
  | poison (g : Word)
  | wait
  deriving DecidableEq, Repr

/-! ## Control registers (R134, R199, R209, R215) -/

/-- The latest cycle of a cluster's cores. -/
def State.clusterTime (s : State) (clu : Nat) : Nat :=
  (List.range 32).foldl (fun m c => max m (s.core (clu * 32 + c)).cycle) (s.cluster clu).time

/-- The flags that strand sid shows in CFSUM: those of FMODE now, but a free value where a change is not 16 cycles old; none while it is
OFF (R135; log entry 12). -/
def State.flagsShown (s : State) (sid : Nat) : Fl :=
  let k := s.strand sid
  let t := s.cycleOf sid
  if k.st = .off then 0
  else k.flagsAt t ^^^ (k.flagsOpen t &&& BitVec.ofNat 5 (Config.measure 45 (s.fresh * 2 ^ 40 + sid)))

/-- CFSUM as it reads (R134, R135). -/
def State.cfsum (s : State) (clu : Nat) : Word :=
  let on := fun (sid : Nat) => (s.flagsShown sid).toNat
  let cores := (List.range 32).map fun c => (c, (List.range 4).map fun i => on ((clu * 32 + c) * 4 + i))
  let or5 := fun (l : List Nat) => l.foldl Nat.lor 0
  BitVec.ofNat 64 (or5 (cores.map fun (_, l) => or5 l) + (s.cluster clu).eflg.toNat * 2 ^ 8 +
    cores.foldl (fun n (c, l) => if or5 l = 0 then n else n + 2 ^ (32 + c)) 0)

/-- A control register's value (R209). -/
def State.controlReg (s : State) (clu off : Nat) : Word :=
  let k := s.cluster clu
  if off = 0 then s.cfsum clu
  else if off = 0x40 then putBit (k.mdep.zeroExtend 64) 63 k.mdepBusy
  else if off = 0x80 then putBit (k.pinw.zeroExtend 64) 63 k.slBusy
  else 0

/-- A write of CFSUM: ones in bits 12:8 clear EFLG, but a bit that an engine reports in the same cycle stays set (R134, R135). -/
def State.cfsumWrite (s : State) (clu : Nat) (v : Word) : State :=
  let t := s.clusterTime clu
  s.modCluster clu fun k =>
    let now := if k.reportedAt = t then k.reported else 0
    { k with eflg := (k.eflg &&& ~~~(BitVec.ofNat 5 (field v 8 5))) ||| (k.eflg &&& now) }

/-- A worker that MDEP names stops for good (R199): it is OFF and waits for nothing. Commands that it issued on a path run ahead on are
discarded (DESIGN CHOICE, log entry 66). -/
def Strand.quit (k : Strand) : Strand :=
  { k with st := .off, coll := none, ra := none, hold := [], wait := .none, waited := 0, why := .none, granted := false, ask := none,
           posted := [], ext := none, wdog := false, forced := false, preempt := false, yielded := false, inCbar := false, poll := none,
           progress := none, refused := none, reread := none, stolen := [], start := none, detect := none,
           arch := { k.arch with status := putBit k.arch.status 9 false }, gcmds := k.gcmds.map (GuardedCmd.onPath false) }

/-- A write of MDEP: a valid one makes the named worker OFF and starts its departure (R199). -/
def State.mdepWrite (s : State) (clu : Nat) (v : Word) : State :=
  let eid := field v 0 22
  let sid := 4 * eid + field v 22 2
  let c := s.cluster clu
  if c.mdepBusy || eid / 32 != clu || !(s.strand sid).worker then s
  else
    ((((s.setCluster clu { c with mdepBusy := true, mdep := v.setWidth 24 }).modStrand sid Strand.quit).modTile (eid / 2) fun t =>
      { t with semq := t.semq.filter fun w => w.2 != sid }).modCore eid fun c =>
        { c with steal := { c.steal with queue := c.steal.queue.filter (· != sid) } }).later (.departureApplied clu)

/-- A write of SLCFG (R215): PINW changes, BUSY is 1 until the change completes; a write while BUSY = 1 or above 12 is ignored. A raise
writes back and invalidates the lines of the ways it takes and zeroes them; a fall discards the pinned data of the ways released. -/
def State.slcfgWrite (s : State) (clu : Nat) (v : Word) : State :=
  let k := s.cluster clu
  let n := field v 0 4
  let old := k.pinw.toNat
  if k.slBusy || 12 < n || n == old then s
  else
    let s := (s.setCluster clu { k with pinw := BitVec.ofNat 4 n, slBusy := true }).later (.slcfgDone clu)
    if old < n then
      (s.modDie (clu / 16) fun d => (d.loseWays (clu % 16) n).fitWays (clu % 16) (16 - n) s.fresh).dropPinned
        clu (old * 262144) ((n - old) * 262144)
    else s.dropPinned clu (n * 262144) ((old - n) * 262144)

/-- A store to a control register: its effects are in force when it completes (R246); offsets that are not listed ignore it (R209). -/
def State.writeControl (s : State) (clu off : Nat) (v : Word) : State :=
  if off = 0 then s.cfsumWrite clu v
  else if off = 0x40 then s.mdepWrite clu v
  else if off = 0x80 then s.slcfgWrite clu v
  else s

/-! ## Reads -/

/-- A read as its owner sees it: the requesting cluster, ASID and world, what the strand's held stores give, and the stores of the core's
queue and side log. -/
structure Reader where
  from_ : Nat
  asid : BitVec 16
  wld : Bool
  overlay : List (Nat × Part)
  queue : List Acc
  side : List SideEntry
  deriving DecidableEq, Repr

/-- The bits of a piece's byte that the overlay does not give, and those of them that the queue holds. -/
def Reader.wants (r : Reader) (p : Piece) (g : Nat) : Byte × Byte :=
  let want := nibMask p.nib &&& ~~~(overPart r.overlay g).1
  (want, want &&& (queuePart r.queue r.side g).1)

/-- Must the read wait: the queue holds some of what it reads and not all, or the side log a reduction of a byte of it (R267)? -/
def Reader.blocked (r : Reader) (ps : List Piece) : Bool :=
  let l := ps.flatMap fun p => (pieceBytes p).map (r.wants p)
  !(r.queue.isEmpty && r.side.isEmpty) && (l.any fun b => b.2 != 0) && (l.any fun b => b.1 != b.2) ||
    r.side.any fun e => e.red.isSome && !e.denied && ps.any e.touches

/-- The bits of a piece as a number, from the number of its bytes. -/
def Piece.pick (p : Piece) (v : Nat) : Nat :=
  match p.nib with
  | Option.none => v
  | some true => v / 16 % 16
  | some false => v % 16

/-- A piece's value where memory's bytes are `m`. -/
def Reader.merge (r : Reader) (p : Piece) (m : Nat) : Nat :=
  let num := fun (l : List Nat) => l.foldr (fun b acc => b + 256 * acc) 0
  p.pick (num ((List.range p.len).map fun i =>
    let g := (p.gva + BitVec.ofNat 64 i).toNat
    ((overPart r.overlay g).on ((queuePart r.queue r.side g).on (Part.whole (nthByte m i)))).2.toNat))

/-- Does a read take nothing of a piece from memory? -/
def Reader.served (r : Reader) (p : Piece) : Bool := (pieceBytes p).all fun g => let b := r.wants p g; b.1 == b.2

/-- The value of a piece: from the overlay and the store queue where they cover it, else from its place (R225, R250). -/
def State.readPiece (s : State) (r : Reader) (p : Piece) : State × Got :=
  if r.served p then (s, .value (r.merge p 0))
  else if s.heldAt r.from_ r.asid p.gva then (s.rouse r.from_ r.asid p.gva, .wait)
  else
    match s.resolve r.from_ r.asid r.wld false p.gva with
    | (s, _, .unmapped) => (s, .unmapped p.gva)
    | (s, _, .denied) => (s, .denied p.gva)
    | (s, _, .poison) => (s, .poison p.gva)
    | (s, _, .control c o) => (s.bump, .value (s.controlReg c o).toNat)
    | (s, _, .at_ q) =>
      if s.poisoned q p.len then (s, .poison p.gva)
      else if s.hostHas q p.len false then (s, .wait)
      else
        let s := s.reach r.from_ r.asid p.gva q false
        (s, .value (r.merge p (s.viewAt r.from_ q p.len)))

/-- What every piece of a read comes to. -/
def State.readEach (s : State) (r : Reader) : List Piece → State × List (Piece × Got)
  | [] => (s, [])
  | p :: l =>
    let q := s.readPiece r p
    let u := q.1.readEach r l
    (u.1, (p, q.2) :: u.2)

/-- The pieces' values as one number, the first lowest. -/
def joinValues : List (Piece × Got) → Nat
  | [] => 0
  | (p, .value v) :: l => v + 2 ^ p.bits * joinValues l
  | (p, _) :: l => 2 ^ p.bits * joinValues l

/-- Is it no value? -/
def Got.fails : Got → Bool
  | .value _ => false
  | _ => true

/-- Read pieces; the first that gives no value decides. -/
def State.readPieces (s : State) (r : Reader) (ps : List Piece) : State × Got :=
  if r.blocked ps then (s, .wait)
  else
    let u := s.readEach r ps
    match u.2.find? fun q => q.2.fails with
    | some q => (u.1, q.2)
    | none => (u.1, .value (joinValues u.2))

/-- The reader that a hardware agent in a cluster is: it sees memory alone. -/
def plainReader (from_ : Nat) (asid : BitVec 16) (wld : Bool) : Reader :=
  { from_ := from_, asid := asid, wld := wld, overlay := [], queue := [], side := [] }

/-- The reader that a strand's unit or a core's hardware is: it sees the core's queue and side log as well (R225). -/
def State.coreReader (s : State) (eid snum : Nat) (asid : BitVec 16) (wld : Bool) : Reader :=
  { from_ := eid / 32, asid := asid, wld := wld, overlay := [], queue := s.queueFor eid snum (s.fresh + 1), side := (s.core eid).side }

/-! ## Invariant loads (R237) -/

/-- An invariant load has read value v of a piece: the die keeps it, and the load may return it or what the die has kept before, which
the machine's choice decides; where that shows a broken promise, any value (R237; DEDUCED, log entry 81). -/
def State.keepInv (s : State) (eid : Nat) (asid : BitVec 16) (wld : Bool) (p : Piece) (v : Nat) : State × Nat :=
  match s.invPlace eid asid wld p with
  | some (j, key, _) =>
    let vals := v :: s.keptOf eid j key p.len
    let any := if vals.any (· != v) then [Config.measure 47 s.fresh % 256 ^ p.len] else []
    ((s.keepVal eid j key p.len v).bump, (vals ++ any).getD (Config.choice s.fresh % (vals.length + any.length)) v)
  | none => (s, v)

/-! ## Writes -/

/-- Does a write to a page need an entry of the dirty-page log (R357)? And does it find no room? -/
def State.dirtyNeeded (s : State) (asid : BitVec 16) (p : Page) : Bool :=
  p.leaf.getLsbD 7 && (s.hbm64 p.nominal (TA + 0x100000 + 32 * asid.toNat + 16)).getLsbD 0 && !p.leaf.getLsbD 6
def State.dirtyFull (s : State) (eid : Nat) (asid : BitVec 16) (pg : Option Page) : Bool :=
  512 ≤ (s.core eid).dirtyN && (match pg with | some p => s.dirtyNeeded asid p | none => false)

/-- The dirty-page log of a core (R357): the entry is stored in its tile, for a page tracked in its leaf and its ASID. -/
def State.dirtyLog (s : State) (eid : Nat) (asid : BitVec 16) (p : Page) : State :=
  if s.dirtyNeeded asid p then
    let c := s.core eid
    let e := (p.nominal * 2 ^ 51 + p.page * 2 ^ p.size) / 2 ^ 16 * 2 ^ 16 + (if p.size = 16 then 0 else if p.size = 21 then 1 else 2)
    let t := Place.tile (eid / 512) (eid / 32 % 16) (eid / 2 % 16) (0xFE000 + 0x1000 * (eid % 2) + 8 * (c.dirtyN % 512)) 6
    let s := (s.writeAt t 8 e).setCore eid { c with dirtyN := c.dirtyN + 1 }
    if c.dirtyN = 255 then s.later (.dirtyLogMerge eid) else s
  else s

/-- The bits of a byte that a store may write: in a table agent's control block CHEAD, FTAIL, DROPGEN, MIGAB and the reserved bits keep
their values (R6, R7, R368). -/
def storeMask (q : Place) : Byte :=
  match q with
  | .hbm _ a _ =>
    let o := a - TA
    if a < TA ∨ TA + 0x40 ≤ a then 0xFF
    else if o / 8 = 0 ∨ o / 8 = 4 then 0xFF
    else if o / 8 = 2 then (if o % 8 < 3 then 0xFF else if o % 8 = 7 then 0x80 else 0)
    else 0
  | _ => 0xFF

/-- n bytes as a store leaves them. -/
def State.storeBytes (s : State) (q : Place) (n v : Nat) : Nat :=
  if (List.range n).all fun i => storeMask (q.plus i) == 0xFF then v % 256 ^ n
  else
    let old := s.readAt q n
    (List.range n).foldr (fun i acc =>
      let m := storeMask (q.plus i)
      ((nthByte v i &&& m) ||| (nthByte old i &&& ~~~m)).toNat + 256 * acc) 0

/-- Write a piece that has been found at a place. A nibble is a read-modify-write of its byte (R245). -/
def State.putPiece (s : State) (p : Piece) (q : Place) (v : Nat) : State :=
  match p.nib with
  | none => (s.writeAt q p.len (s.storeBytes q p.len v)).noticed q p.len
  | some hi =>
    let o := s.readAt q 1
    (s.writeAt q 1 (s.storeBytes q 1 (if hi then o % 16 + 16 * (v % 16) else o / 16 * 16 + v % 16))).noticed q 1

/-- A write of a page is translated and counted once for each page of an access (R371). -/
def State.notePage (s : State) (eid : Nat) (asid : BitVec 16) (seen : List Page) (p : Option Page) : State × List Page :=
  match p with
  | none => (s, seen)
  | some p =>
    if seen.any fun q => q.nominal == p.nominal && q.page == p.page && q.size == p.size then (s, seen)
    else (((s.dirtyLog eid asid p).countWrite asid p (eid / 512 % 8)), p :: seen)

/-! ## The side log (R266-R268) -/

/-- A piece of a returned store as a side-log entry. -/
def sideEntry (id snum : Nat) (asid : BitVec 16) (wld rel : Bool) (red : Option AmoOp) (p : Piece) (v : Nat) : SideEntry :=
  let o := field p.gva 0 7
  { line := p.gva - BitVec.ofNat 64 o, mask := BitVec.ofNat 128 ((2 ^ p.len - 1) * 2 ^ o),
    data := BitVec.ofNat 1024 (p.bytes v * 2 ^ (8 * o)), rel := rel, red := red, snum := snum, asid := asid, wld := wld, id := id,
    nib := p.nib, denied := false }

/-- Bits of whole bytes, one for each set bit of a byte mask. -/
def byteMask (m : BitVec 128) : BitVec 1024 :=
  BitVec.ofNat 1024 ((List.range 128).foldl (fun n i => if m.getLsbD i then n + 255 * 256 ^ i else n) 0)

/-- Another row of the store whose entry this is, in the same line: the later row is written over the earlier (R253, R266). -/
def SideEntry.more (e f : SideEntry) : SideEntry :=
  { e with mask := e.mask ||| f.mask, data := (e.data &&& ~~~(byteMask f.mask)) ||| (f.data &&& byteMask f.mask) }

/-- Does an entry hold the part in a line of the same store? -/
def SideEntry.sameLine (e f : SideEntry) : Bool :=
  e.id == f.id && e.line == f.line && e.nib == f.nib && e.denied == f.denied && e.red.isNone && f.red.isNone

/-- Is there room for an entry: a place of the 32, or an entry of its line? -/
def sideRoom (l : List SideEntry) (e : SideEntry) : Bool := l.any (·.sameLine e) || l.length < 32

/-- A store that the owner returns enters the side log, one entry for each line (R266). -/
def State.sideAdd (s : State) (eid : Nat) (e : SideEntry) : State :=
  s.modCore eid fun c =>
    { c with side := if c.side.any (·.sameLine e) then c.side.map fun f => if f.sameLine e then f.more e else f else c.side ++ [e] }

/-- A store returned for an unmapped page retires into the side log and its fault is opened (R266). -/
def State.retire (s : State) (eid : Nat) (e : SideEntry) (g : Word) : State :=
  ((s.sideAdd eid e).count eid 0x10 1 none).later (.faultOpen (4 * eid + e.snum) g .store)

/-- The refusal of a store that has retired is recorded in the side log (R31), which discards it in its turn (R375). -/
def State.retireDenied (s : State) (eid : Nat) (e : SideEntry) : State :=
  ((s.sideAdd eid { e with denied := true }).count eid 0x10 1 none).once (.sideLogReplay eid (regionOf e.line))

/-- Has the core an unreplayed entry of the 64 KiB region of a GVA (R267)? -/
def sideRegion (l : List SideEntry) (g : Word) : Bool := l.any fun e => e.line.toNat / 2 ^ 16 == g.toNat / 2 ^ 16

/-- What becomes of one piece of a store at its owner: it is written, or retires into the side log, or stays with its access. -/
inductive Put where
  | done
  | stays
  | poison
  deriving DecidableEq, Repr

/-- Perform one piece of a store. An unmapped page, or a region already in the side log, retires the piece, and so does a denial, which
the side log records; a full side log, a sector of the host's and a function that is not usable keep it waiting (R31, R238, R265-R267,
R444). -/
def State.storePiece (s : State) (eid : Nat) (a : Acc) (seen : List Page) (drops : List (Nat × Nat)) (data : Nat) (p : Piece) :
    State × List Page × List (Nat × Nat) × Put :=
  let side := (s.core eid).side
  let e := sideEntry a.id a.snum a.asid a.wld a.rel none p data
  let out := fun (s : State) (r : State) (e : SideEntry) => if sideRoom side e then (r, seen, drops, Put.done) else (s, seen, drops, Put.stays)
  if sideRegion side p.gva && !isDevice p.gva then out s (s.retire eid e p.gva) e
  else if s.heldAt (eid / 32) a.asid p.gva then (s.rouse (eid / 32) a.asid p.gva, seen, drops, .stays)
  else
    match s.resolve (eid / 32) a.asid a.wld true p.gva with
    | (s, _, .unmapped) => out s (s.retire eid e p.gva) e
    | (s, _, .denied) => out s (s.retireDenied eid e) { e with denied := true }
    | (s, _, .poison) => (s, seen, drops, .poison)
    | (s, _, .control c o) => (s.writeControl c o (BitVec.ofNat 64 data), seen, drops, .done)
    | (s, pg, .at_ q) =>
      if s.dirtyFull eid a.asid pg then (s.once (.dirtyLogMerge eid), seen, drops, .stays)
      else if s.hostHas q p.len true then (s, seen, drops, .stays)
      else
        let (s, seen) := s.notePage eid a.asid seen pg
        let drops := match s.objMet a.asid p.gva q with
          | some o => if drops.contains o then drops else drops ++ [o]
          | none => drops
        ((s.reach (eid / 32) a.asid p.gva q true).putPiece p q data, seen, drops, .done)

/-- Perform the pieces of a store in order, up to one that stays; poison in the tables gives its strand LOAD_FAULT (R204). The answer
holds what is left, with its data, and the objects written. -/
def State.storePieces (s : State) (eid : Nat) (a : Acc) (seen : List Page) (drops : List (Nat × Nat)) (data : Nat) :
    List Piece → State × List Piece × Nat × List (Nat × Nat)
  | [] => (s, [], 0, drops)
  | p :: r =>
    match s.storePiece eid a seen drops data p with
    | (s, _, drops, .stays) => (s, p :: r, data, drops)
    | (s, seen, drops, .done) => s.storePieces eid a seen drops (data / 2 ^ p.bits) r
    | (s, seen, drops, .poison) =>
      (s.post (4 * eid + a.snum) cLoadFault p.gva none).storePieces eid a seen drops (data / 2 ^ p.bits) r

end Sys2Proof.Machine
end

