-- ==== Sys2Proof/Machine/Operands.lean ====
section
/-!
DEFINITION. Which registers a unit reads, and the latencies of its results (R42, R43).
-/
namespace Sys2Proof.Machine

open Sys2Proof

/-- The x, v and m registers an instruction reads (R43); the destination where its entry uses the old value. -/
def instrSrcs : Instr → List Reg
  | .swr _ a => [.x a]
  | .semsig _ a => [.x a]
  | .add _ a b => [.x a, .x b]
  | .sub _ a b => [.x a, .x b]
  | .and _ a b => [.x a, .x b]
  | .or _ a b => [.x a, .x b]
  | .xor _ a b => [.x a, .x b]
  | .sll _ a b => [.x a, .x b]
  | .srl _ a b => [.x a, .x b]
  | .sra _ a b => [.x a, .x b]
  | .slt _ a b => [.x a, .x b]
  | .sltu _ a b => [.x a, .x b]
  | .min _ a b => [.x a, .x b]
  | .max _ a b => [.x a, .x b]
  | .minu _ a b => [.x a, .x b]
  | .maxu _ a b => [.x a, .x b]
  | .mul _ a b => [.x a, .x b]
  | .mulh _ a b => [.x a, .x b]
  | .mulhu _ a b => [.x a, .x b]
  | .div _ a b => [.x a, .x b]
  | .divu _ a b => [.x a, .x b]
  | .rem _ a b => [.x a, .x b]
  | .remu _ a b => [.x a, .x b]
  | .gaddr _ a b => [.x a, .x b]
  | .clz _ a => [.x a]
  | .popc _ a => [.x a]
  | .bswap _ a => [.x a]
  | .sext8 _ a => [.x a]
  | .sext16 _ a => [.x a]
  | .sext32 _ a => [.x a]
  | .zext8 _ a => [.x a]
  | .zext16 _ a => [.x a]
  | .zext32 _ a => [.x a]
  | .adds _ a b _ => [.x a, .x b]
  | .addi _ a _ => [.x a]
  | .andi _ a _ => [.x a]
  | .ori _ a _ => [.x a]
  | .xori _ a _ => [.x a]
  | .slti _ a _ => [.x a]
  | .slli _ a _ => [.x a]
  | .srli _ a _ => [.x a]
  | .srai _ a _ => [.x a]
  | .beq a b _ => [.x a, .x b]
  | .bne a b _ => [.x a, .x b]
  | .blt a b _ => [.x a, .x b]
  | .bge a b _ => [.x a, .x b]
  | .bltu a b _ => [.x a, .x b]
  | .bgeu a b _ => [.x a, .x b]
  | .jr a => [.x a]
  | .callr a => [.x a]
  | .loopr _ a _ => [.x a]
  | .cbr a _ _ _ => [.x a]
  | .cvoteAnd _ a _ => [.x a]
  | .cvoteOr _ a _ => [.x a]
  | .cmem _ a => [.x a]
  | .gset _ a => [.x a]
  | .pubf a => [.x a]
  | .wpush a b => [.x a, .x b, .x 16]
  | .spawn _ => [.x 16, .x 17]
  | .sync => [.x 16, .x 17]
  | .donate a b => [.x a, .x b]
  | .dpull _ a => [.x a]
  | .ld _ b _ _ _ => [.x b]
  | .st t b _ _ _ => [.x t, .x b]
  | .ldq _ b _ _ => [.x b]
  | .stq t b _ _ => [.x b] ++ pairRegs t
  | .ldv _ a b _ => [.x a, .x b]
  | .stv d a b _ => [.v d, .x a, .x b]
  | .ldm _ a _ => [.x a]
  | .stm d a _ => [.m d, .x a]
  | .amoAdd _ a b _ _ => [.x a, .x b]
  | .amoAnd _ a b _ _ => [.x a, .x b]
  | .amoOr _ a b _ _ => [.x a, .x b]
  | .amoXor _ a b _ _ => [.x a, .x b]
  | .amoMin _ a b _ _ => [.x a, .x b]
  | .amoMax _ a b _ _ => [.x a, .x b]
  | .amoMinu _ a b _ _ => [.x a, .x b]
  | .amoMaxu _ a b _ _ => [.x a, .x b]
  | .amoSwap _ a b _ _ => [.x a, .x b]
  | .amoFadd _ a b _ _ => [.x a, .x b]
  | .cas d a b _ _ => [.x d, .x a, .x b]
  | .casq d a b _ => [.x a] ++ pairRegs d ++ pairRegs b
  | .pf a _ => [.x a]
  | .cfl a => [.x a]
  | .czero a => [.x a]
  | .sld _ a _ => [.x a]
  | .sst d a _ => [.x d, .x a]
  | .sldv _ a _ => [.x a]
  | .shloc _ a _ => [.x a]
  | .shwr a _ => [.x a]
  | .objdef _ a => [.x a]
  | .objdrop a => [.x a]
  | .mapq _ a => [.x a]
  | .rlq _ a => [.x a]
  | .amsend _ a b => [.x a, .x b, .x 16, .x 17, .x 18, .x 19]
  | .amret a => [.x a]
  | .launch _ a b => [.x a, .x b]
  | .eng _ a _ => [.x a, .x 16, .x 17, .x 18, .x 19]
  | .copy _ a b _ => [.x a, .x b, .x 16, .x 17]
  | .gath _ a b _ => [.x a, .x b, .x 16, .x 17]
  | .scat _ a b _ => [.x a, .x b, .x 16, .x 17]
  | .mcast _ a b _ => [.x a, .x b, .x 16, .x 17]
  | .sortc _ a b _ => [.x a, .x b, .x 16, .x 17]
  | .ringi _ a b => [.x a, .x b]
  | .ringa _ a => [.x a]
  | .mbxpost a b => [.x a, .x b]
  | .mbxread _ a => [.x a]
  | .mbxclr a => [.x a]
  | .cbpost _ a b => [.x a, .x b, .x 16, .x 17, .x 18, .x 19]
  | .cbtake _ a => [.x a]
  | .mwl _ a b _ => [.x a, .x b]
  | .mwls _ a b _ => [.x a, .x b]
  | .mma _ a b _ => [.x a, .x b]
  | .mgrp _ a b _ => [.x a, .x b]
  | .macz _ a b _ => [.x a, .x b]
  | .mdrain _ a b _ => [.x a, .x b]
  | .mwait a => [.x a]
  | .jdec _ a => [.x a]
  | .boost a => [.x a]
  | .etq _ a => [.x a]
  | .fadd _ a b _ _ => [.x a, .x b]
  | .fsub _ a b _ _ => [.x a, .x b]
  | .fmul _ a b _ _ => [.x a, .x b]
  | .fdiv _ a b _ _ => [.x a, .x b]
  | .fmin _ a b _ => [.x a, .x b]
  | .fmax _ a b _ => [.x a, .x b]
  | .fsqrt _ a _ _ => [.x a]
  | .fclass _ a _ => [.x a]
  | .ffma _ a b c _ _ => [.x a, .x b, .x c]
  | .fcmp _ _ a b _ => [.x a, .x b]
  | .fcvt _ a _ _ _ => [.x a]
  | .fsin _ a _ => [.x a]
  | .fcos _ a _ => [.x a]
  | .fexp2 _ a _ => [.x a]
  | .flog2 _ a _ => [.x a]
  | .frcp _ a _ => [.x a]
  | .frsq _ a _ => [.x a]
  | .vadd _ a b _ => [.v a, .v b]
  | .vsub _ a b _ => [.v a, .v b]
  | .vmul _ a b _ => [.v a, .v b]
  | .vfma d a b _ => [.v d, .v a, .v b]
  | .vfms d a b _ => [.v d, .v a, .v b]
  | .vmin _ a b _ => [.v a, .v b]
  | .vmax _ a b _ => [.v a, .v b]
  | .vabs _ a _ => [.v a]
  | .vneg _ a _ => [.v a]
  | .vdiv _ a b _ => [.v a, .v b]
  | .vsqrt _ a _ => [.v a]
  | .vand _ a b _ => [.v a, .v b]
  | .vor _ a b _ => [.v a, .v b]
  | .vxor _ a b _ => [.v a, .v b]
  | .vnot _ a _ => [.v a]
  | .vshl _ a b _ => [.v a, .v b]
  | .vshr _ a b _ => [.v a, .v b]
  | .vsra _ a b _ => [.v a, .v b]
  | .vcmp _ _ a b _ => [.v a, .v b]
  | .vsel _ a b n _ => [.v a, .v b, .m n]
  | .vmov _ a _ => [.v a]
  | .vbcast _ a _ => [.x a]
  | .vextr _ a b => [.v a, .x b]
  | .vtrn _ a _ => [.v a]
  | .vredr _ _ a _ => [.v a]
  | .vredc _ _ a _ => [.v a]
  | .vchain _ a b _ => [.v a, .v b]
  | .vcvt _ a _ => [.v a]
  | .vqnt _ a b _ => [.v a, .v b]
  | .vdqnt _ a b _ => [.v a, .v b]
  | .vxmax _ a _ => [.v a]
  | .vexp2 _ a _ => [.v a]
  | .vlog2 _ a _ => [.v a]
  | .vrcp _ a _ => [.v a]
  | .vrsq _ a _ => [.v a]
  | .vsin _ a _ => [.v a]
  | .vcos _ a _ => [.v a]
  | .mand _ a b => [.m a, .m b]
  | .mor _ a b => [.m a, .m b]
  | .mxor _ a b => [.m a, .m b]
  | .mnot _ a => [.m a]
  | .mpopc _ a => [.m a]
  | .mfirst _ a => [.m a]
  | _ => []

/-- What a VXP word adds to the reads of its A word (R39, R50): the mask, and the fourth operand in place of the old vd of VFMA
and VFMS (R150). -/
def vxpSrcs (c a : Instr) : List Reg :=
  match c with
  | .vxp mk _ _ vce vc =>
    let l := if vce then (match a with
      | .vfma _ x y _ => [.v x, .v y, .v vc]
      | .vfms _ x y _ => [.v x, .v y, .v vc]
      | _ => instrSrcs a) else instrSrcs a
    l ++ [.m mk]
  | _ => instrSrcs c ++ instrSrcs a

/-- Registers that a unit writes beside those its word names: the start or resumption of a task installs x16 and x17 (R312,
R313, R408). -/
def implicitDests : Instr → List Reg
  | .tend => [.x 16, .x 17]
  | .wpop _ => [.x 16, .x 17]
  | .dpull _ _ => [.x 16, .x 17]
  | .quiet _ => [.x 16, .x 17]
  | .jdec _ _ => [.x 16, .x 17]
  | _ => []

/-- All registers a unit writes. -/
def allDests (i : Instr) : List Reg := i.dests ++ implicitDests i

/-- The latency of a fixed-latency result (R42); none where the result is scoreboarded or there is none. -/
def fixedLatency : Instr → Option Nat
  | .srd .. => some 1
  | .add .. => some 1
  | .sub .. => some 1
  | .and .. => some 1
  | .or .. => some 1
  | .xor .. => some 1
  | .sll .. => some 1
  | .srl .. => some 1
  | .sra .. => some 1
  | .slt .. => some 1
  | .sltu .. => some 1
  | .min .. => some 1
  | .max .. => some 1
  | .minu .. => some 1
  | .maxu .. => some 1
  | .mul .. => some 3
  | .mulh .. => some 3
  | .mulhu .. => some 3
  | .gaddr .. => some 1
  | .clz .. => some 1
  | .popc .. => some 1
  | .bswap .. => some 1
  | .sext8 .. => some 1
  | .sext16 .. => some 1
  | .sext32 .. => some 1
  | .zext8 .. => some 1
  | .zext16 .. => some 1
  | .zext32 .. => some 1
  | .adds .. => some 1
  | .addi .. => some 1
  | .andi .. => some 1
  | .ori .. => some 1
  | .xori .. => some 1
  | .slti .. => some 1
  | .slli .. => some 1
  | .srli .. => some 1
  | .srai .. => some 1
  | .lui .. => some 1
  | .ringq .. => some 1
  | .fadd .. => some 4
  | .fsub .. => some 4
  | .fmul .. => some 4
  | .fmin .. => some 4
  | .fmax .. => some 4
  | .fclass .. => some 4
  | .ffma .. => some 4
  | .fcmp .. => some 4
  | .fcvt .. => some 4
  | .fsin .. => some 8
  | .fcos .. => some 8
  | .fexp2 .. => some 8
  | .flog2 .. => some 8
  | .frcp .. => some 8
  | .frsq .. => some 8
  | .vadd .. => some 4
  | .vsub .. => some 4
  | .vmul .. => some 4
  | .vfma .. => some 4
  | .vfms .. => some 4
  | .vmin .. => some 4
  | .vmax .. => some 4
  | .vabs .. => some 4
  | .vneg .. => some 4
  | .vand .. => some 4
  | .vor .. => some 4
  | .vxor .. => some 4
  | .vnot .. => some 4
  | .vshl .. => some 4
  | .vshr .. => some 4
  | .vsra .. => some 4
  | .vcmp .. => some 4
  | .vsel .. => some 4
  | .vmov .. => some 4
  | .vbcast .. => some 4
  | .vextr .. => some 4
  | .viota .. => some 4
  | .vtrn .. => some 6
  | .vcvt .. => some 4
  | .vdqnt .. => some 4
  | .vexp2 .. => some 8
  | .vlog2 .. => some 8
  | .vrcp .. => some 8
  | .vrsq .. => some 8
  | .vsin .. => some 8
  | .vcos .. => some 8
  | .mand .. => some 1
  | .mor .. => some 1
  | .mxor .. => some 1
  | .mnot .. => some 1
  | .mpopc .. => some 1
  | .mfirst .. => some 1
  | _ => none

/-- Does a unit read or write FMODE by number, and so waits for the flags of earlier units (R90)? -/
def touchesFmode : Instr → Bool
  | .srd _ n => n == 0x005
  | .swr n _ => n == 0x005
  | _ => false

/-- Does an A word use the vector datapath (R143)? -/
def isVector : Instr → Bool
  | .vadd .. => true
  | .vsub .. => true
  | .vmul .. => true
  | .vfma .. => true
  | .vfms .. => true
  | .vmin .. => true
  | .vmax .. => true
  | .vabs .. => true
  | .vneg .. => true
  | .vdiv .. => true
  | .vsqrt .. => true
  | .vand .. => true
  | .vor .. => true
  | .vxor .. => true
  | .vnot .. => true
  | .vshl .. => true
  | .vshr .. => true
  | .vsra .. => true
  | .vcmp .. => true
  | .vsel .. => true
  | .vmov .. => true
  | .vbcast .. => true
  | .vextr .. => true
  | .viota .. => true
  | .vtrn .. => true
  | .vredr .. => true
  | .vredc .. => true
  | .vchain .. => true
  | .vcvt .. => true
  | .vqnt .. => true
  | .vdqnt .. => true
  | .vxmax .. => true
  | .vexp2 .. => true
  | .vlog2 .. => true
  | .vrcp .. => true
  | .vrsq .. => true
  | .vsin .. => true
  | .vcos .. => true
  | _ => false

end Sys2Proof.Machine
end

