-- ==== Sys2Proof/Machine/Control.lean ====
section
/-!
DEFINITION. Branches, calls, loops (R97-R106; RET stands with the departures), yielding and waiting (R107, R108), NOP and VXP.
-/
namespace Sys2Proof.Machine

open Sys2Proof

/-- A count of 4-byte words as a signed byte offset (R47). -/
def words {n : Nat} (off : BitVec n) : Word := off.signExtend 64 <<< 2

/-- The target of a branch: P + 4*off (R97, R98). -/
def State.target {n : Nat} (s : State) (off : BitVec n) : Word := s.unit.pc + words off

/-- A conditional branch (R97). -/
def State.branch (s : State) (c : Bool) (off : BitVec 12) : State := if c then s.jump (s.target off) else s

/-- BEQ: equal (R97). -/
def execBeq (a b : XReg) (off : BitVec 12) (s : State) : Res := .next (s.branch (s.rx a == s.rx b) off)

/-- BNE: not equal (R97). -/
def execBne (a b : XReg) (off : BitVec 12) (s : State) : Res := .next (s.branch (s.rx a != s.rx b) off)

/-- BLT: signed less (R97). -/
def execBlt (a b : XReg) (off : BitVec 12) (s : State) : Res := .next (s.branch ((s.rx a).slt (s.rx b)) off)

/-- BGE: signed not less (R97). -/
def execBge (a b : XReg) (off : BitVec 12) (s : State) : Res := .next (s.branch (!(s.rx a).slt (s.rx b)) off)

/-- BLTU: unsigned less (R97). -/
def execBltu (a b : XReg) (off : BitVec 12) (s : State) : Res := .next (s.branch ((s.rx a).ult (s.rx b)) off)

/-- BGEU: unsigned not less (R97). -/
def execBgeu (a b : XReg) (off : BitVec 12) (s : State) : Res := .next (s.branch (!(s.rx a).ult (s.rx b)) off)

/-- J (R98). -/
def execJ (off : BitVec 22) (s : State) : Res := .next (s.jump (s.target off))

/-- Push a return address on the core's store (R99). -/
def Arch.pushRas (a : Arch) (ret : Word) : Arch := { a with ras := a.ras ++ [ret] }

/-- Push an entry and go on with `f` (R99): the oldest of 16 entries is spilled by a plain ST of 8 bytes at RSTOP. -/
def State.pushRet (s : State) (ret : Word) (f : State → State) : State :=
  let a := s.arch
  if a.ras.length < 16 then f (s.modArch fun a => a.pushRas ret)
  else if a.rstop.toNat < a.rsbase.toNat ∨ a.rslim.toNat < a.rstop.toNat + 8 then s.raise 5 cSpillLimit a.rstop
  else
    match s.check [a.rstop] 8 8 true true true true with
    | some c => s.raise c.rank c.code c.eval
    | none =>
      let u := s.issueStore (pieces a.rstop 8) (a.ras.headD 0).toNat false
      if u.unit.status = .waiting then u
      else f (u.modArch fun a => { a with ras := a.ras.drop 1 ++ [ret], rstop := a.rstop + 8 })

/-- What the unit does where its push can be made; else the push's own wait or trap. -/
def State.ifPush (s : State) (ret : Word) (f : State → State) : State :=
  let p := s.pushRet ret id
  if p.unit.status = .running then f s else p

/-- A call to `t` (R99). -/
def State.call (s : State) (t : Word) : State := s.pushRet s.unit.next fun s => s.jump t

/-- CALL (R98, R99). -/
def execCall (off : BitVec 22) (s : State) : Res := .next (s.call (s.target off))

/-- JR (R98). -/
def execJr (a : XReg) (s : State) : Res :=
  .next (if field (s.rx a) 0 2 = 0 then s.jump (s.rx a) else s.raise 5 cAlignment (s.rx a))

/-- CALLR (R98, R99). -/
def execCallr (a : XReg) (s : State) : Res :=
  .next (if field (s.rx a) 0 2 = 0 then s.call (s.rx a) else s.raise 5 cAlignment (s.rx a))

/-- The registers of a loop level (R102); `lv` names level 1. -/
def Arch.setLoop (a : Arch) (lv : Bool) (n : BitVec 32) (b e : Word) : Arch :=
  if lv then { a with lc1 := n, ls1 := b, le1 := e } else { a with lc0 := n, ls0 := b, le0 := e }

/-- Set up a loop level with a count; a count of zero skips the body (R102). -/
def State.loop (s : State) (lv : Bool) (n : BitVec 32) (len : BitVec 9) : State :=
  let e := s.unit.pc + BitVec.ofNat 64 (4 * len.toNat)
  if 4 * len.toNat ≤ (if s.unit.lone then 4 else 8) then s.illegal 3
  else
    let t := s.modArch fun a => a.setLoop lv n s.unit.next e
    if n = 0 then t.jump e else t

/-- The loop-end events of a unit whose last word lies at `e` - 4, when it neither trapped nor transferred control (R103,
R104). -/
def loopEnd (e : Word) (a : Arch) : Arch :=
  let lvl0 := fun (a : Arch) =>
    if a.lc0 ≠ 0 ∧ a.le0 = e then
      (if a.lc0 = 1 then { a with lc0 := 0, pc := a.le0 } else { a with lc0 := a.lc0 - 1, pc := a.ls0 }) else a
  if a.lc1 ≠ 0 ∧ a.le1 = e then
    (if a.lc1 = 1 then lvl0 { a with lc1 := 0, pc := a.le1 } else { a with lc1 := a.lc1 - 1, pc := a.ls1 })
  else lvl0 a

/-- LOOP (R102). -/
def execLoop (lv : Bool) (cnt : BitVec 12) (len : BitVec 9) (s : State) : Res := .next (s.loop lv (cnt.zeroExtend 32) len)

/-- LOOPR (R102). -/
def execLoopr (lv : Bool) (a : XReg) (len : BitVec 9) (s : State) : Res := .next (s.loop lv ((s.rx a).setWidth 32) len)

/-- LEXIT (R106). -/
def execLexit (lv : Bool) (s : State) : Res :=
  let a := s.arch
  .next (if (if lv then a.lc1 else a.lc0) = 0 then s.illegal 4
    else if lv then (s.modArch fun a => { a with lc1 := 0 }).jump a.le1
    else (s.modArch fun a => { a with lc0 := 0 }).jump a.le0)

/-- NOP (R117). -/
def execNop (s : State) : Res := .next s

/-- NOP as an A word (R117). -/
def execNopA (s : State) : Res := .next s

/-- VXP names the mask, rounding and fourth operand of its pair's A word (R50). -/
def execVxp (mk : MReg) (mz : Bool) (rmo : Rm) (vce : Bool) (vc : VReg) (s : State) : Res :=
  .next { s with unit := { s.unit with vxp := { mask := mk, mz := mz, rmo := rmo, vc := if vce then some vc else none } } }

/-- YIELD (R107): READY with the current cycle as stamp where another strand is READY; HELD while a pre-empt is pending, unless the
strand owes a reply (R339). -/
def execYield (s : State) : Res :=
  let k := s.cur
  .next (if k.yields then s.modCur fun k => k.halted .active
    else if [0, 1, 2, 3].any (fun i => s.eid * 4 + i != s.unit.sid && (s.strand (s.eid * 4 + i)).st == .ready) then
      s.modCur fun k => { k.makeReady s.unit.now with yielded := true }
    else s)

/-- WFE (R61, R108): consumes EV, or waits for it; one that an event has ended leaves EV, which a later event may have set. -/
def execWfe (s : State) : Res :=
  .next (if s.cur.granted then s.modCur fun k => { k with granted := false }
    else if s.arch.ev then s.modArch fun a => { a with ev := false }
    else s.block .event)

/-- EV of a strand is set; a strand that waits for it in WFE becomes READY, its WFE completed, and EV is clear (R61). -/
def State.setEv (s : State) (sid : Nat) : State :=
  let k := s.strand sid
  if k.st = .blocked ∧ k.wait = .event then
    s.modStrand sid fun k => ({ k with granted := true } : Strand).makeReady (s.cycleOf sid)
  else s.modStrand sid fun k => { k with arch := { k.arch with ev := true } }

/-- TRAP (R111). -/
def execTrap (imm : BitVec 12) (s : State) : Res := .next (s.raise 5 cTrapInstr (imm.zeroExtend 64))

end Sys2Proof.Machine
end

