-- ==== Sys2Proof/Machine/System.lean ====
section
/-!
DEFINITION. System registers (R65-R70, R110), ERET (R115, R460), the dispatch and return of a delegated trap (R74, R460),
reserved encodings, and the asynchronous causes (R114).
-/
namespace Sys2Proof.Machine

open Sys2Proof

/-! ## System registers (R65) -/

/-- The lowest level that may read a register: 0 U, 1 S. -/
def readLevel (n : Nat) : Nat :=
  if n = 1 ∨ n = 2 ∨ n = 3 ∨ n = 4 ∨ n = 7 ∨ n = 0xD ∨ n = 0x26 ∨ (0x38 ≤ n ∧ n ≤ 0x3F) then 1 else 0

/-- The lowest level that may write a register; none where no level may. -/
def writeLevel (n : Nat) : Option Nat :=
  if n = 0 ∨ n = 5 ∨ n = 6 ∨ (0x10 ≤ n ∧ n ≤ 0x15) ∨ (0x1C ≤ n ∧ n ≤ 0x1F) ∨ n = 0x25 then some 0
  else if (1 ≤ n ∧ n ≤ 4) ∨ (7 ≤ n ∧ n ≤ 0xA) ∨ n = 0xD ∨ n = 0x26 ∨ (0x30 ≤ n ∧ n ≤ 0x3F) then some 1
  else none

/-- The value of a system register, zero-extended (R65, R110). -/
def State.sysreg (s : State) (n : Nat) : Word :=
  let a := s.arch
  let c := s.curCore
  if n = 0x00 then a.status
  else if n = 0x01 then a.cause
  else if n = 0x02 then a.epc
  else if n = 0x03 then a.eval
  else if n = 0x04 then a.tvec
  else if n = 0x05 then a.fmode
  else if n = 0x06 then a.vshape
  else if n = 0x07 then c.wdog.zeroExtend 64
  else if n = 0x08 then a.rsbase
  else if n = 0x09 then a.rslim
  else if n = 0x0A then a.rstop
  else if n = 0x0B then BitVec.ofNat 64 a.ras.length
  else if n = 0x0C then a.depth.zeroExtend 64
  else if n = 0x0D then a.ctxbase
  else if n = 0x10 then a.lc0.zeroExtend 64
  else if n = 0x11 then a.ls0
  else if n = 0x12 then a.le0
  else if n = 0x13 then a.lc1.zeroExtend 64
  else if n = 0x14 then a.ls1
  else if n = 0x15 then a.le1
  else if n = 0x18 then a.mbset.zeroExtend 64
  else if n = 0x19 then a.mbidx.zeroExtend 64
  else if n = 0x1A then a.mbcnt.zeroExtend 64
  else if n = 0x1B then a.cseq.zeroExtend 64
  else if 0x1C ≤ n ∧ n ≤ 0x1F then a.h.getD (n - 0x1C) 0
  else if n = 0x20 then c.jobid.zeroExtend 64
  else if n = 0x21 then c.asid.zeroExtend 64
  else if n = 0x22 then BitVec.ofNat 64 s.eid
  else if n = 0x23 then c.lcn.zeroExtend 64
  else if n = 0x24 then BitVec.ofNat 64 s.snum
  else if n = 0x25 then a.frame
  else if n = 0x26 then c.dqbase
  else if n = 0x27 then BitVec.ofNat 64 s.unit.now
  else if n = 0x28 then s.ready0 (s.eid / 4096)
  else if n = 0x29 then s.ready1 (s.eid / 4096)
  else if 0x30 ≤ n ∧ n ≤ 0x37 then c.evc.getD (n - 0x30) 0
  else (c.evsel.getD (n - 0x38) 0).zeroExtend 64

/-- The fields of STATUS that an SWR changes at each level (R66). -/
def statusWrite (prv : Nat) (old w : Word) : Word :=
  let pp := if field w 5 2 = 2 then field old 5 2 else field w 5 2
  if prv = 0 then putBit old 4 (w.getLsbD 4)
  else
    let s1 := putBit (putBit (putBit old 4 (w.getLsbD 4)) 3 (w.getLsbD 3)) 8 (w.getLsbD 8)
    if prv = 1 then (if pp = 3 then s1 else putField s1 5 2 pp)
    else putBit (putBit (putField s1 5 2 pp) 2 (w.getLsbD 2)) 7 (w.getLsbD 7)

/-- The largest number of elements for an element type code (R70). -/
def capacity (et : Nat) : Nat :=
  if et = 0 then 64 else if et = 1 ∨ et = 8 then 128 else if et = 2 ∨ et = 3 ∨ et = 9 then 256
  else if et = 4 ∨ et = 5 ∨ et = 10 then 512 else 1024

/-- Is a value of VSHAPE legal (R70)? Reserved bits above bit 10 are ignored on a write. -/
def shapeOk (w : Word) : Bool :=
  (Et.ofCode (field w 0 4)).isSome && field w 4 3 ≤ 5 && 2 ^ (field w 4 3 + field w 7 4) ≤ capacity (field w 0 4)

/-- Does an SWR place a reserved code (R65, R66, R69, R70, R422)? -/
def reservedCode (prv n : Nat) (w : Word) : Bool :=
  (n == 0 && prv != 0 && field w 5 2 == 2) || (n == 5 && 5 ≤ field w 8 3) || (n == 6 && !shapeOk w) ||
  (0x38 ≤ n && n ≤ 0x3F && 0x12 ≤ field w 0 8)

/-- The bits of a 64-bit system register that are not reserved (R65-R70, R302, R307); the others read zero (R7). -/
def regMask (n : Nat) : Word :=
  if n = 0x01 then 0x80000000000000FF
  else if n = 0x02 then ~~~3
  else if n = 0x04 then ~~~0xF2
  else if n = 0x05 then 0x71F
  else if n = 0x06 then 0x7FF
  else if n = 0x08 ∨ n = 0x09 ∨ n = 0x0A then ~~~7
  else if n = 0x0D then ~~~0xFF
  else if 0x1C ≤ n ∧ n ≤ 0x1F then ~~~0x7F
  else if n = 0x25 then ~~~0xFC
  else if n = 0x26 then 0xFFFC0
  else BitVec.allOnes 64

/-- Write a system register that the level may write; reserved bits read zero afterwards. -/
def State.setSysreg (s : State) (n : Nat) (w : Word) : State :=
  let ar := fun f => s.modArch f
  let co := fun f => s.modCore s.eid f
  if n = 0x00 then ar fun a => { a with status := statusWrite a.prv a.status w }
  else if n = 0x01 then ar fun a => { a with cause := w &&& regMask n }
  else if n = 0x02 then ar fun a => { a with epc := w &&& regMask n }
  else if n = 0x03 then ar fun a => { a with eval := w }
  else if n = 0x04 then ar fun a => { a with tvec := w &&& regMask n }
  else if n = 0x05 then ar fun a => { a with fmode := w &&& regMask n }
  else if n = 0x06 then ar fun a => { a with vshape := w &&& regMask n }
  else if n = 0x07 then co fun c => { c with wdog := w.setWidth 32 }
  else if n = 0x08 then ar fun a => { a with rsbase := w &&& regMask n }
  else if n = 0x09 then ar fun a => { a with rslim := w &&& regMask n }
  else if n = 0x0A then ar fun a => { a with rstop := w &&& regMask n, ras := [] }
  else if n = 0x0D then ar fun a => { a with ctxbase := w &&& regMask n }
  else if n = 0x10 then ar fun a => { a with lc0 := w.setWidth 32 }
  else if n = 0x11 then ar fun a => { a with ls0 := w }
  else if n = 0x12 then ar fun a => { a with le0 := w }
  else if n = 0x13 then ar fun a => { a with lc1 := w.setWidth 32 }
  else if n = 0x14 then ar fun a => { a with ls1 := w }
  else if n = 0x15 then ar fun a => { a with le1 := w }
  else if 0x1C ≤ n ∧ n ≤ 0x1F then ar fun a => { a with h := a.h.set! (n - 0x1C) (w &&& regMask n) }
  else if n = 0x25 then ar fun a => { a with frame := w &&& regMask n }
  else if n = 0x26 then co fun c => { c with dqbase := w &&& regMask n }
  else if 0x30 ≤ n ∧ n ≤ 0x37 then co fun c => { c with evc := c.evc.set! (n - 0x30) w }
  else if 0x38 ≤ n ∧ n ≤ 0x3F then co fun c => { c with evsel := c.evsel.set! (n - 0x38) (w.setWidth 16 &&& 0x1FFF) }
  else s

/-- SRD (R65, R110); a number that names no register is an encoding fault (R46). -/
def execSrd (d : XReg) (n : BitVec 12) (s : State) : Res :=
  .next (if !isSysReg n then s.illegal 0
    else if s.arch.prv < readLevel n.toNat then s.privilege n.toNat
    else s.wx d (s.sysreg n.toNat) 1)

/-- SWR (R65, R66, R110). It waits under run-ahead (R189). -/
def execSwr (n : BitVec 12) (a : XReg) (s : State) : Res :=
  let w := s.rx a
  .next (if !isSysReg n then s.illegal 0
    else match writeLevel n.toNat with
      | none => s.unlessAhead s
      | some l =>
        if s.arch.prv < l then s.privilege n.toNat
        else if reservedCode s.arch.prv n.toNat w then s.illegal 2
        else s.unlessAhead (s.setSysreg n.toNat w))

/-! ## The record of a delegated trap (R74, R460) -/

def guardCode : Guard → Nat
  | .free => 0
  | .tru => 2
  | .fls => 3
  | _ => 1

/-- CTXINFO (R75). -/
def ctxInfo (sent : Bool) (snum : Nat) (a : Arch) (st : StrandState) : Nat :=
  let code := match st with
    | .off => 0 | .dormant => 1 | .ready => 2 | .active => 3 | .blocked => 4 | .held => 5
  code + snum * 2 ^ 4 + (if sent then 2 ^ 6 else 0) + (if a.ev then 2 ^ 7 else 0)

/-- Offsets 0x000 to 0x1FF of a context as 64 words (R74). -/
def ctxWords (a : Arch) (info : Nat) : List Word :=
  [a.pc, BitVec.ofNat 64 info, a.status, a.cause, a.epc, a.eval, a.tvec, a.fmode, a.vshape, a.rsbase, a.rslim, a.rstop,
   BitVec.ofNat 64 a.ras.length, a.depth.zeroExtend 64, a.frame, a.cseq.zeroExtend 64,
   a.lc0.zeroExtend 64, a.ls0, a.le0, a.lc1.zeroExtend 64, a.ls1, a.le1,
   BitVec.ofNat 64 ((List.range 16).foldl (fun n i => n + guardCode (a.g.getD i .free) * 2 ^ (2 * i)) 0)]
  ++ a.h.toList ++ [0, 0, 0, 0, 0] ++ (List.range 32).map fun i => a.getX (BitVec.ofNat 5 i)

/-- Words as bytes of one number. -/
def packWords : List Word → Nat
  | [] => 0
  | w :: r => w.toNat + 2 ^ 64 * packWords r

/-- Word i of a number. -/
def wordAt (v i : Nat) : Word := BitVec.ofNat 64 (v / 2 ^ (64 * i))

/-- What a hardware store of n bytes finds: all done, or why not. Stores are made in order, and performed everywhere at once; a page is
counted once (R371), `seen` are those counted. Core `log` enters each into its dirty-page log (R357), and waits while that is full. -/
def State.hwStores (s : State) (log : Option Nat) (from_ : Nat) (asid : BitVec 16) (wld : Bool) (seen : List Page) (v : Nat) :
    List Piece → State × List Page × Got
  | [] => (s, seen, .value 0)
  | p :: r =>
    if s.heldAt from_ asid p.gva then (s.rouse from_ asid p.gva, seen, .wait)
    else match s.resolve from_ asid wld true p.gva with
    | (s, pg, .at_ q) =>
      if s.hostHas q p.len true then (s, seen, .wait)
      else if log.any fun e => s.dirtyFull e asid pg then ((s.once (.dirtyLogMerge (log.getD 0))), seen, .wait)
      else
        let (s, seen) := match pg with
          | none => (s, seen)
          | some g =>
            if seen.any fun h => h.nominal == g.nominal && h.page == g.page && h.size == g.size then (s, seen)
            else ((match log with
              | some e => s.dirtyLog e asid g
              | none => s).countWrite asid g (from_ / 16 % 8), g :: seen)
        State.hwStores ((s.reachAll from_ asid p.gva q).putPiece p q v) log from_ asid wld seen (v / 2 ^ p.bits) r
    | (s, _, .unmapped) => (s, seen, .unmapped p.gva)
    | (s, _, .poison) => (s, seen, .poison p.gva)
    | (s, _, _) => (s, seen, .denied p.gva)

/-- A hardware store of an agent in a cluster. -/
def State.hwStore (s : State) (from_ : Nat) (asid : BitVec 16) (wld : Bool) (v : Nat) (ps : List Piece) : State × Got :=
  let r := s.hwStores none from_ asid wld [] v ps
  (r.1, r.2.2)

/-- A hardware load of pieces, past the store queue. -/
def State.hwLoad (s : State) (from_ : Nat) (asid : BitVec 16) (wld : Bool) (ps : List Piece) : State × Got :=
  s.readPieces (plainReader from_ asid wld) ps

/-- A hardware load of core eid for its strand `snum`, which sees the stores of the core that are still in its queue (R225, R460). -/
def State.coreLoad (s : State) (eid snum : Nat) (asid : BitVec 16) (wld : Bool) (ps : List Piece) : State × Got :=
  s.readPieces (s.coreReader eid snum asid wld) ps

/-- The stores of core eid by hardware, in order, each entered into the dirty-page log (R357, R460). -/
def State.coreStore (s : State) (eid : Nat) (asid : BitVec 16) (wld : Bool) (v : Nat) (ps : List Piece) : State × Got :=
  let r := s.hwStores (some eid) (eid / 32) asid wld [] v ps
  (r.1, r.2.2)

/-- A message that has been queued while no strand of its core was free dispatches (R338). -/
def State.dispatchNext (s : State) (eid : Nat) : State := if (s.core eid).swq.isEmpty then s else s.once (.dormantDispatch eid)

/-- A delegation is abandoned: the trap is taken on the strand itself, which waits for the issue slot (R71, R460). -/
def State.undelegate (s : State) (sid : Nat) : State :=
  let t := s.strand sid
  match t.why with
  | .delegated _ =>
    let a := { t.arch with status := statusOnTrap t.arch.status, pc := handlerBase t.arch.tvec }
    (s.setStrand sid (({ t with arch := a } : Strand).makeReady (s.cycleOf sid))).dispatchNext (sid / 4)
  | _ => s

/-- DELEGATED_DISPATCH (R112, R460): the record is written and the handler strand dispatched, or the delegation is abandoned
where the page is denied; an unmapped page waits for its service. -/
def execDelegatedDispatch (sid : Nat) (s : State) : Res :=
  let k := s.strand sid
  match k.why with
  | .delegated h =>
    let a := k.arch
    let rec_ := packWords (ctxWords a (ctxInfo k.sent (sid % 4) a .active))
    if (s.strand h).st != .dormant then .next (s.undelegate sid) else
    .next (match s.coreStore (sid / 4) (s.core (sid / 4)).asid a.wld rec_ (pieces a.ctxbase 512) with
    | (s, .value _) =>
      s.modStrand h fun t =>
        { t.overwrite [.x 4, .x 5] with
                 st := .ready, yielded := false, dispatched := true, stamp := s.cycleOf h, origin := .delegated sid,
                 arch := ({ t.arch with status := putBit (putField t.arch.status 0 2 1) 2 a.wld, cause := a.cause, epc := a.epc,
                                        eval := a.eval, pc := handlerBase a.tvec }.setX 4 a.ctxbase).setX 5
                                          (BitVec.ofNat 64 (sid % 4)) }
    | (s, .unmapped g) => s.holdEv sid (s.core (sid / 4)).asid g .atomic (.delegatedDispatch sid)
    | (s, .wait) => s.notYet
    | (s, _) => s.undelegate sid)
  | _ => .next s

/-- The reserved codes that the ERET of a handler refuses in a record (R460). -/
def recordBad (w : Nat) : Bool :=
  field (wordAt w 2) 0 2 == 2 || field (wordAt w 2) 5 2 == 2 || 5 ≤ field (wordAt w 7) 8 3 || !shapeOk (wordAt w 8)

/-- STATUS as a record gives it: reserved bits read zero (R7), and RA is hardware's own (R6, R66). -/
def recordStatus (a : Arch) (w : Word) : Word := putBit (w &&& 0x1FF) 9 a.ahead

/-- The registers that a partial reload takes from a record (R74); bits of no field read zero (R7). -/
def reload (a : Arch) (w : Nat) : Arch :=
  let r := fun i => wordAt w i
  let m := fun i n => wordAt w i &&& regMask n
  { a with pc := r 0 &&& ~~~3, status := recordStatus a (r 2), cause := m 3 1, epc := m 4 2, eval := r 5, tvec := m 6 4, fmode := m 7 5,
           vshape := m 8 6, rsbase := m 9 8, rslim := m 10 9, rstop := m 11 0xA, ras := if m 11 0xA = a.rstop then a.ras else [],
           frame := m 14 0x25,
           lc0 := (r 16).setWidth 32, ls0 := r 17, le0 := r 18, lc1 := (r 19).setWidth 32, ls1 := r 20, le1 := r 21,
           h := Vector.ofFn fun i => m (23 + i.val) 0x1C, x := Vector.ofFn fun i => if i.val = 0 then 0 else r (32 + i.val) }

/-- ERET of an ordinary trap (R115). -/
def Arch.eret (a : Arch) : Arch := { a with pc := a.epc &&& ~~~3, status := statusOnEret a.status }

/-- ERET (R115, R460). In a strand dispatched by a delegated trap the record is read and checked, the strand becomes DORMANT,
and the HELD strand reloads. -/
def execEret (s : State) : Res :=
  let a := s.arch
  .next (if a.prv = 0 then s.privilege 0xFFFF
    else match s.cur.origin with
      | .delegated sid =>
        let t := (s.strand sid).arch
        s.unlessAhead (match s.cur.refused with
        | some g => s.refusal cLoadFault g
        | none => match s.coreLoad (sid / 4) s.snum (s.core (sid / 4)).asid t.wld (pieces t.ctxbase 512) with
        | (s, .value w) =>
          if recordBad w then s.illegal 2
          else (((s.modCur fun k => { k with st := .dormant, origin := .none }).modStrand sid
            fun k => { k with reread := some w }).later (.delegatedReload sid)).dispatchNext s.eid
        | (s, .unmapped g) =>
          ((s.waits.modCur fun k => { k with st := .held, prior := .active, why := .unit g }).once (.faultOpen s.unit.sid g .load))
        | (s, .poison g) => s.refusal cLoadFault g
        | (s, .denied g) => s.refusal cAccess g
        | (s, .wait) => s.retry)
      | _ =>
        if a.prv = 1 ∧ field a.status 5 2 = 3 then s.privilege 0xFFFF
        else s.unlessAhead
          (let t : State := { (s.modArch Arch.eret) with unit := { s.unit with status := .jumped } }
           let t : State := t.modCore s.eid fun c => { c with free := max c.free (s.unit.now + 4) }
           if s.cur.yields && t.arch.prv == 0 then t.modCur fun k => k.halted .active else t))

/-- DELEGATED_RELOAD (R74, R115): the HELD strand reloads the record that the ERET has read and checked, and becomes READY. Results that
are due have landed before; one that is still outstanding lands after the reload (DESIGN CHOICE, log entry 79). -/
def execDelegatedReload (sid : Nat) (s : State) : Res :=
  let t := s.cycleOf sid
  let k := (s.strand sid).land t
  .next (match k.why, k.reread with
  | .delegated _, some w =>
    s.setStrand sid ((({ k with arch := reload k.arch w, reread := none } : Strand).noteFlags t).makeReady t)
  | _, _ => s)

/-- The watchdog's comparison (R20, R116): the strand that holds the issue slot takes the cause at its next boundary. -/
def State.watch (s : State) (eid : Nat) : State :=
  let c := s.core eid
  if c.wdog ≠ 0 ∧ c.wdog.toNat ≤ c.wcount then
    match [0, 1, 2, 3].find? fun i => (s.strand (4 * eid + i)).st == .active with
    | some i => ((s.modStrand (4 * eid + i) fun k => { k with wdog := true }).modCore eid fun c => { c with wcount := 0 }).count
        eid 0x11 1 (some (4 * eid + i))
    | none => s
  else s

/-- WATCHDOG (R20, R116). -/
def execWatchdog (eid : Nat) (s : State) : Res := .next (s.watch eid)

/-- A word is posted to a strand's EXTERNAL line (R114); a WFE that waits ends where IE = 1 (R108). -/
def State.postExternal (s : State) (sid : Nat) (w : Word) : State :=
  let s := s.modStrand sid fun k => { k with ext := some ((k.ext.getD 0) ||| w) }
  let k := s.strand sid
  if k.st = .blocked ∧ k.wait = .event ∧ k.arch.ie then s.wake sid else s

/-- EXTERNAL (R114): supervisor software posts a word to the strand's line, or a word posted before is looked at again; a pending
word ends a WFE of a strand that takes it; the entry follows at the strand's boundary. -/
def execExternal (p : Post) (s : State) : Res :=
  let k := s.strand p.sid
  .next (match p.word with
    | some w => s.postExternal p.sid w
    | none => if k.ext.isSome ∧ k.st = .blocked ∧ k.wait = .event ∧ k.arch.ie then s.wake p.sid else s)

/-- The cycle at which the result that a strand waits for lands, where that is known. -/
def Strand.waitDue (k : Strand) : Option Nat := match k.wait with
  | .result id => (k.pend.find? fun p => p.id == id).bind (·.due)
  | _ => none

/-- LOAD_WAIT_SWITCH (R17): after 24 cycles of waiting on a load-class result the strand becomes BLOCKED; where the cycle of the result is
known, as that of an exchange (R144), the strand becomes READY then. -/
def execLoadWaitSwitch (sid : Nat) (s : State) : Res :=
  let k := s.strand sid
  let t := s.cycleOf sid
  let later := fun (s : State) => if k.waitDue.isSome then s.notYet else s
  .next (if k.st = .active ∧ 24 ≤ k.waited ∧ k.wait ≠ .none then
      later ((s.modStrand sid fun k => { k with st := .blocked, waited := 0 }).modCore
        (sid / 4) fun c => { c with wcount := 0 })
    else if k.st = .blocked then
      (match k.waitDue with
      | some d => if d ≤ t then s.modStrand sid fun k => k.makeReady d else s.notYet
      | none => s)
    else s)

end Sys2Proof.Machine
end

