-- ==== Sys2Proof/Machine/Memory.lean ====
section
/-!
DEFINITION. Loads, stores, atomics, fences and line operations (R247-R263), and the performance of an access (R264-R268).
-/
namespace Sys2Proof.Machine

open Sys2Proof

/-! ## Scalar loads and stores (R251, R252) -/

def sizeBytes : MemSize → Nat
  | .b => 1 | .h => 2 | .w => 4 | .d => 8

/-- xb + sext(off) * size (R247). -/
def State.memAddr (s : State) (b : XReg) (off : BitVec 8) (n : Nat) : Word := s.rx b + off.signExtend 64 * BitVec.ofNat 64 n

/-- Raise a cause found at issue, or go on. -/
def State.checked (s : State) (c : Option Cause) (t : State) : State :=
  match c with
  | some c => (if c.code = cRangeLock then s.count s.eid 0x0F 1 (some s.unit.sid) else s).raise c.rank c.code c.eval
  | none => t

/-- A load of n bytes from one place. -/
def State.load1 (s : State) (dst : LdDst) (a : Word) (n al : Nat) (acq inv reg : Bool) : State :=
  s.checked (s.check [a] n al false reg true true) (s.issueLoad dst (pieces a n) acq inv 0)

/-- A store of n bytes to one place. -/
def State.store1 (s : State) (a : Word) (n al v : Nat) (rel reg : Bool) : State :=
  s.checked (s.check [a] n al true reg true true) (s.issueStore (pieces a n) (v % 2 ^ (8 * n)) rel)

/-- LD (R251). -/
def execLd (t b : XReg) (sz : MemSize) (ord : LdOrd) (off : BitVec 8) (s : State) : Res :=
  let n := sizeBytes sz
  .next (s.load1 (if t = 0 then .none else .x t) (s.memAddr b off n) n n (ord == .acq) (ord == .inv) (sz == .d))

/-- ST (R251). -/
def execSt (t b : XReg) (sz : MemSize) (ord : StOrd) (off : BitVec 8) (s : State) : Res :=
  let n := sizeBytes sz
  .next (s.store1 (s.memAddr b off n) n n (s.rx t).toNat (ord == .rel) (sz == .d))

/-- LDQ (R252). -/
def execLdq (t : BitVec 4) (b : XReg) (ord : LdOrd) (off : BitVec 8) (s : State) : Res :=
  .next (if t = 0 then s.illegal 0 else s.load1 (.pair t) (s.memAddr b off 16) 16 16 (ord == .acq) (ord == .inv) false)

/-- STQ (R252). -/
def execStq (t : BitVec 4) (b : XReg) (ord : StOrd) (off : BitVec 8) (s : State) : Res :=
  .next (if t = 0 then s.illegal 0 else s.store1 (s.memAddr b off 16) 16 16 (s.rpair t) (ord == .rel) false)

/-! ## Vector and mask transfers (R253, R254) -/

/-- Element width in bits of a type (R118, R122). -/
def etBits : Et → Nat
  | .f64 => 64 | .f32 => 32 | .bf16 => 16 | .f16 => 16 | .e4m3 => 8 | .e5m2 => 8 | .e2m1 => 4
  | .i32 => 32 | .i16 => 16 | .i8 => 8 | .i4 => 4

/-- The shape in VSHAPE (R70): element type, rows, columns. -/
def Arch.shapeEt (a : Arch) : Et := (Et.ofCode (field a.vshape 0 4)).getD .f32
def Arch.rows (a : Arch) : Nat := 2 ^ field a.vshape 4 3
def Arch.cols (a : Arch) : Nat := 2 ^ field a.vshape 7 4

/-- The low n bits. -/
def lowBits (n : Nat) : VecVal := BitVec.ofNat 4096 (2 ^ n - 1)

/-- The first bytes of the rows. -/
def rowStarts (a b : Word) (nr : Nat) : List Word := (List.range nr).map fun r => a + BitVec.ofNat 64 r * b

/-- Bytes of a row: a single nibble takes a byte. -/
def rowBytes (bits nc : Nat) : Nat := max 1 (nc * bits / 8)

/-- The pieces of the rows of a vector transfer. -/
def vecPieces (a b : Word) (nr nc bits : Nat) : List Piece :=
  (rowStarts a b nr).flatMap fun g =>
    if nc * bits < 8 then [{ gva := g, len := 1, nib := some false }] else pieces g (nc * bits / 8)

/-- LDV (R253). -/
def execLdv (d : VReg) (a b : XReg) (ord : LdOrd) (s : State) : Res :=
  let w := etBits s.arch.shapeEt
  let nr := s.arch.rows
  let nc := s.arch.cols
  .next (s.checked (s.check (rowStarts (s.rx a) (s.rx b) nr) (rowBytes w nc) (max 1 (w / 8)) false false true true)
    (s.issueLoad (.v d) (vecPieces (s.rx a) (s.rx b) nr nc w) (ord == .acq) (ord == .inv) (~~~(lowBits (nr * nc * w)))))

/-- STV (R253). -/
def execStv (d : VReg) (a b : XReg) (ord : StOrd) (s : State) : Res :=
  let w := etBits s.arch.shapeEt
  let nr := s.arch.rows
  let nc := s.arch.cols
  .next (s.checked (s.check (rowStarts (s.rx a) (s.rx b) nr) (rowBytes w nc) (max 1 (w / 8)) true false true true)
    (s.issueStore (vecPieces (s.rx a) (s.rx b) nr nc w) ((s.rv d).toNat % 2 ^ (nr * nc * w)) (ord == .rel)))

/-- LDM (R254). -/
def execLdm (d : MReg) (a : XReg) (ord : LdOrd) (s : State) : Res :=
  .next (s.load1 (if d = 0 then .none else .m d) (s.rx a) 128 8 (ord == .acq) (ord == .inv) false)

/-- STM (R254). -/
def execStm (d : MReg) (a : XReg) (ord : StOrd) (s : State) : Res :=
  .next (s.store1 (s.rx a) 128 8 (s.rmask d).toNat (ord == .rel) false)

/-! ## Atomics (R255-R259) -/

/-- The classes of routes across packages (R259). -/
inductive Route where
  | int | fadd | casq
  deriving DecidableEq, Repr

/-- Does the plane to a GVA's package carry the class (R259)? Within the package every link does. -/
def State.routed (s : State) (r : Route) (g : Word) : Bool :=
  gvaPkg g == s.eid / 4096 || (s.planeClass (s.eid / 4096) (gvaPkg g)).any fun c => c == (match r with
    | .int => 0
    | .fadd => 1
    | .casq => 2)

/-- An atomic of n bytes. -/
def State.amo (s : State) (op : AmoOp) (r : Route) (d a : XReg) (y n : Nat) (ord : AmoOrd) : State :=
  let g := s.rx a
  let red := d == 0 && ord == .plain && (match op with | .cas _ => false | _ => true)
  s.checked (s.check [g] n n true false (s.routed r g) true)
    (s.unlessAhead (s.issueAmo op (y % 2 ^ (8 * n)) (if d = 0 then .none else .x d) (pieces g n) (ord == .acq || ord == .ar)
      (ord == .rel || ord == .ar) red))

def amoBytes (dbl : Bool) : Nat := if dbl then 8 else 4

/-- AMO add (R255). -/
def execAmoAdd (d a b : XReg) (dbl : Bool) (ord : AmoOrd) (s : State) : Res :=
  .next (s.amo .add .int d a (s.rx b).toNat (amoBytes dbl) ord)

/-- AMO and (R255). -/
def execAmoAnd (d a b : XReg) (dbl : Bool) (ord : AmoOrd) (s : State) : Res :=
  .next (s.amo .and .int d a (s.rx b).toNat (amoBytes dbl) ord)

/-- AMO or (R255). -/
def execAmoOr (d a b : XReg) (dbl : Bool) (ord : AmoOrd) (s : State) : Res :=
  .next (s.amo .or .int d a (s.rx b).toNat (amoBytes dbl) ord)

/-- AMO xor (R255). -/
def execAmoXor (d a b : XReg) (dbl : Bool) (ord : AmoOrd) (s : State) : Res :=
  .next (s.amo .xor .int d a (s.rx b).toNat (amoBytes dbl) ord)

/-- AMO min (R255). -/
def execAmoMin (d a b : XReg) (dbl : Bool) (ord : AmoOrd) (s : State) : Res :=
  .next (s.amo .min .int d a (s.rx b).toNat (amoBytes dbl) ord)

/-- AMO max (R255). -/
def execAmoMax (d a b : XReg) (dbl : Bool) (ord : AmoOrd) (s : State) : Res :=
  .next (s.amo .max .int d a (s.rx b).toNat (amoBytes dbl) ord)

/-- AMO minu (R255). -/
def execAmoMinu (d a b : XReg) (dbl : Bool) (ord : AmoOrd) (s : State) : Res :=
  .next (s.amo .minu .int d a (s.rx b).toNat (amoBytes dbl) ord)

/-- AMO maxu (R255). -/
def execAmoMaxu (d a b : XReg) (dbl : Bool) (ord : AmoOrd) (s : State) : Res :=
  .next (s.amo .maxu .int d a (s.rx b).toNat (amoBytes dbl) ord)

/-- AMO swap (R255). -/
def execAmoSwap (d a b : XReg) (dbl : Bool) (ord : AmoOrd) (s : State) : Res :=
  .next (s.amo .swap .int d a (s.rx b).toNat (amoBytes dbl) ord)

/-- AMO fadd (R255). -/
def execAmoFadd (d a b : XReg) (dbl : Bool) (ord : AmoOrd) (s : State) : Res :=
  .next (s.amo .fadd .fadd d a (s.rx b).toNat (amoBytes dbl) ord)

/-- CAS (R256): xd holds the expected value. -/
def execCas (d a b : XReg) (dbl : Bool) (ord : AmoOrd) (s : State) : Res :=
  .next (s.amo (.cas ((s.rx d).toNat % 2 ^ (8 * amoBytes dbl))) .int d a (s.rx b).toNat (amoBytes dbl) ord)

/-- CASQ (R257). -/
def execCasq (d : BitVec 4) (a : XReg) (b : BitVec 4) (ord : AmoOrd) (s : State) : Res :=
  let g := s.rx a
  .next (if d = 0 ∨ b = 0 then s.illegal 0 else
    s.checked (s.check [g] 16 16 true false (s.routed .casq g) true)
      (s.unlessAhead (s.issueAmo (.cas (s.rpair d)) (s.rpair b) (.pair d) (pieces g 16) (ord == .acq || ord == .ar)
        (ord == .rel || ord == .ar) false)))

/-! ## Fences and line operations (R260-R263) -/

/-- A release fence of the strand is kept while a store issued before it is not performed (R231). -/
def State.keepFence (s : State) : State :=
  let c := s.curCore
  s.modCur fun k => { k with fences := (k.fences.filter fun f =>
    c.accs.any (fun a => a.snum == s.snum && a.id < f) || c.side.any fun e => e.snum == s.snum && e.id < f) ++ [s.fresh + 1] }

/-- FENCE (R260): it stands in the order of the strand's accesses and holds back the later ones. -/
def execFence (sc : Scope) (k : FenceKind) (s : State) : Res :=
  .next (s.unlessAhead (if sc = .strand then s else if s.draining then s.retry
    else (if k = .acq then s else s.keepFence).sendAcc (.fence sc k) [] false false false false [] 0))

/-- PF (R261): the line is brought into the requester's slice, if it is a cached line of the own die or of a coherence object of the
package; never a cause. It is exclusive with .w, but for a sector that the host still owns (R238). The line is looked up as for a read
(DESIGN CHOICE, log entry 82). -/
def execPf (a : XReg) (w : Bool) (s : State) : Res :=
  let g := s.rx a
  .next (if missUsed s.curCore.accs ≤ 48 ∧ !isDevice g then
      match s.resolve (s.eid / 32) s.curCore.asid s.arch.wld false g with
      | (t, _, .at_ (.hbm d dpa true)) =>
        let q := Place.hbm d dpa true
        if d = s.eid / 512 ∨ (s.objMet s.curCore.asid g q).isSome ∧ d / 8 = s.eid / 4096 then
          (if w ∧ !t.hostHas q 1 w then t.reachAll (s.eid / 32) s.curCore.asid g q else t.reach (s.eid / 32) s.curCore.asid g q false)
        else t
      | (t, _, _) => t
    else s)

/-- CFL (R262): a store to the line in the strand's order. -/
def execCfl (a : XReg) (s : State) : Res :=
  let g := s.rx a &&& ~~~(127 : Word)
  .next (s.unlessAhead (if s.draining || s.fenced false then s.retry
    else if !s.missFree s.unit.sid 1 then s.missWait
    else s.sendAcc .flush (pieces g 128) false false false false [] 0))

/-- CZERO (R263). -/
def execCzero (a : XReg) (s : State) : Res := .next (s.store1 (s.rx a) 128 128 0 false false)

/-! ## Performance (R233, R250, R264-R267) -/

/-- The new value of an atomic on n bytes (R255, R256); an exact zero sum of fadd is +0. -/
def amoNew (op : AmoOp) (n old y : Nat) : Nat :=
  let m := 2 ^ (8 * n)
  let sg := fun v : Nat => if 2 * v < m then (v : Int) else (v : Int) - m
  match op with
  | .add => (old + y) % m
  | .and => Nat.land old y
  | .or => Nat.lor old y
  | .xor => Nat.xor old y
  | .min => if sg y < sg old then y else old
  | .max => if sg old < sg y then y else old
  | .minu => min old y
  | .maxu => max old y
  | .swap => y
  | .fadd =>
    let r := (fAdd (if n = 4 then .f32 else .f64) .rne old y).1
    if 2 * r = m then 0 else r
  | .cas e => if old = e then y else old

/-- Units of a core that wait to be tried again go on (R220). -/
def State.poke (s : State) (eid : Nat) : State :=
  [0, 1, 2, 3].foldl (fun s i =>
    let k := s.strand (4 * eid + i)
    if k.wait.again then (if k.st = .blocked then s.wake (4 * eid + i)
      else s.modStrand (4 * eid + i) fun k => { k with wait := .none, waited := 0 })
    else s) s

/-- An access has been performed: its miss registers are free, and those who wait for one go on. -/
def State.accDone (s : State) (eid id : Nat) : State :=
  (s.modCore eid fun c => { c with accs := c.accs.filter fun a => a.id != id }).poke eid

/-- The value that a result register receives from the bits of a load. -/
def landVal (dst : LdDst) (v : Nat) (r : Reg) : VecVal :=
  match dst, r with
  | .pair k, .x n => if n.toNat = 2 * k.toNat then BitVec.ofNat 4096 (v % 2 ^ 64) else BitVec.ofNat 4096 (v / 2 ^ 64)
  | _, _ => BitVec.ofNat 4096 v

/-- The strand receives a load's bits. -/
def State.landLoad (s : State) (eid : Nat) (a : Acc) (dst : LdDst) (v : Nat) : State :=
  let sid := 4 * eid + a.snum
  let waits := (s.strand sid).wait == .result a.id
  let s := s.modStrand sid fun k => (k.receive (s.cycleOf sid) a.id (landVal dst v))
  let s := match dst with
    | .refill => if !waits then s else s.modStrand sid fun k => { k with refill := some (BitVec.ofNat 64 v) }
    | _ => s
  if (s.strand sid).why = .access a.id then s.modStrand sid fun k => k.makeReady (s.cycleOf sid) else s

/-- A load or atomic is refused: its destination keeps its value and the strand takes the cause at its next boundary (R264,
R265). -/
def State.refuseAcc (s : State) (eid : Nat) (a : Acc) (code : Nat) (g : Word) : State :=
  let sid := 4 * eid + a.snum
  let s := s.modStrand sid fun k => k.forget (s.cycleOf sid) a.id
  let s := if (s.strand sid).why = .access a.id then s.modStrand sid fun k => k.makeReady (s.cycleOf sid) else s
  (s.postAcc sid code g none a.id).accDone eid a.id

/-- Do open faults still hold an access? -/
def State.accHeld (s : State) (eid id : Nat) : Bool := s.isHeld (· == .accessPerformed eid id)

/-- The access is held at its owner, and a fault is opened for each page that is not mapped (R264). -/
def State.holdAcc (s : State) (eid : Nat) (a : Acc) (gs : List Word) : State :=
  let e := Ev.accessPerformed eid a.id
  let s := s.modCore eid fun c => { c with accs := c.accs.map fun b => if b.id = a.id then { b with held := true } else b }
  gs.foldl (fun s g =>
    if (s.die (gvaDie g)).faults.any fun f => f.isFor a.asid (regionOf g) && f.held.any fun q => q.2 == e then s
    else s.holdEv (4 * eid + a.snum) a.asid g (match a.op with | .amo .. => .atomic | _ => .load) e) s

/-- The lowest of the refusals that a read has met, with its cause (R264, R265): the first byte of the piece that is refused (DESIGN CHOICE,
log entry 84). -/
def lowestRefusal (l : List (Piece × Got)) : Option (Word × Nat) :=
  l.foldl (fun best q =>
    let better := fun (g : Word) (c : Nat) => match best with
      | some (h, _) => if g.toNat < h.toNat then some (g, c) else best
      | none => some (g, c)
    match q.2 with
    | .denied g => better g cAccess
    | .poison g => better g cLoadFault
    | _ => best) none

/-- The pages that a read has found unmapped. -/
def unmappedOf (l : List (Piece × Got)) : List Word :=
  l.filterMap fun q => match q.2 with
    | .unmapped g => some g
    | _ => none

/-- Does a release fence of a strand stand after what it numbered `id`? -/
def State.fencedOff (s : State) (eid n id : Nat) : Bool := (s.strand (4 * eid + n)).fences.any (id < ·)

/-- The writes of others that a read of strand `snum` of core eid returns while they are not performed everywhere (R231): stores in the
core's queue and side log, and stores to coherence objects whose copies on other dies are not all invalidated. With them it takes what
another strand of the core had written or observed before a release fence of its own, and such stores of the die's other cores that their
die has written (DEDUCED, log entry 83). -/
def State.observed (s : State) (eid snum id : Nat) (r : Reader) (ps : List Piece) : List Seen :=
  let near := (r.queue.filter fun o => o.snum != snum && meetsAny o.pieces ps).map fun o => ({ load := id, eid := eid, id := o.id } : Seen)
  let side := (r.side.filter fun e => e.snum != snum && ps.any e.touches).map fun e => ({ load := id, eid := eid, id := e.id } : Seen)
  let objs := ps.filterMap fun p => s.objOf r.asid p.gva
  let far := s.cores.flatMap fun (e, c) => (c.accs.filter fun o => o.written && (o.drops.any objs.contains ||
      e / 512 == eid / 512 && e != eid && s.fencedOff e o.snum o.id)).map
    fun o => ({ load := id, eid := e, id := o.id } : Seen)
  near ++ side ++ far ++ (([0, 1, 2, 3].filter (· != snum)).flatMap fun n =>
    ((s.core eid).accs.filter fun o => o.snum == n && o.isStore && s.fencedOff eid n o.id).map (fun o =>
      ({ load := id, eid := eid, id := o.id } : Seen)) ++
    ((s.core eid).side.filter fun e => e.snum == n && s.fencedOff eid n e.id).map (fun e => ({ load := id, eid := eid, id := e.id } : Seen)) ++
    ((s.strand (4 * eid + n)).seen.filter fun q => s.fencedOff eid n q.load).map fun q => { q with load := id })

/-- A strand has observed the writes that its load returned; those performed since are forgotten. -/
def State.observe (s : State) (eid snum id : Nat) (r : Reader) (ps : List Piece) : State :=
  let l := s.observed eid snum id r ps
  s.modStrand (4 * eid + snum) fun k =>
    { k with seen := (k.seen.filter fun (q : Seen) => s.pending false q.eid q.id) ++ l }

/-- The reader that an access is. -/
def State.accReader (s : State) (eid : Nat) (a : Acc) : Reader :=
  { from_ := eid / 32, asid := a.asid, wld := a.wld, overlay := a.overlay, queue := s.queueFor eid a.snum a.id, side := (s.core eid).side }

/-- The values of an invariant load's pieces (R237). -/
def State.invValues (s : State) (eid : Nat) (a : Acc) (r : Reader) : List (Piece × Got) → State × List (Piece × Got)
  | [] => (s, [])
  | (p, .value v) :: l =>
    let q := s.keepInv eid a.asid a.wld p v
    let u := q.1.invValues eid a r l
    (u.1, (p, .value q.2) :: u.2)
  | q :: l => let u := s.invValues eid a r l; (u.1, q :: u.2)

/-- What a load's reading came to: a refusal is taken, a page that is not mapped holds it, and values land (R264, R265). -/
def State.gotLoad (s : State) (eid : Nat) (a : Acc) (dst : LdDst) (r : Reader) (l : List (Piece × Got)) : State :=
  match lowestRefusal l with
  | some (g, code) => s.refuseAcc eid a code g
  | none =>
    if !(unmappedOf l).isEmpty then s.holdAcc eid a (unmappedOf l)
    else if l.any fun q => q.2 == .wait then s.notYet
    else
      let s := s.observe eid a.snum a.id r a.pieces
      let u := if a.inv then s.invValues eid a r l else (s, l)
      (u.1.landLoad eid a dst (joinValues u.2)).accDone eid a.id

/-- Perform a load (R225, R250, R267). -/
def State.performLoad (s : State) (eid : Nat) (a : Acc) (dst : LdDst) : State :=
  match a.bad with
  | some g =>
    if s.accHeld eid a.id then s.modCore eid fun c => { c with accs := c.accs.map fun b => if b.id = a.id then { b with held := true } else b }
    else s.refuseAcc eid a cLoadFault g
  | none =>
    let r := s.accReader eid a
    if r.blocked a.pieces then s.notYet
    else
      let u := s.readEach r a.pieces
      u.1.gotLoad eid a dst r u.2

/-- A reduction retires into the side log as a store does (R258). -/
def reductionEntry (a : Acc) (op : AmoOp) (y : Nat) (p : Piece) : SideEntry :=
  sideEntry a.id a.snum a.asid a.wld false (some op) p y

/-- The write of an atomic at its place; a compare that fails writes nothing (R256). -/
def State.amoWrite (s : State) (from_ : Nat) (asid : BitVec 16) (op : AmoOp) (y : Nat) (p : Piece) (q : Place) : State :=
  let old := s.readAt q p.len
  let s := s.reachAll from_ asid p.gva q
  if (match op with | .cas e => old != e | _ => false) then s
  else (s.writeAt q p.len (s.storeBytes q p.len (amoNew op p.len old y))).noticed q p.len

/-- Perform an atomic at its place, its read and write in one step (R233). -/
def State.performAmo (s : State) (eid : Nat) (a : Acc) (op : AmoOp) (y : Nat) (dst : LdDst) (red : Bool) : State :=
  match a.pieces with
  | [p] =>
    let e := reductionEntry a op y p
    let out := fun (s r : State) => if sideRoom (s.core eid).side e then r.accDone eid a.id else s.notYet
    if a.bad.isSome then s.refuseAcc eid a cLoadFault p.gva
    else if red && sideRegion (s.core eid).side p.gva then out s (s.retire eid e p.gva)
    else if s.heldAt (eid / 32) a.asid p.gva then (s.rouse (eid / 32) a.asid p.gva).notYet
    else
      match s.resolve (eid / 32) a.asid a.wld true p.gva with
      | (s, _, .unmapped) => if red then out s (s.retire eid e p.gva) else s.holdAcc eid a [p.gva]
      | (s, pg, .at_ q) =>
        if s.poisoned q p.len then s.refuseAcc eid a cLoadFault p.gva
        else if s.dirtyFull eid a.asid pg then (s.once (.dirtyLogMerge eid)).notYet
        else if s.hostHas q p.len true then s.notYet
        else
          let old := s.readAt q p.len
          let s := s.observe eid a.snum a.id (plainReader (eid / 32) a.asid a.wld) a.pieces
          let s := match pg with
            | some pg => (s.dirtyLog eid a.asid pg).countWrite a.asid pg (eid / 512 % 8)
            | none => s
          ((s.amoWrite (eid / 32) a.asid op y p q).landLoad eid a dst old).accDone eid a.id
      | (s, _, .poison) => s.refuseAcc eid a cLoadFault p.gva
      | (s, _, _) => if red then out s (s.retireDenied eid e) else s.refuseAcc eid a cAccess p.gva
  | _ => s.accDone eid a.id

/-- Perform a store: pieces that cannot be written yet stay with it; once its own die has written it, the copies of coherence objects
on the other dies are still to be invalidated (R236). -/
def State.performStore (s : State) (eid : Nat) (a : Acc) (data : Nat) : State :=
  if a.written then
    (a.drops.foldl (fun s o => s.dropShared (if o.1 / 8 = eid / 4096 then eid / 512 else o.1) o) s).accDone eid a.id
  else
    match s.storePieces eid a [] a.drops data a.pieces with
    | (s, [], _, []) => s.accDone eid a.id
    | (s, left, d, drops) =>
      (s.modCore eid fun c => { c with accs := c.accs.map fun b =>
        if b.id = a.id then { b with pieces := left, op := .store d, lines := max (if left.isEmpty then b.lines else 0)
                                       (s.linesOf eid a.asid left), drops := drops } else b }).notYet

/-- Perform a CFL (R262): every copy of the line is written back and invalidated; the host's sectors are recalled first. The page needs
the permission of a read (DESIGN CHOICE, log entry 82). -/
def State.performFlush (s : State) (eid : Nat) (a : Acc) : State :=
  match a.pieces with
  | p :: _ =>
    (match (s.resolve (eid / 32) a.asid a.wld false p.gva).2.2 with
     | .at_ (.hbm d dpa true) =>
       if d / 8 = eid / 4096 then
         (if s.hostHas (.hbm d dpa true) 128 true then s.notYet
          else ((s.shedLine d dpa).dropLine d dpa).accDone eid a.id)
       else s.accDone eid a.id
     | _ => s.accDone eid a.id)
  | [] => s.accDone eid a.id

/-- An access is performed, by its kind. -/
def State.performAcc (s : State) (eid : Nat) (a : Acc) : State :=
  match a.op with
  | .load dst => s.performLoad eid a dst
  | .store data => s.performStore eid a data
  | .amo op y dst red => s.performAmo eid a op y dst red
  | .fence .. => s.accDone eid a.id
  | .flush => s.performFlush eid a

/-- Does an access go to another agent as a message: a place of another die or package, or the SRAM of another core's tile (R33)? -/
def State.remote (s : State) (eid : Nat) (a : Acc) : Bool :=
  a.pieces.any fun p => !isDevice p.gva && (gvaPkg p.gva != eid / 4096 || gvaDie p.gva != eid / 512 || s.ownerOf a.asid eid p.gva != eid)

/-- ACCESS_PERFORMED: the place of execution performs an access (R220, R224, R250), in the order its strand's rules allow. What a core
memory agent of a stale generation sends to another agent is dropped and counted (R334, R382). -/
def execAccessPerformed (eid acc : Nat) (s : State) : Res :=
  .next (match (s.core eid).accs.find? fun a => a.id == acc with
  | none => s
  | some a =>
    if a.held then s
    else if !s.mayPerform eid a then s.notYet
    else if s.remote eid a then s.speaks (eid / 512) (coreAgent eid) fun s => s.performAcc eid a
    else s.performAcc eid a)

/-! ## The holding buffer and the side log -/

/-- Runs of set bits of a mask as (offset, length), from bit i on. -/
def runs (m : BitVec 16) : Nat → Nat → Option Nat → List (Nat × Nat)
  | 0, i, some st => [(st, i - st)]
  | 0, _, none => []
  | k + 1, i, cur =>
    if m.getLsbD i then runs m k (i + 1) (some (cur.getD i))
    else match cur with
      | some st => (st, i - st) :: runs m k (i + 1) none
      | none => runs m k (i + 1) none

/-- The pieces of a granule's bytes with their data: the runs of set bits, or each sub-byte element by itself. -/
def maskPieces (g : Word) (mask : BitVec 16) (data : Nat) (nib : Option Bool) : List (Piece × Nat) :=
  match nib with
  | none => (runs mask 16 0 none).map fun (o, n) =>
      (({ gva := g + BitVec.ofNat 64 o, len := n, nib := none } : Piece), data / 256 ^ o % 256 ^ n)
  | some hi => ((List.range 16).filter fun i => mask.getLsbD i).map fun o =>
      (({ gva := g + BitVec.ofNat 64 o, len := 1, nib := some hi } : Piece),
        ({ gva := g, len := 1, nib := some hi } : Piece).pick (data / 256 ^ o % 256))

/-- HELD_STORE_DRAIN (R195): the oldest held store of a confirmed path is performed as a store issued now, when a miss register is
free. -/
def execHeldStoreDrain (sid : Nat) (s : State) : Res :=
  let k := s.strand sid
  let eid := sid / 4
  .next (match k.hold with
  | h :: r =>
    let l := maskPieces h.gva h.mask h.data.toNat h.nib
    let ps := l.map (·.1)
    let n := s.linesOf eid h.asid ps
    if !h.sure then s
    else if !s.missFree sid n then s.notYet
    else
      let id := s.fresh + 1
      let a : Acc := { id := id, snum := sid % 4, op := .store (joinValues (l.map fun q => (q.1, .value q.2))), pieces := ps,
                       asid := h.asid, wld := h.wld, user := k.arch.prv == 0, acq := false, rel := h.rel, strong := false, lines := n,
                       held := false, overlay := [], bad := none, inv := false, drops := [] }
      let s := ({ s with fresh := id }.modStrand sid fun k => { k with hold := r }).modCore eid fun c =>
        { c with accs := c.accs ++ [a] }
      let s := (s.later (.accessPerformed eid id)).poke eid
      if (r.headD { h with sure := false }).sure then s.later (.heldStoreDrain sid) else s
  | [] => s)

/-- SIDE_LOG_RETIRE (R266): a store returned for an unmapped page retires into the core's side log. -/
def execSideLogRetire (sid : Nat) (gva : Word) (size data : Nat) (rel : Bool) (s : State) : Res :=
  let eid := sid / 4
  let c := s.core eid
  .next (match pieces gva size with
    | p :: _ =>
      let e := sideEntry s.fresh (sid % 4) c.asid (s.strand sid).arch.wld rel none p data
      if sideRoom c.side e then s.retire eid e gva else s.notYet
    | [] => s)

/-- The pieces of a side-log entry with their data (R268). -/
def sidePieces (e : SideEntry) : List (Piece × Nat) :=
  (List.range 8).flatMap fun k =>
    maskPieces (e.line + BitVec.ofNat 64 (16 * k)) (BitVec.ofNat 16 (e.mask.toNat / 2 ^ (16 * k)))
      (e.data.toNat / 256 ^ (16 * k) % 256 ^ 16) e.nib

/-- Perform one side-log entry as a store issued now (R268); a reduction of a poisoned granule is refused (R204). -/
def State.replayEntry (s : State) (eid : Nat) (e : SideEntry) : State × Got :=
  match e.red with
  | none =>
    s.coreStore eid e.asid e.wld (joinValues ((sidePieces e).map fun q => (q.1, .value q.2))) ((sidePieces e).map (·.1))
  | some op =>
    match sidePieces e with
    | (p, y) :: _ =>
      if s.heldAt (eid / 32) e.asid p.gva then (s.rouse (eid / 32) e.asid p.gva, .wait)
      else (match s.resolve (eid / 32) e.asid e.wld true p.gva with
       | (s, pg, .at_ q) =>
         if s.poisoned q p.len then (s, .poison p.gva)
         else if s.hostHas q p.len true then (s, .wait)
         else if s.dirtyFull eid e.asid pg then (s.once (.dirtyLogMerge eid), .wait)
         else
           let s := match pg with
             | some pg => (s.dirtyLog eid e.asid pg).countWrite e.asid pg (eid / 512 % 8)
             | none => s
           (s.amoWrite (eid / 32) e.asid op y p q, .value 0)
       | (s, _, .unmapped) => (s, .unmapped p.gva)
       | (s, _, .poison) => (s, .poison p.gva)
       | (s, _, _) => (s, .denied p.gva))
    | [] => (s, .value 0)

/-- DIRTY_LOG_MERGE (R357): the log's entries are merged into page-table entries: D is set in each leaf, and the log is empty. -/
def execDirtyLogMerge (eid : Nat) (s : State) : Res :=
  let c := s.core eid
  let asid := c.asid
  .next (((List.range c.dirtyN).foldl (fun s i =>
    let t := Place.tile (eid / 512) (eid / 32 % 16) (eid / 2 % 16) (0xFE000 + 0x1000 * (eid % 2) + 8 * i) 6
    let e : Word := BitVec.ofNat 64 (s.readAt t 8)
    match s.walk (gvaDie e) asid (gvaOff (e &&& ~~~(0xFFFF : Word))) with
    | some l => s.setHbm64 (gvaDie e) l.at_ (putBit l.word 6 true)
    | none => s) s).modCore eid fun c => { c with dirtyN := 0 })

end Sys2Proof.Machine
end

