-- ==== Sys2Proof/Machine/Jobs.lean ====
section
/-!
DEFINITION. Jobs: the fields of the launch packet (R360), members (R62, R170), what a strand has outstanding, and the Catalogue
area of a job (R385).
-/
namespace Sys2Proof.Machine

open Sys2Proof

def State.job (s : State) (j : Nat) : Option Job := Map.find s.jobs j
def State.setJob (s : State) (j : Nat) (b : Job) : State := { s with jobs := Map.put s.jobs j b }
def State.modJob (s : State) (j : Nat) (f : Job → Job) : State :=
  match s.job j with
  | some b => s.setJob j (f b)
  | none => s

/-! ## The launch packet (R360) -/

def pktPrio (l : List Word) : Nat := field (l.getD 0 0) 16 2
def pktNp (l : List Word) : Bool := (l.getD 0 0).getLsbD 22
def pktPe (l : List Word) : Bool := (l.getD 0 0).getLsbD 23
def pktW (l : List Word) : Nat := field (l.getD 0 0) 24 8
def pktN (l : List Word) : Nat := field (l.getD 0 0) 32 32
def pktJobid (l : List Word) : Nat := field (l.getD 1 0) 0 32
def pktAsid (l : List Word) : Nat := field (l.getD 1 0) 32 16
def pktWld (l : List Word) : Bool := (l.getD 1 0).getLsbD 48
def pktPair (l : List Word) : Bool := (l.getD 1 0).getLsbD 56
def pktEntry (l : List Word) : Word := l.getD 2 0
def pktTmpl (l : List Word) : Word := l.getD 3 0
def pktDonea (l : List Word) : Word := l.getD 4 0
def pktDonev (l : List Word) : Word := l.getD 5 0
def pktGrace (l : List Word) : Nat := if field (l.getD 6 0) 0 32 = 0 then 100 else field (l.getD 6 0) 0 32
def pktNpkg (l : List Word) : Nat := field (l.getD 6 0) 32 16
def pktPkgl (l : List Word) : Word := l.getD 7 0

/-! ## Members (R62, R170) -/

def Job.w (b : Job) : Nat := pktW b.words
def Job.asid (b : Job) : BitVec 16 := BitVec.ofNat 16 (pktAsid b.words)
/-- Members are numbered LCN*w + SNUM. -/
def Job.members (b : Job) : List Nat := List.range (b.cores.length * b.w)
def Job.sidOf (b : Job) (m : Nat) : Nat := 4 * b.cores.getD (m / b.w) 0 + m % b.w
def Job.pkgs (b : Job) : List Nat := (b.cores.map (· / 4096)).eraseDups
def Job.diesOf (b : Job) (p : Nat) : List Nat := ((b.cores.filter fun e => e / 4096 == p).map (· / 512)).eraseDups
def Job.onDie (b : Job) (d : Nat) : List Nat := b.members.filter fun m => b.sidOf m / 2048 == d
/-- The members of a crew: the workers of the job in a cluster (R22, R186). -/
def Job.crew (b : Job) (clu : Nat) : List Nat := b.members.filter fun m => b.sidOf m / 128 == clu

/-- The job that a core is granted to. -/
def State.jobOf (s : State) (eid : Nat) : Option Job := (s.core eid).job.bind s.job
def State.jobNo (s : State) (eid : Nat) : Nat := (s.core eid).job.getD 0

/-- Does the job of a core hold both cores of a tile (R109, R348)? -/
def State.holdsTile (s : State) (eid tile : Nat) : Bool :=
  (s.core eid).job.isSome && (s.core (2 * tile)).job == (s.core eid).job && (s.core (2 * tile + 1)).job == (s.core eid).job

/-! ## What a strand has outstanding -/

/-- Has a strand an access, a side-logged store, or a post, clear or ring advance, that is not performed yet, or has it observed a write
that is not (R231)? -/
def State.owes (s : State) (sid : Nat) : Bool :=
  let c := s.core (sid / 4)
  c.accs.any (fun a => a.snum == sid % 4) || c.side.any (fun e => e.snum == sid % 4) || !(s.strand sid).hold.isEmpty ||
    !(s.strand sid).owed.isEmpty || s.seenOpen sid (s.fresh + 1) false

/-- A unit that is a release waits until everything the strand has issued before is performed (R232, R244). -/
def State.release (s : State) (t : State) : State :=
  if s.owes s.unit.sid then s.retry else t

/-! ## Guards of engine commands (R177-R179, R192) -/

/-- Commands that wait on a slot of a strand are released or discarded. -/
def State.resolveSlot (s : State) (sid : Nat) (g : BitVec 4) (v : Bool) : State :=
  s.modStrand sid fun k => { k with gcmds := k.gcmds.map (GuardedCmd.onSlot g v) }

/-- The verdict on a command: `some true` lets it run. A command without a record runs. -/
def Strand.verdict (k : Strand) (key : Nat) : Option Bool :=
  match k.gcmds.find? fun (c : GuardedCmd) => c.key == key with
  | none => some true
  | some c => c.verdict

/-- The record of a command that leaves its inbox head goes. Its combined guard resolves with its verdict, for the commands that wait
on that slot, and is FREE (R192). A slot that a CBR has claimed since is the CBR's (log entry 65). -/
def Strand.dropGuard (k : Strand) (key : Nat) : Strand :=
  let l := k.gcmds.filter fun (c : GuardedCmd) => c.key != key
  match k.gcmds.find? fun (c : GuardedCmd) => c.key == key with
  | some c => (match c.comb with
    | some f => { k with arch := k.arch.setG f .free, gcmds := l.map (GuardedCmd.onSlot f (c.verdict == some true)) }
    | none => { k with gcmds := l })
  | none => { k with gcmds := l }

/-! ## The Catalogue area (R370, R385) -/

/-- The GVA of an ASID's Catalogue area, in the root table of a die. -/
def State.catg (s : State) (d : Nat) (asid : BitVec 16) : Word := s.hbm64 d (TA + 0x100000 + 32 * asid.toNat + 8)

/-- The place of a byte of a table in a job's address space, whatever R and W say. -/
def State.areaPlace (s : State) (asid : BitVec 16) (g : Word) : Option Place :=
  match (s.findPage asid g).2 with
  | none => none
  | some p => s.pagePlace p g

def State.areaRead (s : State) (asid : BitVec 16) (g : Word) (n : Nat) : Nat :=
  match s.areaPlace asid g with
  | some q => s.readAt q n
  | none => 0

def State.areaWrite (s : State) (asid : BitVec 16) (g : Word) (n v : Nat) : State :=
  match s.areaPlace asid g with
  | some q => s.writeAt q n v
  | none => s

/-- The swap of R395 at the resolution of a GBAR: each entry with its SWAP bit takes its next version, and the dies drop it from
their Catalogue caches. -/
def State.catSwap (s : State) (d : Nat) (dies : List Nat) (asid : BitVec 16) : State :=
  let a := s.catg d asid
  if a = 0 then s
  else
    let bits := s.areaRead asid (a + 0x8000) 32
    let s := (List.range 256).foldl (fun s e =>
      if bits / 2 ^ e % 2 = 1 then
        let v := a + 0x8040 + BitVec.ofNat 64 (2 * e)
        s.areaWrite asid v 2 ((s.areaRead asid v 2 + 1) % 65536)
      else s) s
    let s := s.areaWrite asid (a + 0x8000) 32 0
    dies.foldl (fun s e => s.modDie e fun k => { k with cat := k.cat.filter fun (c : CatEntry) =>
                                                   !(c.asid == asid && bits / 2 ^ c.e % 2 == 1) }) s

end Sys2Proof.Machine
end

