-- ==== Sys2Proof/Machine/Units.lean ====
section
/-!
DEFINITION. What several units and events share: reads of memory that a unit makes for itself, steps held by an open fault
(R264, R374), single reads and writes of words in a job's space, and JoinInc and JoinDec (R306).
-/
namespace Sys2Proof.Machine

open Sys2Proof

/-- The strand of the unit in hand is HELD at an unmapped page that the unit itself reads or writes (R264), and the unit issues
again; a page that the service has refused gives LOAD_FAULT. `k` is the kind of the request. -/
def State.heldUnitBy (s : State) (k : FaultKind) (g : Word) : State :=
  if s.cur.refused.any fun r => regionOf r == regionOf g then s.refusal cLoadFault g
  else (s.waits.modCur fun k => { k with st := .held, prior := .active, why := .unit g }).once (.faultOpen s.unit.sid g k)

def State.heldUnit (s : State) (g : Word) : State := s.heldUnitBy .load g

/-! ## Reads of a unit -/

/-- Has the strand of the unit in hand accesses that are not performed yet? -/
def State.busyAccs (s : State) : Bool := s.curCore.accs.any fun (a : Acc) => a.snum == s.snum

/-- The reader that a unit's own load is. -/
def State.unitReader (s : State) : Reader := s.coreReader s.eid s.snum s.curCore.asid s.arch.wld

/-- What a unit's own plain load of n bytes finds; a page that the service has refused reads as a refusal. The strand has observed the
writes whose bytes it gives (R231). -/
def State.unitRead (s : State) (g : Word) (n : Nat) : State × Got :=
  match s.cur.refused.filter fun r => (r - g).toNat < n with
  | some r => (s.modCur fun k => { k with refused := none }, .poison r)
  | none => match s.readPieces s.unitReader (pieces g n) with
    | (t, .value v) => (t.observe s.eid s.snum t.fresh s.unitReader (pieces g n), .value v)
    | q => q

/-- Are the miss registers free that a unit's own read or write of n bytes takes (R220)? -/
def State.unitFree (s : State) (g : Word) (n : Nat) : Bool := s.missFree s.unit.sid (s.linesOf s.eid s.curCore.asid (pieces g n))

/-- A unit's own plain load of n bytes, of a kind (R374): `f` goes on with its bits; a refusal or poison raises LOAD_FAULT, a denial
ACCESS. -/
def State.withReadBy (s : State) (k : FaultKind) (g : Word) (n : Nat) (f : State → Nat → State) : State :=
  if s.busyAccs then s.retry
  else if !s.unitFree g n then s.missWait
  else
    match s.unitRead g n with
    | (s, .value v) => f s v
    | (s, .unmapped w) => s.heldUnitBy k w
    | (s, .denied w) => s.refusal cAccess w
    | (s, .poison w) => s.refusal cLoadFault w
    | (s, .wait) => s.retry

def State.withRead (s : State) (g : Word) (n : Nat) (f : State → Nat → State) : State := s.withReadBy .load g n f

/-- A unit's own plain load of n bytes with the checks of its issue (R208, R240, R248). -/
def State.unitLoad (s : State) (g : Word) (n : Nat) (f : State → Nat → State) : State :=
  s.checked (s.check [g] n 8 false false true true) (s.withRead g n f)

/-- A place that a unit writes: GVA, bytes and bits. -/
structure UnitStore where
  gva : Word
  len : Nat
  bits : Nat
  deriving DecidableEq, Repr

/-- The data of a unit's writes, the first lowest. -/
def UnitStore.data : List UnitStore → Nat
  | [] => 0
  | w :: r => w.bits % 256 ^ w.len + 256 ^ w.len * UnitStore.data r

/-- A unit's own writes, once its strand's accesses are performed: all of them, or none where one cannot be made yet or is refused. -/
def State.withStores (s : State) (l : List UnitStore) (f : State → State) : State :=
  let ps := l.flatMap fun w => pieces w.gva w.len
  if !s.missFree s.unit.sid (s.linesOf s.eid s.curCore.asid ps) then s.missWait
  else match s.coreStore s.eid s.curCore.asid s.arch.wld (UnitStore.data l) ps with
    | (t, .value _) => f t
    | (_, .unmapped w) => s.heldUnit w
    | (_, .denied w) => s.refusal cAccess w
    | (_, .poison w) => s.refusal cLoadFault w
    | (t, .wait) => (if 512 ≤ (t.core s.eid).dirtyN then s.once (.dirtyLogMerge s.eid) else s).retry

/-- A unit's own write of n bytes. -/
def State.withWrite (s : State) (g : Word) (n v : Nat) (f : State → State) : State := s.withStores [⟨g, n, v⟩] f

/-- Wait n cycles before the unit is tried again. -/
def State.pollIn (s : State) (n : Nat) : State :=
  ((s.block .sync).modCur fun k => { k with poll := some (s.unit.now + n) }).once (.syncPoll s.unit.sid)

/-! ## Frames (R304, R306) -/

/-- The GVA of the frame that FRAME, or the FR of a record, names. -/
def frameOf (fr : Word) : Word := fr &&& ~~~(0xFF : Word)
/-- FRAME.OWN and FRAME.INL (R305). -/
def frameOwn (fr : Word) : Bool := fr.getLsbD 0
def frameInl (fr : Word) : Bool := fr.getLsbD 1

/-- What an increment or decrement of a frame finds at its place. -/
inductive FramePlace where
  | none
  | at_ (p : Place) (pg : Option Page)
  | unmapped
  | bad (code : Nat)
  | wait
  deriving DecidableEq, Repr

/-- The place of a frame's first word for an atomic from core eid (R306). -/
def State.framePlace (s : State) (eid : Nat) (asid : BitVec 16) (wld : Bool) (f : Word) : State × FramePlace :=
  if f = 0 then (s, .none)
  else if s.noDie (eid / 4096) (gvaDie f) then (s, .bad cAccess)
  else if s.heldAt (eid / 32) asid f then (s.rouse (eid / 32) asid f, .wait)
  else match s.resolve (eid / 32) asid wld true f with
    | (s, pg, .at_ p) =>
      if s.poisoned p 8 then (s, .bad cLoadFault)
      else if s.hostHas p 8 true then (s, .wait)
      else if s.dirtyFull eid asid pg then (s.once (.dirtyLogMerge eid), .wait)
      else (s, .at_ p pg)
    | (s, _, .unmapped) => (s, .unmapped)
    | (s, _, .poison) => (s, .bad cLoadFault)
    | (s, _, _) => (s, .bad cAccess)

/-- Write a frame's first word as an atomic from core eid. -/
def State.frameWrite (s : State) (eid : Nat) (asid : BitVec 16) (f : Word) (p : Place) (pg : Option Page) (n v : Nat) : State :=
  let s := match pg with
    | some pg => (s.dirtyLog eid asid pg).countWrite asid pg (eid / 512 % 8)
    | none => s
  (s.reachAll (eid / 32) asid f p).writeAt p n v

/-- JoinInc (R306): an atomic add of 1 to JOIN at a place already found. -/
def State.joinInc (s : State) (eid : Nat) (asid : BitVec 16) (wld : Bool) (f : Word) : State :=
  match s.framePlace eid asid wld f with
  | (s, .at_ p pg) => s.frameWrite eid asid f p pg 4 ((s.readAt p 4 + 1) % 2 ^ 32)
  | (s, _) => s

/-- The FST word of a frame (R304). -/
def fstWait (f : Nat) : Bool := f / 4 % 2 == 1
def fstPark (f : Nat) : Bool := f / 2 % 2 == 1
def fstSid (f : Nat) : Nat := f / 2 ^ 10 % 2 ^ 22 * 4 + f / 2 ^ 8 % 4

/-- A strand's SYNC wait ends (R306). -/
def State.endSync (s : State) (sid : Nat) : State :=
  let s := s.setEv sid
  if (s.strand sid).wait = .sync then (s.modStrand sid fun k => { k with poll := none }).wake sid else s

/-! ## Agents' generations (R382, R383) -/

/-- A stale message is dropped, and its agent is answered with RESET_AGENT (R384). -/
def State.dropStale (s : State) (m : Msg) : State := (s.dropGen (m.src / 512)).once (.resetAgent (m.src / 512) (coreAgent m.src))

/-- Is a message stale: its generation is not the one in its agent's entry (R382)? -/
def State.stale (s : State) (m : Msg) : Bool := s.genTable (m.src / 512) (coreAgent m.src) != m.gen

/-- Is a message's KIND reserved (R334)? -/
def unknownKind (m : Msg) : Bool :=
  match m.kind with
  | .reserved _ => true
  | _ => false

/-- The answer to a request (R334): OPC holds a cause's code, or 0; the answering agent stamps its own generation. -/
def State.answer (s : State) (m : Msg) (code a0 : Nat) : Msg :=
  { m with dest := m.src, src := m.dest, kind := .reply, gen := s.ownGen (m.dest / 512) (coreAgent m.dest), opc := BitVec.ofNat 16 code,
           a0 := BitVec.ofNat 64 a0 }

/-- An answer is on its way. -/
def State.answers (s : State) (m : Msg) (code a0 : Nat) : State := s.later (.reply (s.answer m code a0))

/-- The intrinsic handler at an offset of the handler page (R210). -/
def intrinsic (off : Nat) : Word := BitVec.ofNat 64 (0x7FFFFFFFF0000 + off)

/-- The EID that a join decrement of a frame names (R33): the core whose tile holds the frame, or the first of the frame's die where that
lies on another package (R434). -/
def State.frameOwner (s : State) (asid : BitVec 16) (eid : Nat) (g : Word) : Nat :=
  let e := s.ownerOf asid eid g
  if e = eid ∧ gvaPkg g ≠ eid / 4096 then gvaDie g * 512 else e

/-- JOIN_DECREMENT (R306): one indivisible step on the frame's first 8 bytes. -/
def execJoinDecrement (m : Msg) (s : State) : Res :=
  .next (if unknownKind m then s.dropGen (m.src / 512)
  else if s.stale m then s.dropStale m
  else match s.framePlace m.src m.asid m.wld m.addr with
  | (s, .none) => s.answers m 0 0
  | (s, .wait) => s.notYet
  | (s, .unmapped) => s.holdEv (4 * m.src + m.ssn) m.asid m.addr .atomic (.joinDecrement m)
  | (s, .bad code) => s.answers m code 0
  | (s, .at_ p pg) =>
    let w := s.readAt p 8
    let j := (w % 2 ^ 32 + (2 ^ 32 - 1)) % 2 ^ 32
    let f := w / 2 ^ 32
    let woken := j == 0 && fstWait f
    let parked := j == 0 && fstPark f
    let f' := f - (if woken then 4 else 0) - (if parked then 2 else 0)
    let s := s.frameWrite m.src m.asid m.addr p pg 8 (j + 2 ^ 32 * f')
    let s := if woken then s.endSync (fstSid f) else s
    s.answers m 0 (if parked then 1 else 0))

/-- An empty request from the unit in hand to a place of memory. -/
def State.request (s : State) (g : Word) : Msg :=
  { dest := s.eid, src := s.eid, asid := s.curCore.asid, wld := s.arch.wld, kind := .request,
    gen := s.ownGen (s.eid / 512) (coreAgent s.eid), guard := 0, ssn := s.snum,
    tag := none, seq := s.fresh, opc := 0, addr := g, ha := 0, a0 := 0, a1 := 0, a2 := 0, a3 := 0 }

/-- A request of the unit in hand with its next number: `f` goes on with the state and the message. -/
def State.numbered (s : State) (m : Msg) (f : State → Msg → State) : State :=
  f s.bump { m with seq := s.fresh + 1 }

/-- The reply to a join decrement reaches the strand that waits for it. -/
def State.askReply (s : State) (m : Msg) : State :=
  let sid := 4 * m.dest + m.ssn
  if (s.strand sid).ask.any fun a => a.id == m.seq then
    let s := s.modStrand sid fun k => { k with ask := k.ask.map fun a => { a with reply := some (m.opc.toNat, m.a0 == 1) } }
    if (s.strand sid).wait = .reply then
      (if (s.strand sid).st = .blocked then s.wake sid
       else s.modStrand sid fun k => { k with wait := .none, waited := 0 })
    else s
  else s

/-- Wait, as for a load, for the reply of a join decrement. -/
def State.awaitReply (s : State) : State := s.waits.modCur fun k => { k with wait := .reply }

/-- The cause that a refused join decrement raises at its unit (R313, R408). -/
def State.badReply (s : State) (code : Nat) (t : Word) : State := s.refusal code t

end Sys2Proof.Machine
end

