-- ==== Sys2Proof/Machine/Collective.lean ====
section
/-!
DEFINITION. Collective branches and votes, barriers and guards (R170-R201): the instructions, the reduction and its stages, and
the outcome at a member.
-/
namespace Sys2Proof.Machine

open Sys2Proof

/-! ## Lanes (R172, R174) -/

def kindCode : CollKind → Nat
  | .cbr => 0 | .cvoteAnd => 1 | .cvoteOr => 2 | .cmem => 3 | .gbar => 4

/-- A member's lanes. -/
def lanesOf (k : CollKind) (tag : BitVec 4) (seq : BitVec 16) (p : Bool) : Lanes :=
  let site := BitVec.ofNat 7 (kindCode k * 16 + tag.toNat)
  { seqAnd := seq, seqOr := seq, siteAnd := site, siteOr := site, pAnd := p, pOr := p, dOr := false }

/-- A departure's identities, with 1 in the OR of D. -/
def lanesGone : Lanes :=
  { seqAnd := 0xFFFF, seqOr := 0, siteAnd := 0x7F, siteOr := 0, pAnd := true, pOr := false, dOr := true }

/-- Nothing received yet. -/
def lanesUnit : Lanes := { lanesGone with dOr := false }

/-- One stage of the reduction. -/
def lanesMeet (a b : Lanes) : Lanes :=
  { seqAnd := a.seqAnd &&& b.seqAnd, seqOr := a.seqOr ||| b.seqOr, siteAnd := a.siteAnd &&& b.siteAnd,
    siteOr := a.siteOr ||| b.siteOr, pAnd := a.pAnd && b.pAnd, pOr := a.pOr || b.pOr, dOr := a.dOr || b.dOr }

/-- A mismatch (R174). -/
def lanesClash (l : Lanes) : Bool := l.seqAnd != l.seqOr || l.siteAnd != l.siteOr

/-! ## The reduction (R173) -/

/-- Is a collective open? -/
def Coll.isOpen (c : Coll) : Bool := !c.got.isEmpty

/-- Has every member on a die contributed or departed? -/
def Job.dieReady (b : Job) (d : Nat) : Bool :=
  (b.onDie d).all fun m => (Map.find b.coll.got m).isSome || b.departed.contains m

/-- The lanes of a die: those of its members, and a departure for one that left before it contributed (R198). -/
def Job.dieLanes (b : Job) (d : Nat) : Lanes :=
  (b.onDie d).foldl (fun l m => lanesMeet l (match Map.find b.coll.got m with
    | some x => x
    | none => lanesGone)) lanesUnit

/-- Have all dies of a package sent their lanes? A die that every member has left has nothing to wait for. -/
def Job.pkgReady (b : Job) (p : Nat) : Bool :=
  (b.diesOf p).all fun d => (Map.find b.coll.dies d).isSome || (b.onDie d).all fun m => b.departed.contains m

/-- The key under which a package's combining die keeps the lanes of a gang that has been saved (R200). -/
def keptKey (p : Nat) : Nat := 2 ^ 40 + p

/-- The lanes of a package at its combining die, with those that it kept. -/
def Job.pkgLanes (b : Job) (p : Nat) : Lanes :=
  (b.diesOf p).foldl (fun l d => lanesMeet l ((Map.find b.coll.dies d).getD (b.dieLanes d)))
    ((Map.find b.coll.got (keptKey p)).getD lanesUnit)

/-- Q: the plane, and the combining die Q/9, of a gang (R173). -/
def State.gangPlane (s : State) (b : Job) : Nat := b.mbset.toNat % (if b.pkgs.any fun p => (s.pkg p).half then 36 else 72)

/-- A die whose members have all contributed sends its lanes. -/
def State.dieCheck (s : State) (j d : Nat) : State :=
  match s.job j with
  | some b => if b.coll.isOpen && b.dieReady d && (Map.find b.coll.dies d).isNone then s.once (.dieLanes j d) else s
  | none => s

/-- The lanes of a gang: those of its one package, or what the plane makes of its packages'. -/
def Job.gangLanes (b : Job) : Lanes :=
  match b.pkgs with
  | [p] => b.pkgLanes p
  | l => l.foldl (fun l p => lanesMeet l (b.pkgLanes p)) lanesUnit

/-- The first byte that the swap of a GBAR would find on an unmapped page of the Catalogue area. -/
def State.swapFault (s : State) (d : Nat) (asid : BitVec 16) : Option Word :=
  let a := s.catg d asid
  if a = 0 then none else [a + 0x8000, a + 0x8040, a + 0x823E].find? fun g => (s.areaPlace asid g).isNone

/-- The collective is resolved: every member that has not departed receives the result; a GBAR without mismatch swaps the
Catalogue first (R173, R195, R395), and waits for a page of its area that is unmapped (R374). -/
def State.resolveColl (s : State) (j : Nat) (b : Job) : State :=
  let l := b.gangLanes
  let swaps := !lanesClash l && l.siteAnd == 0x40
  let e := b.cores.headD 0
  match if swaps then s.swapFault (e / 512) b.asid else none with
  | some g => s.holdEv (4 * e) b.asid g .table (.planeReduction j)
  | none =>
    let s := if swaps then s.catSwap (e / 512) (b.cores.map (· / 512)).eraseDups b.asid else s
    let alive := b.members.filter fun m => !b.departed.contains m
    let s := s.setJob j { b with coll := { got := [], dies := [] }, results := alive.foldl (fun r m => Map.put r m l) b.results }
    alive.foldl (fun s m => s.later (.collectiveOutcome (b.sidOf m))) s

/-- A package may be complete: a gang on one package resolves, others go to their plane. -/
def State.pkgCheck (s : State) (j : Nat) : State :=
  match s.job j with
  | some b =>
    if b.coll.isOpen && b.pkgs.all b.pkgReady then
      (match b.pkgs with
       | [_] => s.resolveColl j b
       | _ => s.once (.planeReduction j))
    else s
  | none => s

/-- COLLECTIVE_CONTRIBUTION (R173): a contribution reaches the Meridian unit of its member's die. -/
def execCollectiveContribution (job member : Nat) (l : Lanes) (s : State) : Res :=
  .next (match s.job job with
  | none => s
  | some b =>
    (s.setJob job { b with coll := { b.coll with got := Map.put b.coll.got member l } }).dieCheck job (b.sidOf member / 2048))

/-- DIE_LANES (R173): a die's lanes reach the combining die. -/
def execDieLanes (job die : Nat) (s : State) : Res :=
  .next (match s.job job with
  | none => s
  | some b =>
    if b.coll.isOpen && b.dieReady die then
      (s.setJob job { b with coll := { b.coll with dies := Map.put b.coll.dies die (b.dieLanes die) } }).pkgCheck job
    else s)

/-- PLANE_REDUCTION (R173, R437): the plane reduces the packages' lanes; while it is down, contributions wait. A resolution that has waited
for a page of the Catalogue area goes on here too. -/
def execPlaneReduction (job : Nat) (s : State) : Res :=
  .next (match s.job job with
  | none => s
  | some b =>
    if 2 ≤ b.pkgs.length ∧ b.pkgs.any fun p => (s.pkg p).down.contains (s.gangPlane b) then s.notYet
    else if b.coll.isOpen && b.pkgs.all b.pkgReady then s.resolveColl job b
    else s)

/-! ## The outcome at a member (R195, R196) -/

/-- A strand that waits for an outcome, or for an access of a path that is gone, goes on. -/
def Strand.resume (k : Strand) (t : Nat) (all : Bool) : Strand :=
  match k.st with
  | .blocked => if all || k.wait == .outcome || k.wait.again then k.makeReady t else k
  | .held => (match k.why with
    | .access _ => if all then k.makeReady t else k
    | .fetch => if all then k.makeReady t else k
    | .unit _ => if all then k.makeReady t else k
    | _ => k)
  | _ => { k with wait := if all || k.wait == .outcome then .none else k.wait, waited := 0 }

/-- Leave the path run ahead on: held stores and the path's loads and causes are gone, and the registers of R188 return. -/
def Strand.restore (k : Strand) (c : Checkpoint) : Strand :=
  { k with arch := { c.arch with ev := k.arch.ev, g := k.arch.g, cseq := k.arch.cseq }, pend := c.pend,
           hold := k.hold.filter fun (h : Held) => h.sure, ra := none,
           posted := k.posted.filter fun (p : Posted) => p.acc ≤ c.mark, refill := none, granted := false, refused := none,
           gcmds := k.gcmds.map (GuardedCmd.onPath false) }

/-- The path's accesses are gone from the core. -/
def State.dropPath (s : State) (sid : Nat) (c : Checkpoint) : State :=
  s.modCore (sid / 4) fun k => { k with accs := k.accs.filter fun (a : Acc) => !(a.snum == sid % 4 && c.mark < a.id) }

/-- The CBR's slot takes its state, and the commands that wait on it go on (R177). -/
def State.settle (s : State) (sid : Nat) (g : BitVec 4) (v : Bool) : State :=
  (s.modStrand sid fun k => { k with arch := k.arch.setG g (if v then .tru else .fls) }).resolveSlot sid g v

/-- A CBR's outcome is applied to a strand that ran ahead (R195). -/
def State.applyCbr (s : State) (sid : Nat) (c : Checkpoint) (taken : Bool) : State :=
  let t := s.cycleOf sid
  if taken = c.dir then
    let s := s.modStrand sid fun k =>
      let k := { k with arch := { k.arch with status := putBit k.arch.status 9 false }, ra := none,
                        gcmds := k.gcmds.map (GuardedCmd.onPath true), hold := k.hold.map fun (h : Held) => { h with sure := true } }
      k.resume t false
    let s := s.settle sid c.slot taken
    if (s.strand sid).hold.isEmpty then s else s.once (.heldStoreDrain sid)
  else
    let s := (s.count (sid / 4) 0x09 1 (some sid)).dropPath sid c
    let s := s.modStrand sid fun k =>
      let k := (k.restore c).noteFlags t
      let a := if taken then { k.arch with pc := c.taken } else loopEnd c.fall { k.arch with pc := c.fall }
      { k with arch := a, lastIssue := some (t + 5) }.resume t true
    s.settle sid c.slot taken

/-- COLL_MISMATCH for a member (R196). -/
def State.applyClash (s : State) (sid : Nat) (c : OpenColl) : State :=
  let t := s.cycleOf sid
  let s := match (s.strand sid).ra with
    | some p =>
      ((s.dropPath sid p).modStrand sid fun k =>
        let k := (k.restore p).noteFlags t
        { k with arch := { k.arch with pc := c.pc } }.resume t true).settle sid p.slot false
    | none => s.modStrand sid fun k => (k.forget t c.id).resume t false
  s.post sid cCollMismatch (c.seq.zeroExtend 64) (some c.pc)

/-- What a CVOTE or CMEM gives (R183, R184). -/
def collResult (k : CollKind) (seq : BitVec 16) (l : Lanes) : Nat :=
  match k with
  | .cvoteAnd => (boolWord l.pAnd).toNat
  | .cvoteOr => (boolWord l.pOr).toNat
  | .cmem => seq.toNat * 65536 + (boolWord l.dOr).toNat * 4 + (boolWord l.pOr).toNat * 2 + (boolWord l.pAnd).toNat
  | _ => 0

/-- A resolved collective is applied by a member. -/
def State.applyOutcome (s : State) (sid : Nat) (c : OpenColl) (l : Lanes) : State :=
  let t := s.cycleOf sid
  let s := s.modStrand sid fun k => { k with coll := none }
  let s := if lanesClash l then s.applyClash sid c
    else match c.kind, (s.strand sid).ra with
      | .cbr, some p => s.applyCbr sid p l.pOr
      | .gbar, _ => s.modStrand sid fun k => ({ k with granted := true } : Strand).resume t false
      | k, _ => s.modStrand sid fun a => (a.receive t c.id fun _ => BitVec.ofNat 4096 (collResult k c.seq l)).resume t false
  s.setEv sid

/-- COLLECTIVE_OUTCOME (R195, R196): the result reaches a member. A resumed CBR that is not issued again yet finds it there. -/
def execCollectiveOutcome (sid : Nat) (s : State) : Res :=
  let k := s.strand sid
  let m := k.arch.mbidx.toNat
  .next (match s.jobOf (sid / 4), k.coll with
  | some b, some c =>
    (match Map.find b.results m with
     | some l => (s.modJob (s.jobNo (sid / 4)) fun b => { b with results := Map.del b.results m }).applyOutcome sid c l
     | none => s)
  | _, _ => s)

/-! ## The collective units (R180-R186) -/

/-- A collective unit is refused at a nonzero depth, in a strand that is not a worker, and at S or M (R180). -/
def State.collective (s : State) (t : State) : State :=
  if s.arch.depth != 0 || !s.cur.worker || s.arch.prv != 0 then s.illegal 1 else t

/-- It waits while an earlier collective is unresolved, and under run-ahead (R180, R189); a contribution also follows the fences before
it (R230). -/
def State.unnested (s : State) (t : State) : State :=
  if s.arch.ahead || s.cur.coll.isSome then s.awaitOutcome else if s.fenced false then s.retry else t

/-- Send a contribution. -/
def State.contribute (s : State) (l : Lanes) : State :=
  s.later (.collectiveContribution (s.jobNo s.eid) s.arch.mbidx.toNat l)

/-- Open a collective: CSEQ advances; `send` sends the contribution now. -/
def State.openColl (s : State) (k : CollKind) (tag : BitVec 4) (p send : Bool) (id : Nat) : State :=
  let q := s.arch.cseq + 1
  let s := (s.modArch fun a => { a with cseq := q }).modCur fun t =>
    { t with coll := some { kind := k, tag := tag, pc := s.unit.pc, seq := q, id := id, sent := send, outcome := none } }
  if send then s.contribute (lanesOf k tag q p) else s

/-- No command holds slot g as its combined guard any longer. -/
def Strand.uncomb (k : Strand) (g : BitVec 4) : Strand :=
  { k with gcmds := k.gcmds.map fun (c : GuardedCmd) => if c.comb = some g then { c with comb := none } else c }

/-- A CBR claims its slot: commands that waited on it are discarded (R178). A slot in use as a combined guard is taken from its
command, which keeps its two conditions (DESIGN CHOICE, log entry 65: R178 has no column for such a slot). -/
def State.claim (s : State) (g : BitVec 4) : State :=
  let s := match s.arch.getG g with
    | .soft => s.resolveSlot s.unit.sid g false
    | .comb _ => (s.resolveSlot s.unit.sid g false).modCur fun k => k.uncomb g
    | _ => s
  s.modArch fun a => a.setG g .coll

/-- CBR (R182): a resumed CBR whose contribution has been sent sends nothing, and takes an outcome that is there. -/
def execCbr (a : XReg) (g : GReg) (tag : BitVec 4) (off : BitVec 9) (s : State) : Res :=
  .next (s.collective (s.unnested (
    let p := s.rx a != 0
    let tgt := s.target off
    let m := s.arch.mbidx.toNat
    let sent := s.cur.sent
    let was := s.arch.getG g
    let s1 := ((s.claim g).openColl .cbr tag p (!sent) 0).modCur fun k => { k with sent := false }
    let s1 := s1.modCur fun k => { k with coll := k.coll.map fun c => { c with sent := true } }
    let here := if sent then (s.jobOf s.eid).bind fun b => Map.find b.results m else none
    match here, s1.cur.coll with
    | some l, some c =>
      let s2 := (s1.modJob (s.jobNo s.eid) fun b => { b with results := Map.del b.results m }).modCur fun k => { k with coll := none }
      if lanesClash l then (((s2.settle s.unit.sid g false).applyClash s.unit.sid c).setEv s.unit.sid).jump s.unit.pc
      else
        let s3 := (s2.settle s.unit.sid g l.pOr).setEv s.unit.sid
        if l.pOr then s3.jump tgt else s3
    | _, _ =>
      let d := Config.predict s.fresh
      let k := s1.cur
      let c : Checkpoint := { arch := k.arch, pend := k.pend, slot := g, dir := d, taken := tgt, fall := s.unit.next,
                              mark := s1.fresh, was := was }
      let s2 := (s1.modArch fun a => { a with status := putBit a.status 9 true }).modCur fun k => { k with ra := some c }
      let s2 := { s2 with fresh := s2.fresh + 1 }
      if d then s2.jump tgt else s2)))

/-- CVOTE and CMEM: the result is scoreboarded (R183, R184). -/
def State.vote (s : State) (k : CollKind) (d a : XReg) (tag : BitVec 4) : State :=
  s.collective (s.unnested (
    let id := s.fresh + 1
    ({ s with fresh := id }.wlater (.x d) 0 id).openColl k tag (s.rx a != 0) true id))

/-- CVOTE.AND (R183). -/
def execCvoteAnd (d a : XReg) (tag : BitVec 4) (s : State) : Res := .next (s.vote .cvoteAnd d a tag)

/-- CVOTE.OR (R183). -/
def execCvoteOr (d a : XReg) (tag : BitVec 4) (s : State) : Res := .next (s.vote .cvoteOr d a tag)

/-- CMEM (R184). -/
def execCmem (d a : XReg) (s : State) : Res := .next (s.vote .cmem d a 0)

/-- GBAR (R185): CSEQ advances, everything earlier is performed, the contribution leaves, and the unit waits for the outcome. -/
def execGbar (s : State) : Res :=
  .next (s.collective (
    if s.cur.granted then s.modCur fun k => { k with granted := false }
    else
      let own := match s.cur.coll with
        | some c => c.kind == .gbar && c.pc == s.unit.pc
        | none => false
      if s.arch.ahead || (s.cur.coll.isSome && !own) then s.awaitOutcome
      else
        let s := if own then s else s.openColl .gbar 0 false false 0
        match s.cur.coll with
        | none => s
        | some c =>
          if c.sent then s.awaitOutcome
          else if s.owes s.unit.sid then s.retry
          else
            ((s.modCur fun k => { k with coll := some { c with sent := true } }).contribute
              (lanesOf .gbar 0 c.seq false)).awaitOutcome))

/-- The crew barrier may be complete (R186): the smallest count among the workers that have not departed. -/
def State.crewCount (s : State) (b : Job) (clu : Nat) : Option Nat :=
  ((b.crew clu).filter fun m => !b.departed.contains m).foldl (fun n m =>
    let k := (s.strand (b.sidOf m)).cbarN
    match n with
    | none => some k
    | some i => some (min i k)) none

/-- CBAR (R186). -/
def execCbar (s : State) : Res :=
  .next (s.collective (
    if s.cur.granted then s.modCur fun k => { k with granted := false }
    else if s.cur.inCbar then s.awaitOutcome
    else s.unnested (s.release (
      let s := s.modCur fun k => { k with inCbar := true, cbarN := k.cbarN + 1 }
      (s.once (.cbarComplete (s.jobNo s.eid) (s.eid / 32))).awaitOutcome))))

/-- CBAR_COMPLETE (R186): the members of the crew whose barrier every other has reached go on; it sets no EV (DESIGN CHOICE, log entry
88). -/
def execCbarComplete (job cluster : Nat) (s : State) : Res :=
  .next (match s.job job with
  | none => s
  | some b =>
    match s.crewCount b cluster with
    | none => s
    | some n => (b.crew cluster).foldl (fun s m =>
        let sid := b.sidOf m
        let k := s.strand sid
        if k.inCbar && k.cbarN ≤ n then
          s.modStrand sid fun k => ({ k with inCbar := false, granted := true } : Strand).resume (s.cycleOf sid) false
        else s) s)

/-! ## Guard slots (R178, R187): on a combined guard, of which R178 has no column, they wait for it to be FREE (DESIGN CHOICE, log
entry 65) -/

/-- GALLOC (R178). -/
def execGalloc (g : GReg) (s : State) : Res :=
  .next (s.unlessAhead (match s.arch.getG g with
  | .soft => s
  | .coll => s.awaitOutcome
  | .comb _ => s.retry
  | _ => s.modArch fun a => a.setG g .soft))

/-- GSET (R178). -/
def execGset (g : GReg) (a : XReg) (s : State) : Res :=
  let v := s.rx a != 0
  .next (s.unlessAhead (match s.arch.getG g with
  | .coll => s.awaitOutcome
  | .comb _ => s.retry
  | .soft => s.settle s.unit.sid g v
  | _ => s.modArch fun a => a.setG g (if v then .tru else .fls)))

/-- GRES (R178). -/
def execGres (g : GReg) (s : State) : Res :=
  .next (s.unlessAhead (match s.arch.getG g with
  | .coll => s.awaitOutcome
  | .comb _ => s.retry
  | .soft => (s.resolveSlot s.unit.sid g false).modArch fun a => a.setG g .free
  | _ => s.modArch fun a => a.setG g .free))

/-! ## Departures (R198, R199) -/

/-- A member departs: from the open collective, unless it has contributed, and from every later one. -/
def State.depart (s : State) (j m : Nat) : State :=
  match s.job j with
  | none => s
  | some b =>
    if b.departed.contains m then s
    else
      let s := s.setJob j { b with departed := b.departed ++ [m], results := Map.del b.results m }
      let d := b.sidOf m / 2048
      let s := s.dieCheck j d
      let s := s.pkgCheck j
      s.once (.cbarComplete j (b.sidOf m / 128))

/-- MDEP_WRITE (R199): a valid store makes the named worker OFF and starts its departure. -/
def execMdepWrite (cluster : Nat) (val : Word) (s : State) : Res := .next (s.mdepWrite cluster val)

/-- Is a contribution of a member on its way? -/
def State.contributing (s : State) (j m : Nat) : Bool := s.flight.any fun e => match e with
  | .collectiveContribution i n _ => i == j && n == m
  | _ => false

/-- DEPARTURE_APPLIED (R198, R199): the departure stands at the combining die, and BUSY clears. A contribution that the member has sent
stands: it arrives first. -/
def execDepartureApplied (cluster : Nat) (s : State) : Res :=
  let c := s.cluster cluster
  let eid := field c.mdep 0 22
  let j := s.jobNo eid
  let m := (s.strand (4 * eid + field c.mdep 22 2)).arch.mbidx.toNat
  .next (if !c.mdepBusy then s
    else if s.contributing j m then s.notYet
    else (s.setCluster cluster { c with mdepBusy := false }).depart j m)

end Sys2Proof.Machine
end

