-- ==== Sys2Proof/Machine/Controls.lean ====
section
/-!
DEFINITION. Registers that a store or the host writes: CFSUM, SLCFG (R134, R215), XTGT, the launch windows, the management
mailbox and the MSI-X table (R440-R442, R446), with the MSI-X vectors that the device raises; and the attestation responder (R447).
-/
namespace Sys2Proof.Machine

open Sys2Proof

/-! ## MSI-X (R442) -/

/-- A function's vector as one number. -/
def msixNo (fn vec : Nat) : Nat := fn * 2048 + vec

/-- Is there such a vector: 2048 on the physical function 0, 48 on each of 63 virtual functions (R438)? -/
def hasVector (fn vec : Nat) : Bool := fn < 64 && vec < (if fn = 0 then 2048 else 48)

/-- The message of vector n is sent, with the address and data of its entry. -/
def Pkg.sendMsix (k : Pkg) (n : Nat) : Pkg :=
  { k with msixSent := k.msixSent ++ [n], msixOut := k.msixOut ++ [Map.get (0, 0) k.msixTab n] }

/-- A vector is raised: its message is sent, or pending while it is masked. Vectors 0 to 3 of a virtual function never fire. -/
def State.msix (s : State) (p fn vec : Nat) : State :=
  if vec < 4 ∧ fn ≠ 0 ∨ !hasVector fn vec then s
  else s.modPkg p fun k =>
    if k.msixMask.contains (msixNo fn vec) then
      (if k.msixPend.contains (msixNo fn vec) then k else { k with msixPend := k.msixPend ++ [msixNo fn vec] })
    else k.sendMsix (msixNo fn vec)

/-- MSIX_UNMASK (R442): the mask clears, and a pending message is sent. -/
def execMsixUnmask (pkg fn vec : Nat) (s : State) : Res :=
  let n := msixNo fn vec
  .next (if !hasVector fn vec then s
    else s.modPkg pkg fun k =>
      let q := { k with msixMask := k.msixMask.filter (· != n), msixPend := k.msixPend.filter (· != n) }
      if k.msixPend.contains n then q.sendMsix n else q)

/-! ## CFSUM (R134) -/

/-- CFSUM_WRITE (R134): ones in bits 12:8 clear EFLG, but for what an engine reports in the same cycle (R135). -/
def execCfsumWrite (cluster : Nat) (val : Word) (s : State) : Res :=
  .next (s.cfsumWrite cluster val)

/-! ## SLCFG (R215) -/

/-- SLCFG_WRITE (R215). -/
def execSlcfgWrite (cluster : Nat) (val : Word) (s : State) : Res :=
  .next (s.slcfgWrite cluster val)

/-- SLCFG_DONE (R215). -/
def execSlcfgDone (cluster : Nat) (s : State) : Res := .next (s.modCluster cluster fun k => { k with slBusy := false })

/-! ## Registers without a row of their own -/

/-- The words that hold a mailbox command's data (R446): those from 0x040 up. -/
def Pkg.mboxData (k : Pkg) : List Word := (List.range 504).map fun i => Map.get 0 k.mdata (8 + i)

/-- A mailbox command ends with a status, and vector 0 of the physical function is raised (R442, R446). -/
def State.mboxDone (s : State) (p st : Nat) : State :=
  (s.modPkg p fun k => { k with mbox := putField k.mbox 8 8 st }).msix p 0 0

/-- The command that word 0 of the mailbox names; an operation that is not listed is malformed, and one that recovery does not
accept is refused (R445, R446). -/
def State.mboxCommand (s : State) (p op : Nat) : State :=
  if (s.pkg p).recovery && op != 7 then s.mboxDone p 2
  else match op with
    | 1 => s.later (.readAlmanac p)
    | 2 => (s.modPkg p fun k => { k with tier := Config.tier k.mboxData }).later (.checkpoint p)
    | 3 => (s.modPkg p fun k => { k with tier := Config.tier k.mboxData }).later (.restore p)
    | 4 => s.later (.setPlim p)
    | 5 => s.later (.spdm p)
    | 6 => s.later (.setPlane p)
    | 7 => s.later (.loadImage p)
    | _ => s.mboxDone p 4

/-- A write of a word of the mailbox: the data, or word 0, which sets off its command; a function that is not usable yet holds it, and one
that has failed drops it (R444). -/
def State.mboxWrite (s : State) (p w : Nat) (val : Word) : State :=
  if s.gone p 79 then s
  else if !s.ready p 79 then s.notYet
  else if w = 0 then (s.modPkg p fun k => { k with mbox := putField val 8 8 0 }).mboxCommand p (field val 0 8)
  else if 8 ≤ w ∧ w < 512 then s.modPkg p fun k => { k with mdata := Map.put k.mdata w val }
  else s

/-- The window of queue q in a function's BAR 2 (R441), as one number. -/
def windowNo (fn q : Nat) : Nat := fn * 16 + q
def Window.reset : Window := { buf := List.replicate 16 0, busy := false, nsub := 0, st := 0 }
def Pkg.window (k : Pkg) (fn q : Nat) : Window := Map.get Window.reset k.windows (windowNo fn q)
def Pkg.setWindow (k : Pkg) (fn q : Nat) (w : Window) : Pkg := { k with windows := Map.put k.windows (windowNo fn q) w }

/-! ## Attestation (R447): SPDM messages, whose codes are those of the SPDM standard (PRESUMED, log entry 93) -/

/-- Byte i of words. -/
def wordByte (l : List Word) (i : Nat) : Nat := field (l.getD (i / 8) 0) (8 * (i % 8)) 8

/-- The requests that the responder knows. -/
inductive SpdmReq where
  | version | capabilities | algorithms | digests | certificate | challenge
  | measurements (index : Nat)
  | keyExchange | finish | endSession | other
  deriving DecidableEq, Repr

def spdmReq (l : List Word) : SpdmReq :=
  match wordByte l 1 with
  | 0x84 => .version
  | 0xE1 => .capabilities
  | 0xE3 => .algorithms
  | 0x81 => .digests
  | 0x82 => .certificate
  | 0x83 => .challenge
  | 0xE0 => .measurements (wordByte l 3)
  | 0xE4 => .keyExchange
  | 0xE5 => .finish
  | 0xEC => .endSession
  | _ => .other

/-- The code of an ERROR answer, where a request has one: a request that is not supported, as PSK exchange and those of mutual authentication; a
version that is not 1.2 or 1.3; algorithms without ECDSA P-384 or SHA-384; a measurement that there is not; a step out of turn. -/
def Spdm.refuses (p : Spdm) (l : List Word) : Option Nat :=
  match spdmReq l with
  | .version => none
  | .other => some 7
  | r =>
    if wordByte l 0 ≠ 0x12 ∧ wordByte l 0 ≠ 0x13 then some 0x41
    else match r with
      | .algorithms => if wordByte l 8 / 2 ^ 7 % 2 = 1 ∧ wordByte l 12 / 2 % 2 = 1 then none else some 1
      | .measurements i => if i ≤ 5 ∨ i = 0xFF then none else some 1
      | .finish => if p.session = 1 then none else some 4
      | .endSession => if p.session = 2 then none else some 4
      | _ => none

/-- The responder after a request that it answers. -/
def Spdm.after (p : Spdm) (l : List Word) : Spdm :=
  match spdmReq l with
  | .version => { ver := 0, session := 0 }
  | .keyExchange => { ver := wordByte l 0, session := 1 }
  | .finish => { p with session := 2 }
  | .endSession => { p with session := 0 }
  | _ => { p with ver := wordByte l 0 }

/-- Word i of the answer: its header, versions 1.2 and 1.3, the capabilities (certificates, challenge, signed measurements, encryption, MAC and
key exchange; no mutual authentication and no PSK), the algorithms selected; the rest is a free value. -/
def Spdm.answer (p : Spdm) (fresh : Nat) (l : List Word) (i : Nat) : Word :=
  let v := Config.spdm fresh i
  let head := fun (v : Word) (ver code a : Nat) => putField (putField (putField v 0 8 ver) 8 8 code) 16 8 a
  match p.refuses l with
  | some e => if i = 0 then putField (head v (wordByte l 0) 0x7F e) 24 8 0 else v
  | none =>
    match spdmReq l, i with
    | .version, 0 => putField (putField (head v 0x10 4 0) 40 8 2) 48 16 0x1200
    | .version, 1 => putField v 0 16 0x1300
    | .capabilities, 1 => putField v 0 32 0x2D6
    | .algorithms, 1 => putField v 32 32 0x80
    | .algorithms, 2 => putField v 0 32 2
    | .measurements _, 0 => head v (wordByte l 0) 0x60 (if wordByte l 3 = 0 then 5 else field v 16 8)
    | _, 0 => head v (wordByte l 0) (wordByte l 1 - 0x80) (field v 16 8)
    | _, _ => v

/-- The responder takes a request: its answer's words. -/
def State.attest (s : State) (p : Nat) (l : List Word) : State × (Nat → Word) :=
  let a := (s.pkg p).spdm
  (s.bump.modPkg p fun k => { k with spdm := if (a.refuses l).isNone then a.after l else a }, a.answer s.fresh l)

/-- A DOE request is whole: its answer can be read once the responder is usable. -/
def State.doeGo (s : State) (p : Nat) : State :=
  if s.gone p 78 then s.modPkg p fun k => { k with doe := [] }
  else if !s.ready p 78 then s.notYet
  else
    let r := s.attest p (s.pkg p).doe
    r.1.modPkg p fun k => { k with doe := [], doeOut := (List.range 504).map r.2 }

/-- REGISTER_WRITE (R209, R440-R442, R447): offsets of a control page that are not listed ignore writes, and so does a launch window
while BUSY = 1. -/
def execRegisterWrite (r : RegRef) (val : Word) (s : State) : Res :=
  .next (match r with
  | .control c o => s.writeControl c o val
  | .xtgt p f => if f < 64 then s.modPkg p fun k => { k with xtgt := Map.put k.xtgt f (val.setWidth 24) } else s
  | .window p f q w =>
    if w < 16 ∧ q < 16 ∧ f < 64 then
      s.modPkg p fun k => if (k.window f q).busy then k else k.setWindow f q { k.window f q with buf := (k.window f q).buf.set w val }
    else s
  | .mailbox p w => s.mboxWrite p w val
  | .msixMask p f v => if !hasVector f v then s else s.modPkg p fun k =>
    if k.msixMask.contains (msixNo f v) then k else { k with msixMask := k.msixMask ++ [msixNo f v] }
  | .msixAddr p f v => if !hasVector f v then s else s.modPkg p fun k =>
    { k with msixTab := Map.put k.msixTab (msixNo f v) (val, (Map.get (0, 0) k.msixTab (msixNo f v)).2) }
  | .msixData p f v => if !hasVector f v then s else s.modPkg p fun k =>
    { k with msixTab := Map.put k.msixTab (msixNo f v) ((Map.get (0, 0) k.msixTab (msixNo f v)).1, val) }
  | .doeWord p => s.modPkg p fun k => { k with doe := k.doe ++ [val] }
  | .doeGo p => s.doeGo p)

/-- The launch rights of a function (R402): is an ASID within an entry of some queue's table that names it? -/
def State.launchRights (s : State) (p fn asid : Nat) : Bool :=
  (List.range 16).any fun q => (List.range 64).any fun i =>
    let a := TA + 0x310000 + 0x400 * q + 16 * i
    let w := s.hbm64 (8 * p) a
    let v := s.hbm64 (8 * p) (a + 8)
    w.getLsbD 0 && field w 1 2 == 2 && (v.getLsbD 5 || field w 16 16 == fn) && field w 32 16 ≤ asid && asid ≤ field w 48 16

/-- XWORD (R440): a word is posted to the strand that XTGT names; one to a core of a job outside the function's rights is dropped. -/
def execXword (pkg fn : Nat) (val : Word) (s : State) : Res :=
  let t := Map.get 0 (s.pkg pkg).xtgt fn
  let eid := field t 0 22
  .next (if 64 ≤ fn then s else match s.jobOf eid with
  | some b => if s.launchRights pkg fn (pktAsid b.words) then s.postExternal (4 * eid + field t 22 2) val else s
  | none => s.postExternal (4 * eid + field t 22 2) val)

end Sys2Proof.Machine
end

