-- ==== Sys2Proof/Machine/Energy.lean ====
section
/-!
DEFINITION. The energy-token buckets (R409-R413) and the event ENERGY_REFILL, ENERGY_CHARGE, HEAD_CHARGE.
-/
namespace Sys2Proof.Machine

open Sys2Proof

/-- The bucket at cycle t: REFILL tokens for each cycle, saturating at 4096 (R409). A wait of any charge is counted (R415). -/
def Cluster.refillTo (k : Cluster) (t : Nat) : Cluster :=
  if t ≤ k.time then k
  else
    let n := t - k.time
    { k with tokens := min 4096 (k.tokens + (k.refill * n : Nat)), time := t,
             waitN := if k.charges.any (fun (c : Charge) => !c.taken) then k.waitN + n else k.waitN }

/-- Does balance b cover a charge (R411)? -/
def covers (b : Int) (c : Nat) : Bool := if c ≤ 4096 then (c : Int) ≤ b else b == 4096

/-- A charge that has waited 64 cycles is a head charge: nothing behind it is taken before it (R412). -/
def markHead (t : Nat) (l : List Charge) : List Charge :=
  l.map fun c => if !c.taken && 64 ≤ t - c.since then { c with head := true } else c

/-- Take every charge that may be taken, in the order of the list: cycle due, then requester (R411, R412). -/
def takeCharges : List Charge → Int → List Charge × Int
  | [], b => ([], b)
  | c :: r, b =>
    if c.taken then let q := takeCharges r b; (c :: q.1, q.2)
    else if covers b c.cost then let q := takeCharges r (b - c.cost); ({ c with taken := true, bal := b - c.cost } :: q.1, q.2)
    else if c.head then (c :: r, b)
    else let q := takeCharges r b; (c :: q.1, q.2)

/-- Settle the charges of a cluster at the cycle its bucket stands at. -/
def Cluster.settle (k : Cluster) : Cluster :=
  let q := takeCharges (markHead k.time k.charges) k.tokens
  { k with charges := q.1, tokens := q.2 }

/-- n cycles of a bucket: while a charge waits, the charges of each cycle are settled before the next cycle's refill (R409, R411, R412). -/
def Cluster.runFor : Nat → Cluster → Cluster
  | 0, k => k
  | n + 1, k =>
    if k.charges.any (fun (c : Charge) => !c.taken) then Cluster.runFor n (k.settle.refillTo (k.time + 1))
    else k.refillTo (k.time + (n + 1))

/-- The bucket at cycle t: the charges of that cycle are settled when one is made, or before the next cycle. -/
def Cluster.runTo (k : Cluster) (t : Nat) : Cluster := Cluster.runFor (t - k.time) k

/-- Insert a charge behind those due earlier, or due in the same cycle from a lower requester (R412). -/
def insertCharge (c : Charge) : List Charge → List Charge
  | [] => [c]
  | d :: r => if c.since < d.since ∨ (c.since = d.since ∧ c.req < d.req) then c :: d :: r else d :: insertCharge c r

/-- A charge of requester `req` becomes due or is tried again at cycle t: the cluster and, where it has been taken, the balance it left. The
requester's charges for another unit are gone. Charges of one cycle that cores make at different steps are decided in the order of the steps
(DEDUCED, log entry 92); those that wait are kept in the order of R412. -/
def Cluster.charge (k : Cluster) (t req : Nat) (sid : Option Nat) (pc : Word) (cost : Nat) : Cluster × Option Int :=
  let k := k.runTo t
  let own := fun (c : Charge) => c.req == req && c.sid == sid
  let here := fun (c : Charge) => own c && c.pc == pc && c.cost == cost
  let k := { k with charges := k.charges.filter fun c => !(own c && c.pc != pc) }
  let k := if k.charges.any here then k
    else { k with charges := insertCharge { req := req, sid := sid, pc := pc, cost := cost, since := t, head := false,
                                            taken := false, bal := 0 } k.charges }
  let k := k.settle
  match k.charges.find? fun c => here c && c.taken with
  | some c => ({ k with charges := k.charges.erase c }, some c.bal)
  | none => (k, none)

/-- The requester number of a core in its cluster (R412). -/
def requester (eid : Nat) : Nat := eid % 32

/-- Charge the unit in hand: `f` on the state with the charge taken and the balance it left, or the unit waits, as for a load wait
(R411). -/
def State.spendFor (s : State) (cost : Nat) (f : State → Int → State) : State :=
  let clu := s.eid / 32
  let r := (s.cluster clu).charge s.unit.now (requester s.eid) (some s.unit.sid) s.unit.pc cost
  let t := s.setCluster clu r.1
  match r.2 with
  | some b => f t b
  | none =>
    let t := if t.flight.contains (.energyCharge clu) then t else t.later (.energyCharge clu)
    t.waits.modCur fun k => { k with wait := .charge }

def State.spend (s : State) (cost : Nat) (f : State → State) : State := s.spendFor cost fun t _ => f t

/-- A BLOCKED strand whose charges have been taken becomes READY. -/
def State.wakeCharged (s : State) (clu : Nat) : State :=
  let l := (s.cluster clu).charges
  l.foldl (fun s c => match c.sid with
    | some sid => if (s.strand sid).wait == Wait.charge && !(l.any fun (o : Charge) => o.sid == c.sid && !o.taken) then s.wake sid else s
    | none => s) s

/-- A charge of the unit in hand has been taken, and the unit waits for another one (R411). -/
def State.keepCharge (s : State) (cost : Nat) (bal : Int) : State :=
  s.modCluster (s.eid / 32) fun k => { k with charges := { req := requester s.eid, sid := some s.unit.sid, pc := s.unit.pc, cost := cost,
                                                           since := s.unit.now, head := false, taken := true, bal := bal } :: k.charges }

/-- ENERGY_REFILL (R409): one cycle's tokens. -/
def execEnergyRefill (clu : Nat) (s : State) : Res :=
  .next (s.modCluster clu fun k => k.runTo (k.time + 1))

/-- ENERGY_CHARGE (R411): waiting charges that the balance covers are taken; those left wait on. -/
def execEnergyCharge (clu : Nat) (s : State) : Res :=
  let s := s.modCluster clu fun k =>
    let k := { k with charges := k.charges.filter fun (c : Charge) => match c.sid with
      | some sid => c.taken || (s.strand sid).wait == Wait.charge
      | none => true }
    (k.runTo (s.clusterTime clu)).settle
  let s := s.wakeCharged clu
  .next (if (s.cluster clu).charges.any fun c => !c.taken then s.notYet else s)

/-- HEAD_CHARGE (R412). -/
def execHeadCharge (clu : Nat) (s : State) : Res :=
  .next (s.modCluster clu fun k =>
    let k := k.runTo (s.clusterTime clu)
    if k.charges.any (fun (c : Charge) => c.head && !c.taken) then k else { k with charges := markHead k.time k.charges })

end Sys2Proof.Machine
end

