-- ==== Sys2Proof/Machine/Integer.lean ====
section
/-!
DEFINITION. Integer and address instructions (R79-R86).
-/
namespace Sys2Proof.Machine

open Sys2Proof

/-! ## Values -/

/-- Quotient and remainder of DIV and REM (R80). -/
def divS (a b : Word) : Word := if b = 0 then BitVec.allOnes 64 else BitVec.ofInt 64 (a.toInt.tdiv b.toInt)
def remS (a b : Word) : Word := if b = 0 then a else BitVec.ofInt 64 (a.toInt.tmod b.toInt)
/-- Quotient and remainder of DIVU and REMU (R80). -/
def divU (a b : Word) : Word := if b = 0 then BitVec.allOnes 64 else BitVec.ofNat 64 (a.toNat / b.toNat)
def remU (a b : Word) : Word := if b = 0 then a else BitVec.ofNat 64 (a.toNat % b.toNat)

/-- The size of the quotient of a signed and of an unsigned divide: the sign apart. -/
def quotS (a b : Word) : Nat := if b = 0 then 2 ^ 64 - 1 else (a.toInt.tdiv b.toInt).natAbs
def quotU (a b : Word) : Nat := if b = 0 then 2 ^ 64 - 1 else a.toNat / b.toNat

/-- The number of significant bits of a quotient. -/
def sigBits (n : Nat) : Nat := ((List.range 64).filter fun i => 2 ^ i ≤ n).length

/-- Six cycles, and more for each of n quotient bits. -/
def divSteps : Nat → Nat
  | 0 => 6
  | n + 1 => divSteps n + Config.divStep n

/-- Cycles until a divide's result lands, growing with the number of significant quotient bits: a free value within 6 to 40 (R80;
log entry 11). -/
def divLatency (quot : Nat) : Nat := min 40 (divSteps (sigBits quot))

def leadingZeros (a : Word) : Nat :=
  ((List.range 64).find? fun i => a.getLsbD (63 - i)).getD 64

def onesOf {n : Nat} (a : BitVec n) : Nat := (List.range n).foldl (fun c i => if a.getLsbD i then c + 1 else c) 0

def swapBytes (a : Word) : Word :=
  BitVec.ofNat 64 ((List.range 8).foldl (fun acc i => acc * 256 + field a (8 * i) 8) 0)

def sextN (n : Nat) (a : Word) : Word := (a.setWidth n).signExtend 64
def zextN (n : Nat) (a : Word) : Word := (a.setWidth n).zeroExtend 64

/-- A 12-bit immediate, sign-extended (R84). -/
def simm (i : BitVec 12) : Word := i.signExtend 64

/-- The GVA that GADDR composes (R83). -/
def gaddrOf (a b : Word) : Word := BitVec.ofNat 64 (field a 9 13 * 2 ^ 51 + field b 0 51)

/-- 128-bit products (R79). -/
def mulHigh (a b : Word) : Word := BitVec.ofInt 64 ((a.toInt * b.toInt) / 2 ^ 64)
def mulHighU (a b : Word) : Word := BitVec.ofNat 64 (a.toNat * b.toNat / 2 ^ 64)

/-- Shift amounts are the low six bits (R79). -/
def shamt (b : Word) : Nat := field b 0 6

/-! ## Meanings -/

/-- ADD (R79). -/
def execAdd (d a b : XReg) (s : State) : Res :=
  .next (s.wx d (s.rx a + s.rx b) 1)

/-- SUB (R79). -/
def execSub (d a b : XReg) (s : State) : Res :=
  .next (s.wx d (s.rx a - s.rx b) 1)

/-- AND (R79). -/
def execAnd (d a b : XReg) (s : State) : Res :=
  .next (s.wx d (s.rx a &&& s.rx b) 1)

/-- OR (R79). -/
def execOr (d a b : XReg) (s : State) : Res :=
  .next (s.wx d (s.rx a ||| s.rx b) 1)

/-- XOR (R79). -/
def execXor (d a b : XReg) (s : State) : Res :=
  .next (s.wx d (s.rx a ^^^ s.rx b) 1)

/-- SLL (R79). -/
def execSll (d a b : XReg) (s : State) : Res :=
  .next (s.wx d (s.rx a <<< shamt (s.rx b)) 1)

/-- SRL (R79). -/
def execSrl (d a b : XReg) (s : State) : Res :=
  .next (s.wx d (s.rx a >>> shamt (s.rx b)) 1)

/-- SRA (R79). -/
def execSra (d a b : XReg) (s : State) : Res :=
  .next (s.wx d ((s.rx a).sshiftRight (shamt (s.rx b))) 1)

/-- SLT (R79). -/
def execSlt (d a b : XReg) (s : State) : Res :=
  .next (s.wx d (boolWord ((s.rx a).slt (s.rx b))) 1)

/-- SLTU (R79). -/
def execSltu (d a b : XReg) (s : State) : Res :=
  .next (s.wx d (boolWord ((s.rx a).ult (s.rx b))) 1)

/-- MIN (R79). -/
def execMin (d a b : XReg) (s : State) : Res :=
  .next (s.wx d (if (s.rx a).slt (s.rx b) then s.rx a else s.rx b) 1)

/-- MAX (R79). -/
def execMax (d a b : XReg) (s : State) : Res :=
  .next (s.wx d (if (s.rx a).slt (s.rx b) then s.rx b else s.rx a) 1)

/-- MINU (R79). -/
def execMinu (d a b : XReg) (s : State) : Res :=
  .next (s.wx d (if (s.rx a).ult (s.rx b) then s.rx a else s.rx b) 1)

/-- MAXU (R79). -/
def execMaxu (d a b : XReg) (s : State) : Res :=
  .next (s.wx d (if (s.rx a).ult (s.rx b) then s.rx b else s.rx a) 1)

/-- MUL (R79). -/
def execMul (d a b : XReg) (s : State) : Res :=
  .next (s.wx d (s.rx a * s.rx b) 3)

/-- MULH (R79). -/
def execMulh (d a b : XReg) (s : State) : Res :=
  .next (s.wx d (mulHigh (s.rx a) (s.rx b)) 3)

/-- MULHU (R79). -/
def execMulhu (d a b : XReg) (s : State) : Res :=
  .next (s.wx d (mulHighU (s.rx a) (s.rx b)) 3)

/-- DIV (R80): scoreboarded. -/
def execDiv (d a b : XReg) (s : State) : Res :=
  .next (s.wxs d (divS (s.rx a) (s.rx b)) (divLatency (quotS (s.rx a) (s.rx b))))

/-- DIVU (R80): scoreboarded. -/
def execDivu (d a b : XReg) (s : State) : Res :=
  .next (s.wxs d (divU (s.rx a) (s.rx b)) (divLatency (quotU (s.rx a) (s.rx b))))

/-- REM (R80): scoreboarded. -/
def execRem (d a b : XReg) (s : State) : Res :=
  .next (s.wxs d (remS (s.rx a) (s.rx b)) (divLatency (quotS (s.rx a) (s.rx b))))

/-- REMU (R80): scoreboarded. -/
def execRemu (d a b : XReg) (s : State) : Res :=
  .next (s.wxs d (remU (s.rx a) (s.rx b)) (divLatency (quotU (s.rx a) (s.rx b))))

/-- GADDR (R83). -/
def execGaddr (d a b : XReg) (s : State) : Res :=
  .next (s.wx d (gaddrOf (s.rx a) (s.rx b)) 1)

/-- CLZ (R81). -/
def execClz (d a : XReg) (s : State) : Res :=
  .next (s.wx d (BitVec.ofNat 64 (leadingZeros (s.rx a))) 1)

/-- POPC (R81). -/
def execPopc (d a : XReg) (s : State) : Res :=
  .next (s.wx d (BitVec.ofNat 64 (onesOf (s.rx a))) 1)

/-- BSWAP (R81). -/
def execBswap (d a : XReg) (s : State) : Res :=
  .next (s.wx d (swapBytes (s.rx a)) 1)

/-- SEXT8 (R81). -/
def execSext8 (d a : XReg) (s : State) : Res :=
  .next (s.wx d (sextN 8 (s.rx a)) 1)

/-- SEXT16 (R81). -/
def execSext16 (d a : XReg) (s : State) : Res :=
  .next (s.wx d (sextN 16 (s.rx a)) 1)

/-- SEXT32 (R81). -/
def execSext32 (d a : XReg) (s : State) : Res :=
  .next (s.wx d (sextN 32 (s.rx a)) 1)

/-- ZEXT8 (R81). -/
def execZext8 (d a : XReg) (s : State) : Res :=
  .next (s.wx d (zextN 8 (s.rx a)) 1)

/-- ZEXT16 (R81). -/
def execZext16 (d a : XReg) (s : State) : Res :=
  .next (s.wx d (zextN 16 (s.rx a)) 1)

/-- ZEXT32 (R81). -/
def execZext32 (d a : XReg) (s : State) : Res :=
  .next (s.wx d (zextN 32 (s.rx a)) 1)

/-- ADDS (R82). -/
def execAdds (d a b : XReg) (sh : BitVec 3) (s : State) : Res :=
  .next (s.wx d (s.rx a + s.rx b <<< sh.toNat) 1)

/-- ADDI (R84). -/
def execAddi (d a : XReg) (imm : BitVec 12) (s : State) : Res :=
  .next (s.wx d (s.rx a + simm imm) 1)

/-- ANDI (R84). -/
def execAndi (d a : XReg) (imm : BitVec 12) (s : State) : Res :=
  .next (s.wx d (s.rx a &&& simm imm) 1)

/-- ORI (R84). -/
def execOri (d a : XReg) (imm : BitVec 12) (s : State) : Res :=
  .next (s.wx d (s.rx a ||| simm imm) 1)

/-- XORI (R84). -/
def execXori (d a : XReg) (imm : BitVec 12) (s : State) : Res :=
  .next (s.wx d (s.rx a ^^^ simm imm) 1)

/-- SLTI (R84). -/
def execSlti (d a : XReg) (imm : BitVec 12) (s : State) : Res :=
  .next (s.wx d (boolWord ((s.rx a).slt (simm imm))) 1)

/-- SLLI (R85). -/
def execSlli (d a : XReg) (n : BitVec 6) (s : State) : Res :=
  .next (s.wx d (s.rx a <<< n.toNat) 1)

/-- SRLI (R85). -/
def execSrli (d a : XReg) (n : BitVec 6) (s : State) : Res :=
  .next (s.wx d (s.rx a >>> n.toNat) 1)

/-- SRAI (R85). -/
def execSrai (d a : XReg) (n : BitVec 6) (s : State) : Res :=
  .next (s.wx d ((s.rx a).sshiftRight n.toNat) 1)

/-- LUI (R86). -/
def execLui (d : XReg) (imm : BitVec 17) (s : State) : Res :=
  .next (s.wx d (imm.signExtend 64 <<< 12) 1)

end Sys2Proof.Machine
end

