-- ==== Sys2Proof/Machine/Vector.lean ====
section
/-!
DEFINITION. Vector and mask instructions (R141-R169), but for the exchanges between cores.
-/
namespace Sys2Proof.Machine

open Sys2Proof

/-! ## Shapes and element types (R70, R141) -/

/-- The floating-point format of an element type (R118). -/
def etFmt : Et → Option Fmt
  | .f64 => some .f64 | .f32 => some .f32 | .bf16 => some .bf16 | .f16 => some .f16
  | .e4m3 => some .e4m3 | .e5m2 => some .e5m2 | .e2m1 => some .e2m1 | _ => none

/-- The classes F, Q and I of R141. -/
def etF (e : Et) : Bool := e == .f64 || e == .f32 || e == .bf16 || e == .f16
def etQ (e : Et) : Bool := e == .e4m3 || e == .e5m2 || e == .e2m1
def etI (e : Et) : Bool := e == .i32 || e == .i16 || e == .i8

/-- The shape in force at issue: element type and width, rows, columns, elements. -/
structure Shape where
  et : Et
  w : Nat
  nr : Nat
  nc : Nat
  n : Nat
  deriving DecidableEq, Repr

def Arch.shape (a : Arch) : Shape :=
  { et := a.shapeEt, w := etBits a.shapeEt, nr := a.rows, nc := a.cols, n := a.rows * a.cols }

/-- Element i of width w (R63). -/
def elem (v : VecVal) (w i : Nat) : Nat := v.toNat / 2 ^ (w * i) % 2 ^ w

/-- An integer element as a signed number. -/
def signedElem (w x : Nat) : Int := if 2 * x < 2 ^ w then x else (x : Int) - 2 ^ w

/-- A signed number as an element. -/
def ofSigned (w : Nat) (k : Int) : Nat := (k % 2 ^ w).toNat

/-- Pack elements from number 0 up: their bits, and the bits kept where there is none. -/
def packElems (w : Nat) : List (Option Nat) → Nat × Nat
  | [] => (0, 0)
  | o :: r =>
    let q := packElems w r
    match o with
    | some x => (x % 2 ^ w + 2 ^ w * q.1, 2 ^ w * q.2)
    | none => (2 ^ w * q.1, 2 ^ w - 1 + 2 ^ w * q.2)

/-- The occupancy k (R143). -/
def occupancy (n b : Nat) : Nat := max 1 ((n * b + 511) / 512)

/-! ## Issue, mask and result -/

/-- ILLEGAL_INSTR of a vector A word (R141). -/
def State.badVector (s : State) : State := s.raise 2 cIllegal 0x20000

/-- A legal vector instruction is charged `weight` tokens for each k, occupies the datapath for `occ`, and then has its effect
(R143, R410). -/
def State.vector (s : State) (ok : Bool) (cost occ : Nat) (f : State → State) : State :=
  if !ok then s.badVector
  else s.spend cost fun t => f (t.modCore s.eid fun c => { c with vfree := s.unit.now + occ })

/-- The rounding mode of R147. -/
def State.vrm (s : State) : Rm := s.arch.round s.unit.vxp.rmo

/-- Is element i selected by the mask (R146)? -/
def State.sel (s : State) (i : Nat) : Bool := (s.rmask s.unit.vxp.mask).getLsbD i

/-- What an element that is masked off becomes (R146). -/
def State.off (s : State) : Option Nat := if s.unit.vxp.mz then some 0 else none

/-- The loop of R146 over elements 0 to n - 1. -/
def State.elems (s : State) (n : Nat) (f : Nat → FRes) : List (Option Nat) × Fl :=
  (List.range n).foldr (fun i acc =>
    if s.sel i then let r := f i; (some r.1 :: acc.1, r.2 ||| acc.2) else (s.off :: acc.1, acc.2)) ([], 0)

/-- The elements of a result go to vd; the bits at and above them keep their values (R142). -/
def State.vput (s : State) (d : VReg) (w : Nat) (e : List (Option Nat) × Fl) (lat : Nat) (fixed : Bool) : State :=
  let p := packElems w e.1
  let keep := BitVec.ofNat 4096 p.2 ||| ~~~(lowBits (e.1.length * w))
  (s.wv d (BitVec.ofNat 4096 p.1) keep lat fixed).wflags e.2 lat fixed

/-- An element-wise instruction of latency `lat` that writes its own type. -/
def State.vmap (s : State) (ok : Bool) (weight lat : Nat) (d : VReg) (f : Shape → Nat → FRes) : State :=
  let h := s.arch.shape
  let k := occupancy h.n h.w
  s.vector ok (weight * k) k fun t => t.vput d h.w (s.elems h.n (f h)) lat true

/-- An element-wise instruction on va and vb, of type et, by a floating-point and an integer operation. -/
def State.vbin (s : State) (ok : Bool) (weight : Nat) (d a b : VReg) (et : Et) (ff : Fmt → Rm → Nat → Nat → FRes)
    (fi : Nat → Int → Int → Int) : State :=
  let x := s.rv a
  let y := s.rv b
  let rm := s.vrm
  s.vmap (ok && et == s.arch.shapeEt) weight 4 d fun h i => match etFmt h.et with
    | some f => ff f rm (elem x h.w i) (elem y h.w i)
    | none => (ofSigned h.w (fi h.w (signedElem h.w (elem x h.w i)) (signedElem h.w (elem y h.w i))), 0)

/-! ## Arithmetic (R149, R150) -/

/-- VADD (R149). -/
def execVadd (d a b : VReg) (et : Et) (s : State) : Res :=
  .next (s.vbin (etF et || etI et) 2 d a b et fAdd fun _ x y => x + y)

/-- VSUB (R149). -/
def execVsub (d a b : VReg) (et : Et) (s : State) : Res :=
  .next (s.vbin (etF et || etI et) 2 d a b et fSub fun _ x y => x - y)

/-- VMUL (R149). -/
def execVmul (d a b : VReg) (et : Et) (s : State) : Res :=
  .next (s.vbin (etF et || etI et) 2 d a b et fMul fun _ x y => x * y)

/-- VMIN (R149). -/
def execVmin (d a b : VReg) (et : Et) (s : State) : Res :=
  .next (s.vbin (etF et || etI et) 2 d a b et (fun f _ => fMinMax f false) fun _ x y => min x y)

/-- VMAX (R149). -/
def execVmax (d a b : VReg) (et : Et) (s : State) : Res :=
  .next (s.vbin (etF et || etI et) 2 d a b et (fun f _ => fMinMax f true) fun _ x y => max x y)

/-- The addend of VFMA and VFMS (R148, R150). -/
def State.addend (s : State) (d : VReg) : VecVal := s.rv (s.unit.vxp.vc.getD d)

/-- The sign bit of an element inverted. -/
def flipSign (f : Fmt) (x : Nat) : Nat := (x + 2 ^ (f.e + f.m)) % 2 ^ f.width

/-- VFMA and VFMS: one rounding (R150). -/
def State.vfma (s : State) (sub : Bool) (d a b : VReg) (et : Et) : State :=
  let x := s.rv a
  let y := s.rv b
  let z := s.addend d
  let rm := s.vrm
  s.vmap (etF et && et == s.arch.shapeEt) 3 4 d fun h i => match etFmt h.et with
    | some f =>
      let c := elem z h.w i
      fFma f rm false (elem x h.w i) (elem y h.w i) (if sub then flipSign f c else c)
    | none => (0, 0)

/-- VFMA (R150). -/
def execVfma (d a b : VReg) (et : Et) (s : State) : Res := .next (s.vfma false d a b et)

/-- VFMS (R150). -/
def execVfms (d a b : VReg) (et : Et) (s : State) : Res := .next (s.vfma true d a b et)

/-- An instruction on one source by a change of sign: no flag (R149). -/
def State.vsign (s : State) (d a : VReg) (et : Et) (ff : Fmt → Nat → Nat) (fi : Int → Int) : State :=
  let x := s.rv a
  s.vmap ((etF et || etQ et || etI et) && et == s.arch.shapeEt) 1 4 d fun h i => match etFmt h.et with
    | some f => (ff f (elem x h.w i), 0)
    | none => (ofSigned h.w (fi (signedElem h.w (elem x h.w i))), 0)

/-- VABS (R149). -/
def execVabs (d a : VReg) (et : Et) (s : State) : Res :=
  .next (s.vsign d a et (fun f x => x % 2 ^ (f.e + f.m)) fun x => x.natAbs)

/-- VNEG (R149). -/
def execVneg (d a : VReg) (et : Et) (s : State) : Res := .next (s.vsign d a et flipSign fun x => -x)

/-- VDIV and VSQRT are scoreboarded, occupy the datapath for 4k cycles and cost 8k tokens (R143, R144, R410). -/
def State.vslow (s : State) (d : VReg) (et : Et) (g : Fmt → Shape → Nat → FRes) : State :=
  let h := s.arch.shape
  let k := occupancy h.n h.w
  match etFmt et with
  | some f =>
    s.vector (etF et && et == h.et) (8 * k) (4 * k) fun t =>
      t.vput d h.w (s.elems h.n (g f h)) (4 * k + (if et == .f64 then 20 else 12)) false
  | none => s.badVector

/-- VDIV (R149). -/
def execVdiv (d a b : VReg) (et : Et) (s : State) : Res :=
  let x := s.rv a
  let y := s.rv b
  .next (s.vslow d et fun f h i => fDiv f s.vrm (elem x h.w i) (elem y h.w i))

/-- VSQRT (R149). -/
def execVsqrt (d a : VReg) (et : Et) (s : State) : Res :=
  let x := s.rv a
  .next (s.vslow d et fun f h i => fSqrt f s.vrm (elem x h.w i))

/-! ## Logic and shifts (R151, R152) -/

/-- A bit-wise operation on elements of every type. -/
def State.vbits (s : State) (ok : Bool) (d a b : VReg) (et : Et) (f : Nat → Nat → Nat → Nat) : State :=
  let x := s.rv a
  let y := s.rv b
  s.vmap (ok && et == s.arch.shapeEt) 1 4 d fun h i => (f h.w (elem x h.w i) (elem y h.w i), 0)

/-- VAND (R151). -/
def execVand (d a b : VReg) (et : Et) (s : State) : Res := .next (s.vbits true d a b et fun _ => Nat.land)

/-- VOR (R151). -/
def execVor (d a b : VReg) (et : Et) (s : State) : Res := .next (s.vbits true d a b et fun _ => Nat.lor)

/-- VXOR (R151). -/
def execVxor (d a b : VReg) (et : Et) (s : State) : Res := .next (s.vbits true d a b et fun _ => Nat.xor)

/-- VNOT (R151). -/
def execVnot (d a : VReg) (et : Et) (s : State) : Res := .next (s.vbits true d a a et fun w x _ => 2 ^ w - 1 - x)

/-- Integer types of the shifts and VIOTA. -/
def etShift (e : Et) : Bool := etI e || e == .i4

/-- VSHL (R152). -/
def execVshl (d a b : VReg) (et : Et) (s : State) : Res :=
  .next (s.vbits (etShift et) d a b et fun w x n => if n < w then x * 2 ^ n % 2 ^ w else 0)

/-- VSHR (R152). -/
def execVshr (d a b : VReg) (et : Et) (s : State) : Res :=
  .next (s.vbits (etShift et) d a b et fun w x n => if n < w then x / 2 ^ n else 0)

/-- VSRA (R152). -/
def execVsra (d a b : VReg) (et : Et) (s : State) : Res :=
  .next (s.vbits (etShift et) d a b et fun w x n => ofSigned w (signedElem w x / 2 ^ min n (w - 1)))

/-! ## Compare, select and movement (R153-R157) -/

/-- A comparison of floating-point elements (R153). -/
def vcmpF (f : Fmt) (cc : VCc) (x y : Nat) : Bool × Fl :=
  match cc with
  | .eq => fCmp f .eq x y
  | .ne => let r := fCmp f .eq x y; (!r.1, r.2)
  | .lt => fCmp f .lt x y
  | .le => fCmp f .le x y
  | .gt => fCmp f .lt y x
  | .ge => fCmp f .le y x
  | .un => fCmp f .un x y

/-- A comparison of integer elements, signed (R153). -/
def vcmpI (cc : VCc) (x y : Int) : Bool :=
  match cc with
  | .eq => x == y
  | .ne => x != y
  | .lt => x < y
  | .le => x ≤ y
  | .gt => y < x
  | .ge => y ≤ x
  | .un => false

/-- VCMP (R153): bits n to 1023 of md are written zero in every case. -/
def execVcmp (cc : VCc) (d : MReg) (a b : VReg) (et : Et) (s : State) : Res :=
  let h := s.arch.shape
  let k := occupancy h.n h.w
  let x := s.rv a
  let y := s.rv b
  let bit := fun (p : Bool × Fl) => (boolWord p.1 |>.toNat, p.2)
  .next (s.vector ((etF et || (etI et && cc != .un)) && et == h.et) k k fun t =>
    let e := s.elems h.n fun i => match etFmt et with
      | some f => bit (vcmpF f cc (elem x h.w i) (elem y h.w i))
      | none => bit (vcmpI cc (signedElem h.w (elem x h.w i)) (signedElem h.w (elem y h.w i)), 0)
    let p := packElems 1 e.1
    (t.wm d (BitVec.ofNat 1024 p.1) (BitVec.ofNat 1024 p.2) 4).wflags e.2 4 true)

/-- VSEL (R154). -/
def execVsel (d a b : VReg) (n : MReg) (et : Et) (s : State) : Res :=
  let x := s.rv a
  let y := s.rv b
  let m := s.rmask n
  .next (s.vmap (et == s.arch.shapeEt) 1 4 d fun h i => (if m.getLsbD i then elem x h.w i else elem y h.w i, 0))

/-- VMOV (R155). -/
def execVmov (d a : VReg) (et : Et) (s : State) : Res := .next (s.vbits true d a a et fun _ x _ => x)

/-- VBCAST (R155). -/
def execVbcast (d : VReg) (a : XReg) (et : Et) (s : State) : Res :=
  let x := (s.rx a).toNat
  .next (s.vmap (et == s.arch.shapeEt) 1 4 d fun h _ => (x % 2 ^ h.w, 0))

/-- VEXTR (R156): it occupies the datapath for one cycle and is not charged. -/
def execVextr (d : XReg) (a : VReg) (b : XReg) (s : State) : Res :=
  let h := s.arch.shape
  let j := (s.rx b).toNat
  let e := elem (s.rv a) h.w j
  let v : Word := if h.n ≤ j then 0
    else if etShift h.et then BitVec.ofInt 64 (signedElem h.w e) else BitVec.ofNat 64 e
  .next ((s.modCore s.eid fun c => { c with vfree := s.unit.now + 1 }).wx d v 4)

/-- VIOTA (R155). -/
def execViota (d : VReg) (et : Et) (s : State) : Res :=
  .next (s.vmap ((etF et || etShift et) && et == s.arch.shapeEt) 1 4 d fun h i => match etFmt h.et with
    | some f => ((fOfInt f .rne i).1, 0)
    | none => (i % 2 ^ h.w, 0))

/-- VTRN (R157): latency 6. -/
def execVtrn (d a : VReg) (et : Et) (s : State) : Res :=
  let x := s.rv a
  .next (s.vmap (et == s.arch.shapeEt && s.arch.cols ≤ 32) 1 6 d fun h i => (elem x h.w (i % h.nr * h.nc + i / h.nr), 0))

/-! ## Reductions (R158) -/

/-- One step of a fold; the earlier value is kept on equality (R140, R158). -/
def redStep (op : RedOp) (et : Et) (rm : Rm) (t x : Nat) : FRes :=
  match etFmt et with
  | some f => (match op with
    | .add => fAdd f rm t x
    | .max => fMinMax f true t x
    | .min => fMinMax f false t x)
  | none =>
    let w := etBits et
    (match op with
     | .add => ((t + x) % 2 ^ w, 0)
     | .max => (if signedElem w t < signedElem w x then x else t, 0)
     | .min => (if signedElem w x < signedElem w t then x else t, 0))

/-- Fold selected elements in order: none where none is selected. -/
def redFold (op : RedOp) (et : Et) (rm : Rm) : Option Nat → List Nat → Option Nat × Fl
  | t, [] => (t, 0)
  | none, x :: r => redFold op et rm (some x) r
  | some t, x :: r =>
    let q := redStep op et rm t x
    let z := redFold op et rm (some q.1) r
    (z.1, q.2 ||| z.2)

/-- A reduction: `lines` folds, of which number j runs over `items j`, a list of element numbers, into element `dest j`. -/
def State.vreduce (s : State) (op : RedOp) (d a : VReg) (et : Et) (len : Nat) (dest : Nat → Option Nat)
    (items : Nat → List Nat) : State :=
  let h := s.arch.shape
  let k := occupancy h.n h.w
  let x := s.rv a
  s.vector ((etF et || etI et) && et == h.et) (2 * k) k fun t =>
    let e := (List.range h.n).foldr (fun i acc => match dest i with
      | none => (some 0 :: acc.1, acc.2)
      | some j =>
        let q := redFold op et s.vrm none (((items j).filter s.sel).map (elem x h.w))
        ((match q.1 with | some v => some v | none => s.off) :: acc.1, q.2 ||| acc.2)) (([] : List (Option Nat)), (0 : Fl))
    t.vput d h.w e (4 * len + 4) false

/-- VREDR (R158): each row into its element of column 0. -/
def execVredr (op : RedOp) (d a : VReg) (et : Et) (s : State) : Res :=
  let h := s.arch.shape
  .next (s.vreduce op d a et h.nc (fun i => if i % h.nc = 0 then some (i / h.nc) else none)
    fun r => (List.range h.nc).map fun c => r * h.nc + c)

/-- VREDC (R158): each column into its element of row 0. -/
def execVredc (op : RedOp) (d a : VReg) (et : Et) (s : State) : Res :=
  let h := s.arch.shape
  .next (s.vreduce op d a et h.nr (fun i => if i < h.nc then some i else none)
    fun c => (List.range h.nr).map fun r => r * h.nc + c)

/-! ## Conversion (R159) -/

/-- The conversion of one element from type `st` to type `dt`. -/
def vconv (st dt : Et) (rm : Rm) (x : Nat) : FRes :=
  let sw := etBits st
  let dw := etBits dt
  let lo : Int := -2 ^ (dw - 1)
  let hi : Int := 2 ^ (dw - 1) - 1
  match etFmt st, etFmt dt with
  | some sf, some df => fToF sf df rm x
  | none, some df => fOfInt df rm (signedElem sw x)
  | some sf, none => let r := fToInt sf rm lo hi x; (ofSigned dw r.1, r.2)
  | none, none => let r := satInt lo hi (signedElem sw x); (ofSigned dw r.1, r.2)

/-- VCVT (R159). -/
def execVcvt (d a : VReg) (et : Et) (s : State) : Res :=
  let h := s.arch.shape
  let k := occupancy h.n (max h.w (etBits et))
  let x := s.rv a
  .next (s.vector (et != h.et && h.n * etBits et ≤ 4096) (2 * k) k fun t =>
    t.vput d (etBits et) (s.elems h.n fun i => vconv h.et et s.vrm (elem x h.w i)) 4 true)

/-! ## Quantised rows (R128-R131, R164-R166) -/

/-- The exact value of a scale code other than 0 and 0x3FF: (4 + F) * 2^(E - 129) (R128). -/
def scaleVal (c : Nat) : Nat × Int := (4 + c % 4, (c / 4 : Nat) - 129)

/-- S10Pick (R129): the code and its flags. -/
def s10Pick (f : Fmt) (a q : Nat) : Nat × Fl :=
  match f.val a with
  | .nan _ => (0x3FF, Fl.nv)
  | .inf _ => (0x3FF, Fl.nv)
  | .fin _ m e =>
    if m = 0 then (0, 0)
    else if (FVal.fin false (3 * q) 127).lt (.fin false m e) then (0x3FE, Fl.ovf)
    else if (FVal.fin false m e).lt (.fin false (5 * q) (-129)) then (0x001, Fl.unf)
    else
      let l := floorLog m q + e
      let (u, r, _) := scaled m q (e - l + 2)
      let u := if r = 0 then u else u + 1
      ((4 * (l + 127) + (u : Int) - 4).toNat, 0)

/-- The four scale codes of a row as V (R130). -/
def packScales (c : List Nat) : Nat := c.foldr (fun x acc => x + 1024 * acc) 0

/-- An element divided by a scale and rounded (R164). -/
def quantise (src dst : Fmt) (rm : Rm) (x code : Nat) : FRes :=
  match src.val x with
  | .fin n m e => let v := scaleVal code; dst.round rm n m v.1 (e - v.2)
  | v => dst.ofVal rm v

/-- The largest finite value of a quantised type, as its number q (R129). -/
def quantMax (et : Et) : Nat := if et = .e4m3 then 448 else 6

/-- Does a shape hold rows of 128 elements for VQNT and VDQNT (R141)? -/
def rowShape (et : Et) (h : Shape) : Bool :=
  (et == .e4m3 || et == .e2m1) && (h.et == .f32 || h.et == .bf16 || h.et == .f16) && h.nc == 128

/-- One BQ row as elements of `ew` bits from 128 codes, then V, then the pad (R130). -/
def rowElems (ew : Nat) (es : List (Option Nat)) (v : Nat) : List (Option Nat) :=
  es ++ (List.range (64 / ew)).map fun i => some (v / 2 ^ (ew * i) % 2 ^ ew)

/-- VQNT (R164). -/
def execVqnt (d a b : VReg) (et : Et) (s : State) : Res :=
  let h := s.arch.shape
  let k := occupancy h.n h.w
  let x := s.rv a
  let y := s.rv b
  .next (match etFmt h.et, etFmt et with
  | some sf, some df =>
    s.vector (rowShape et h) (2 * k) k fun t =>
      let row := fun r =>
        let picks := (List.range 4).map fun j => s10Pick sf (elem y h.w (r * 128 + 32 * j) % 2 ^ (sf.e + sf.m)) (quantMax et)
        let e := (List.range 128).foldr (fun c acc =>
          let i := r * 128 + c
          let code := (picks.getD (c / 32) (0, 0)).1
          if s.sel i then
            let q := if code = 0 ∨ code = 0x3FF then (0, 0) else quantise sf df s.vrm (elem x h.w i) code
            (some q.1 :: acc.1, q.2 ||| acc.2)
          else (s.off :: acc.1, acc.2)) (([] : List (Option Nat)), (0 : Fl))
        (rowElems df.width e.1 (packScales (picks.map (·.1))), picks.foldl (fun f p => f ||| p.2) e.2)
      let rows := (List.range h.nr).map row
      t.vput d df.width (rows.flatMap (·.1), rows.foldl (fun f p => f ||| p.2) 0) (k + 8) false
  | _, _ => s.badVector)

/-- One dequantised element plus y, rounded once (R131, R166). -/
def dequantise (qf df : Fmt) (rm : Rm) (x code y : Nat) : FRes :=
  let yv := df.val y
  if code = 0x3FF then (df.nan, Fl.nv)
  else if code = 0 then df.finish rm (FVal.add rm (.fin false 0 0) yv)
  else match qf.val x with
    | .fin n m e => let v := scaleVal code; df.finish rm (FVal.add rm (.fin n (m * v.1) (e + v.2)) yv)
    | v => df.finish rm (FVal.add rm v yv)

/-- VDQNT (R166). -/
def execVdqnt (d a b : VReg) (et : Et) (s : State) : Res :=
  let x := (s.rv a).toNat
  let y := s.rv b
  .next (match etFmt s.arch.shapeEt, etFmt et with
  | some df, some qf =>
    s.vmap (rowShape et s.arch.shape) 2 4 d fun h i =>
      let row := x / 2 ^ (i / 128 * (128 * qf.width + 64))
      let code := row / 2 ^ (128 * qf.width + 10 * (i % 128 / 32)) % 1024
      dequantise qf df s.vrm (row / 2 ^ (qf.width * (i % 128)) % 2 ^ qf.width) code (elem y h.w i)
  | _, _ => s.badVector)

/-! ## Special functions (R167) -/

def State.vspecial (s : State) (d a : VReg) (et : Et) (g : Fmt → Nat → FRes) : State :=
  let x := s.rv a
  s.vmap ((et == .f64 || et == .f32) && et == s.arch.shapeEt) 4 8 d fun h i => match etFmt h.et with
    | some f => g f (elem x h.w i)
    | none => (0, 0)

/-- VEXP2 (R167). -/
def execVexp2 (d a : VReg) (et : Et) (s : State) : Res := .next (s.vspecial d a et fExp2)

/-- VLOG2 (R167). -/
def execVlog2 (d a : VReg) (et : Et) (s : State) : Res := .next (s.vspecial d a et fLog2)

/-- VRCP (R167). -/
def execVrcp (d a : VReg) (et : Et) (s : State) : Res := .next (s.vspecial d a et fRcp)

/-- VRSQ (R167). -/
def execVrsq (d a : VReg) (et : Et) (s : State) : Res := .next (s.vspecial d a et fRsq)

/-- VSIN (R167). -/
def execVsin (d a : VReg) (et : Et) (s : State) : Res := .next (s.vspecial d a et fun f => fTrig f false)

/-- VCOS (R167). -/
def execVcos (d a : VReg) (et : Et) (s : State) : Res := .next (s.vspecial d a et fun f => fTrig f true)

/-! ## Mask instructions (R168, R169) -/

/-- MAND (R168). -/
def execMand (d a b : MReg) (s : State) : Res := .next (s.wm d (s.rmask a &&& s.rmask b) 0 1)

/-- MOR (R168). -/
def execMor (d a b : MReg) (s : State) : Res := .next (s.wm d (s.rmask a ||| s.rmask b) 0 1)

/-- MXOR (R168). -/
def execMxor (d a b : MReg) (s : State) : Res := .next (s.wm d (s.rmask a ^^^ s.rmask b) 0 1)

/-- MNOT (R168). -/
def execMnot (d a : MReg) (s : State) : Res := .next (s.wm d (~~~(s.rmask a)) 0 1)

/-- MPOPC (R169). -/
def execMpopc (d : XReg) (a : MReg) (s : State) : Res :=
  let m := s.rmask a
  .next (s.wx d (BitVec.ofNat 64 ((List.range 1024).filter fun i => m.getLsbD i).length) 1)

/-- MFIRST (R169). -/
def execMfirst (d : XReg) (a : MReg) (s : State) : Res :=
  let m := s.rmask a
  .next (s.wx d (BitVec.ofNat 64 (((List.range 1024).find? fun i => m.getLsbD i).getD 1024)) 1)

end Sys2Proof.Machine
end

