-- ==== Sys2Proof/Machine/Exchange.lean ====
section
/-!
DEFINITION. VCHAIN and VXMAX and the arrival of their values (R160-R163).
-/
namespace Sys2Proof.Machine

open Sys2Proof

/-- Is a core granted to the job of core eid? -/
def State.sameJob (s : State) (eid o : Nat) : Bool := o == eid || ((s.core eid).job.isSome && (s.core o).job == (s.core eid).job)

/-- Insert a core in ascending LCN. -/
def insertLcn (s : State) (e : Nat) : List Nat → List Nat
  | [] => [e]
  | f :: r => if (s.core e).lcn.toNat < (s.core f).lcn.toNat then e :: f :: r else f :: insertLcn s e r

/-- The cores of a VCHAIN: those of the job in the cluster, in ascending LCN (R162). -/
def State.chainCores (s : State) (eid : Nat) : List Nat :=
  (((List.range 32).map fun i => eid / 32 * 32 + i).filter (s.sameJob eid)).foldl (fun l e => insertLcn s e l) []

/-- The cores of a VXMAX: of the same CORE bit in the four tiles of the mesh row (R163). -/
def rowCores (eid : Nat) : List Nat := [0, 1, 2, 3].map fun i => eid / 8 * 8 + 2 * i + eid % 2

/-- The accumulation type of VCHAIN (R139). -/
def accType (et : Et) : Et := if et = .f64 then .f64 else .f32
def accFmt (et : Et) : Fmt := if et = .f64 then .f64 else .f32

/-- The position of a core in a list. -/
def position (e : Nat) : List Nat → Nat
  | [] => 0
  | f :: r => if e = f then 0 else 1 + position e r

/-- A message whose fields are all zero. -/
def Msg.empty : Msg :=
  { dest := 0, src := 0, asid := 0, wld := false, kind := .request, gen := 0, guard := 0, ssn := 0, tag := none, seq := 0, opc := 0,
    addr := 0, ha := 0, a0 := 0, a1 := 0, a2 := 0, a3 := 0 }

/-- The result of an exchange arrives, with flags; a checkpoint, which is younger than every open exchange (R193), has them too (R188). -/
def State.landX (s : State) (sid : Nat) (x : XOpen) (v : VecVal) (fl : Fl) : State :=
  let t := max (s.cycleOf sid) x.ready
  s.modStrand sid fun k =>
    let k := k.receive t x.id fun _ => v
    let add := fun (l : List Pend) => if fl = 0 then l
      else l ++ [{ reg := none, val := 0, keep := 0, flags := fl, due := some t, fixed := false, id := 0 }]
    { k with pend := add k.pend, ra := k.ra.map fun c => { c with pend := add c.pend },
             xop := k.xop.filter fun (o : XOpen) => !(o.chain == x.chain && o.num == x.num),
             xin := k.xin.filter fun (o : XchgIn) => !(o.chain == x.chain && o.num == x.num) }

/-- Values that have arrived for an exchange. -/
def Strand.arrived (k : Strand) (x : XOpen) : List XchgIn :=
  k.xin.filter fun (o : XchgIn) => o.chain == x.chain && o.num == x.num

/-- Record that a participant has sent its sum, with the flags it has raised. -/
def State.setSent (s : State) (sid : Nat) (x : XOpen) (fl : Fl) : State :=
  s.modStrand sid fun k => { k with xop := k.xop.map fun (o : XOpen) =>
    if o.chain = x.chain ∧ o.num = x.num then { o with sent := true, flags := o.flags ||| fl } else o }

/-- A value of strand sid leaves for a core (R160): the strand of the same number there, by handler 0x0800, as the strand's next message. -/
def State.sendX (s : State) (sid : Nat) (x : Xchg) (e : Nat) : State :=
  let eid := sid / 4
  let m : Msg := { dest := e, src := eid, asid := (s.core eid).asid, wld := (s.strand sid).arch.wld, kind := .request,
                   gen := s.ownGen (eid / 512) (coreAgent eid), guard := 0, ssn := sid % 4, tag := none, seq := s.fresh + 1, opc := 0,
                   addr := 0, ha := intrinsic 0x0800, a0 := 0, a1 := 0, a2 := 0, a3 := 0 }
  s.bump.later (.exchange { x with msg := m })

/-- VCHAIN goes on at a participant: its sum is formed once the predecessor's is there, and sent on; the total ends it (R162). -/
def State.chainStep (s : State) (sid : Nat) (x : XOpen) : State :=
  let eid := sid / 4
  let k := s.strand sid
  let f := accFmt x.et
  let cores := s.chainCores eid
  let j := position eid cores
  let inn := k.arrived x
  match inn.find? fun i => i.total with
  | some i =>
    if i.et = accType x.et then s.landX sid x ((i.vals.headD 0).setWidth 4096) x.flags
    else s.landX sid x (BitVec.ofNat 4096 f.nan) (x.flags ||| Fl.nv)
  | none =>
    if x.sent then s
    else
      let own := (x.vals.headD 0).toNat
      let sum : Option FRes := if j = 0 then some (own, 0) else
        (inn.find? fun i => !i.total).map fun i =>
          if i.et = accType x.et then fAdd f x.rm (i.vals.headD 0).toNat own else (f.nan, Fl.nv)
      match sum with
      | none => s
      | some v =>
        let s := s.setSent sid x v.2
        let send := fun (s : State) (tot : Bool) (e : Nat) =>
          s.sendX sid { msg := Msg.empty, chain := true, num := x.num, total := tot, et := accType x.et, rlog := 0,
                        vals := [BitVec.ofNat 64 v.1] } e
        match cores[j + 1]? with
        | some e => send s false e
        | none =>
          if cores.length ≤ 1 then s.landX sid x (BitVec.ofNat 4096 v.1) (x.flags ||| v.2)
          else cores.foldl (fun s e => send s true e) s

/-- The largest magnitude of encodings: a NaN if there is one (R163). -/
def maxMag (f : Fmt) (l : List Nat) : Nat :=
  if l.any f.isNan then f.nan else l.foldl (fun m x => max m (x % 2 ^ (f.e + f.m))) 0

/-- Repeat each row's value over its columns. -/
def spread (nc : Nat) (l : List Nat) : List (Option Nat) := l.flatMap fun v => List.replicate nc (some v)

/-- VXMAX goes on at a participant: once the three other values are there, every row takes its maximum (R163). -/
def State.maxStep (s : State) (sid : Nat) (x : XOpen) : State :=
  let inn := (s.strand sid).arrived x
  match etFmt x.et with
  | none => s
  | some f =>
    if inn.length < 3 then s
    else
      let w := f.width
      let rows := List.range (2 ^ x.rlog)
      if inn.any fun i => i.et != x.et || i.rlog != x.rlog then
        s.landX sid x (BitVec.ofNat 4096 (packElems w (spread x.nc (rows.map fun _ => f.nan))).1) (x.flags ||| Fl.nv)
      else
        let m := rows.map fun r => maxMag f ((x.vals.getD r 0).toNat :: inn.map fun i => (i.vals.getD r 0).toNat)
        s.landX sid x (BitVec.ofNat 4096 (packElems w (spread x.nc m)).1) x.flags

/-- The open exchange of a kind and number goes on, if the strand has issued it. -/
def State.exchangeStep (s : State) (sid : Nat) (chain : Bool) (num : Nat) : State :=
  match (s.strand sid).xop.find? fun (o : XOpen) => o.chain == chain && o.num == num with
  | none => s
  | some x => if chain then s.chainStep sid x else s.maxStep sid x

/-- The partial dot product of R139. -/
def dotAux (f : Fmt) (src : Fmt) (rm : Rm) (p : FRes) : List (Nat × Nat) → FRes
  | [] => p
  | (a, b) :: r =>
    let q := FVal.mul (src.val a) (src.val b)
    let t := FVal.add rm (f.val p.1) q.1
    let z := f.finish rm (t.1, t.2 ||| q.2 ||| p.2)
    dotAux f src rm z r

def dot (f src : Fmt) (rm : Rm) : List (Nat × Nat) → FRes
  | [] => (0, 0)
  | (a, b) :: r => dotAux f src rm (f.finish rm (FVal.mul (src.val a) (src.val b))) r

/-- VCHAIN (R162). A lone participant's total lands as any other's, at t + n + 18 (DESIGN CHOICE, log entry 76). -/
def execVchain (d a b : VReg) (et : Et) (s : State) : Res :=
  let h := s.arch.shape
  let k := occupancy h.n (max h.w (accFmt et).width)
  let x := s.rv a
  let y := s.rv b
  .next (match etFmt et with
  | none => s.badVector
  | some src =>
    if !(etF et && et == h.et) then s.badVector
    else s.unlessAhead (s.vector true (3 * k) k fun t =>
      let p := dot (accFmt et) src s.arch.rm ((List.range h.n).map fun i => (elem x h.w i, elem y h.w i))
      let id := t.fresh + 1
      let n := t.cur.chainN
      let o : XOpen := { chain := true, num := n, id := id, pc := s.unit.pc, et := et, rlog := 0, nc := 0,
                         vals := [BitVec.ofNat 64 p.1], rm := s.arch.rm, flags := p.2, ready := s.unit.now + h.n + 18,
                         sent := false }
      let t := ({ t with fresh := id }.wlater (.v d) 0 id).modCur fun k => { k with chainN := n + 1, xop := k.xop ++ [o] }
      t.exchangeStep s.unit.sid true n))

/-- VXMAX (R163). Of several cores that are not granted, EVAL names that of the lowest tile (DESIGN CHOICE, log entry 75). -/
def execVxmax (d a : VReg) (et : Et) (s : State) : Res :=
  let h := s.arch.shape
  let k := occupancy h.n h.w
  let x := s.rv a
  .next (match etFmt et with
  | none => s.badVector
  | some f =>
    if !(etF et && et == h.et) then s.badVector
    else match (rowCores s.eid).find? fun e => !s.sameJob s.eid e with
      | some e => s.raise 5 cAccess (BitVec.ofNat 64 e)
      | none =>
        s.unlessAhead (s.vector true (2 * k) k fun t =>
          let row := fun r => (List.range h.nc).map fun c => elem x h.w (r * h.nc + c)
          let own := (List.range h.nr).map fun r => maxMag f (row r)
          let sig := (List.range h.n).any fun i => f.isSig (elem x h.w i)
          let id := t.fresh + 1
          let n := t.cur.maxN
          let rl := Nat.log2 h.nr
          let vals := own.map (BitVec.ofNat 64)
          let o : XOpen := { chain := false, num := n, id := id, pc := s.unit.pc, et := et, rlog := rl, nc := h.nc, vals := vals,
                             rm := s.arch.rm, flags := sigFlag sig, ready := s.unit.now + k + 4, sent := true }
          let t := ({ t with fresh := id }.wlater (.v d) (~~~(lowBits (h.n * h.w))) id).modCur fun k =>
            { k with maxN := n + 1, xop := k.xop ++ [o] }
          let t := (rowCores s.eid).foldl (fun t e => if e = s.eid then t else
            t.sendX s.unit.sid { msg := Msg.empty, chain := false, num := n, total := false, et := et, rlog := rl, vals := vals } e) t
          t.exchangeStep s.unit.sid false n))

end Sys2Proof.Machine
end

