-- ==== Sys2Proof/Machine/Tasks.lean ====
section
/-!
DEFINITION. Tasks (R299-R331): RET with the job-end return (R100), the lanes, the task instructions, JDEC (R408), stealing, and
the Transit ring.
-/
namespace Sys2Proof.Machine

open Sys2Proof

/-! ## Returning (R100) -/

/-- An entry is popped and control goes there; an entry with task marks is no return address (R307). -/
def State.popTo (s : State) (e : Word) (f : Arch → Arch) : State :=
  if field e 0 2 != 0 then s.raise 5 cAlignment e else (s.modArch f).jump e

/-- The job-end return (R100): the strand becomes OFF and departs once all it has set off has come about. -/
def State.jobEnd (s : State) : State :=
  s.unlessAhead (
    if s.cur.coll.isSome then s.awaitOutcome
    else if s.owes s.unit.sid || s.cur.pend.any fun p => p.due.isNone then s.retry
    else
      let j := s.jobNo s.eid
      let m := s.arch.mbidx.toNat
      let s := (s.modCur fun k => { (k.landFixed s.unit.now) with st := .off }).depart j m
      let s := s.modJob j fun b => { b with returned := b.returned ++ [m] }
      match s.job j with
      | some b => if b.members.all b.returned.contains then s.once (.jobCompletion j) else s
      | none => s)

/-- RET (R100). -/
def execRet (s : State) : Res :=
  let a := s.arch
  .next (match a.ras.getLast? with
  | some e => s.popTo e fun a => { a with ras := a.ras.dropLast }
  | none =>
    if a.rsbase.toNat < a.rstop.toNat then
      match s.cur.refill with
      | some e => (s.modCur fun k => { k with refill := none }).popTo e fun a => { a with rstop := a.rstop - 8 }
      | none =>
        match s.check [a.rstop - 8] 8 8 false true true true with
        | some c => s.raise c.rank c.code c.eval
        | none =>
          let u := s.issueLoad .refill (pieces (a.rstop - 8) 8) false false 0
          if u.unit.status = .waiting then u else u.waits.modCur fun k => { k with wait := .result u.fresh }
    else if s.cur.worker && a.depth == 0 && a.prv == 0 then s.jobEnd
    else s.raise 5 cReturnUnderflow a.rstop)

/-! ## Lanes (R300-R303) -/

/-- A place in a core's own tile by tile offset. -/
def tilePlace (eid off : Nat) : Place := .tile (eid / 512) (eid / 32 % 16) (eid / 2 % 16) off 6

/-- Entries of a lane on the core and spilled (R300). -/
def laneH (w : Nat) : Nat := 64 / max 1 w
def laneS (w : Nat) : Nat := 1024 / max 1 w

/-- The deque control block of a worker (R302): the copy area, and the spill array where there is one. A block that DQBASE puts past
the tile's 1 MiB reads on in the next tile (DESIGN CHOICE, log entry 67). -/
def State.laneCtl (s : State) (sid : Nat) : Word × Nat × Option Nat :=
  let eid := sid / 4
  let base := field (s.core eid).dqbase 6 14 * 64 + 32 * (sid % 4)
  let copy : Word := BitVec.ofNat 64 (s.readAt (tilePlace eid base) 8)
  let size := s.readAt (tilePlace eid (base + 8)) 4
  let spill := s.readAt (tilePlace eid (base + 12)) 4
  let size := if size % 128 = 0 ∧ size ≤ 0x40000 ∧ copy.toNat % 128 = 0 then size else 0
  (copy, size, if spill % 32 = 0 ∧ spill + 32 * laneS (s.core eid).w ≤ 0x100000 then some spill else none)

/-- Entries a lane may hold. -/
def State.laneCap (s : State) (sid : Nat) : Nat :=
  let w := (s.core (sid / 4)).w
  laneH w + (if (s.laneCtl sid).2.2.isSome then laneS w else 0)

/-- Entries of a lane that stand on the core. -/
def onCore (l : List LaneEntry) : Nat := (l.filter fun (e : LaneEntry) => !e.spilled).length

/-- The place of a spilled entry. -/
def State.spillPlace (s : State) (sid base num : Nat) : Place :=
  tilePlace (sid / 4) (base + 32 * (num % laneS (s.core (sid / 4)).w))

/-- An entry as it is read: a spilled one from the spill array. -/
def State.laneRead (s : State) (sid : Nat) (e : LaneEntry) : LaneEntry :=
  match e.spilled, (s.laneCtl sid).2.2 with
  | true, some base =>
    let v := s.readAt (s.spillPlace sid base e.num) 32
    { e with w0 := wordAt v 0, fr := wordAt v 1, a0 := wordAt v 2, a1 := wordAt v 3, spilled := false }
  | _, _ => e

/-- The oldest entry on the core goes to the spill array (LANE_SPILL, R303). -/
def State.laneSpill (s : State) (sid : Nat) : State :=
  let k := s.strand sid
  match k.lane.find? (fun (e : LaneEntry) => !e.spilled), (s.laneCtl sid).2.2 with
  | some e, some base =>
    let s := s.writeAt (s.spillPlace sid base e.num) 32 (packWords [e.w0, e.fr, e.a0, e.a1])
    s.modStrand sid fun k => { k with lane := k.lane.map fun (o : LaneEntry) => if o.num = e.num then { o with spilled := true } else o }
  | _, _ => s

/-- Push an entry at the tail (R303), with the strand that pushes it and how far it had come (R326). -/
def State.lanePush (s : State) (sid : Nat) (e : LaneEntry) : State :=
  let s := if onCore (s.strand sid).lane < laneH (s.core (sid / 4)).w then s else s.laneSpill sid
  s.modStrand sid fun k =>
    let e := { e with num := k.pushN, at_ := s.cycleOf sid, spilled := false, resv := none, src := sid, stamp := s.fresh }
    { k with lane := k.lane ++ [e], pushN := k.pushN + 1 }

/-- Read back the newest n spilled entries: `l` is newest first. -/
def State.readBack (s : State) (sid : Nat) : Nat → List LaneEntry → List LaneEntry
  | _, [] => []
  | 0, l => l
  | n + 1, e :: r => if e.spilled then s.laneRead sid e :: s.readBack sid n r else e :: s.readBack sid (n + 1) r

/-- Entries that come back to the core when fewer than H/2 are left there (R303). -/
def State.laneSettle (s : State) (sid : Nat) : State :=
  let h := laneH (s.core (sid / 4)).w
  s.modStrand sid fun k =>
    let n := onCore k.lane
    if 2 * n < h then { k with lane := (s.readBack sid (3 * h / 4 - n) k.lane.reverse).reverse } else k

/-- Entries leave a lane. -/
def State.laneRemove (s : State) (sid : Nat) (nums : List Nat) : State :=
  (s.modStrand sid fun k => { k with lane := k.lane.filter fun (e : LaneEntry) => !nums.contains e.num }).laneSettle sid

/-- Is an entry a work record; its U, or its C (R301)? -/
def LaneEntry.work (e : LaneEntry) : Bool := e.w0.getLsbD 0
def LaneEntry.mark (e : LaneEntry) : Bool := e.w0.getLsbD 1
def LaneEntry.counted (e : LaneEntry) : LaneEntry := if e.work then { e with w0 := putBit e.w0 1 true } else e
/-- The address an entry resumes at. -/
def LaneEntry.addr (e : LaneEntry) : Word := e.w0 &&& ~~~(3 : Word)
/-- A work record's range and length. -/
def LaneEntry.lo (e : LaneEntry) : Nat := field e.a1 0 32
def LaneEntry.hi (e : LaneEntry) : Nat := field e.a1 32 32
def LaneEntry.len (e : LaneEntry) : Nat := e.hi - e.lo

def laneEntry (w0 fr a0 a1 : Word) : LaneEntry :=
  { w0 := w0, fr := fr, a0 := a0, a1 := a1, num := 0, at_ := 0, spilled := false, resv := none, src := 0, stamp := 0, left := [] }

/-- Does the lane hold a continuation (R313)? The newest one. -/
def Strand.newestCont (k : Strand) : Option LaneEntry := k.lane.reverse.find? fun (e : LaneEntry) => !e.work

/-! ## Starting a record (R312) -/

/-- The descriptors of a frame from its 64 bytes: GVA and SIZE. -/
def descriptors (v : Nat) : List (Word × Nat) :=
  [0, 1, 2, 3].map fun j => (wordAt v (2 * j), v / 2 ^ (128 * j + 64) % 2 ^ 32)

/-- h_j of a start that copies nothing. -/
def descHs (l : List (Word × Nat)) : List Word := l.map fun d => if d.2 = 0 then 0 else d.1

/-- Read NT0 to NT3 for a start or a pop-back: `f` goes on with h0 to h3 and the cause of a refused read. -/
def State.withDescr (s : State) (fr : Word) (f : State → List Word → Option Nat → State) : State :=
  let g := frameOf fr
  if g = 0 then f s [0, 0, 0, 0] none
  else if s.rowBarred (s.arch.prv == 0) false 64 (g + 0x30) then f s [0, 0, 0, 0] (some cAccess)
  else if s.busyAccs then s.retry
  else if !s.unitFree (g + 0x30) 64 then s.missWait
  else match s.unitRead (g + 0x30) 64 with
    | (s, .value v) => f s (descHs (descriptors v)) none
    | (s, .unmapped w) => s.heldUnit w
    | (s, .denied _) => f s [0, 0, 0, 0] (some cAccess)
    | (s, .poison _) => f s [0, 0, 0, 0] (some cLoadFault)
    | (s, .wait) => s.retry

/-- The registers that a record, a pop-back or a resumed frame installs, and the cause of a refused read before the unit there
(R312); bits of no field read zero (R7). -/
def State.install (s : State) (pc fr a0 a1 : Word) (hs : List Word) (depth : BitVec 32) (fault : Option Nat) : State :=
  let s := ((s.modCur fun k => k.overwrite [.x 16, .x 17]).modArch fun a =>
    let a := (a.setX 16 a0).setX 17 a1
    { a with frame := fr &&& regMask 0x25, h := Vector.ofFn fun i => hs.getD i.val 0 &&& regMask 0x1C, depth := depth }).jump pc
  match fault with
  | some c => s.post s.unit.sid c (frameOf fr + 0x30) (some pc)
  | none => s

/-- A task that the strand takes up at a depth brings the commands that it has left elsewhere (R242). -/
def State.takeLeft (s : State) (depth : Nat) (l : List Left) : State :=
  s.modCur fun k => { k with left := (k.left.filter fun q => q.1 < depth) ++ l.map fun e => (depth, e) }

/-- The commands of the task that the strand runs, for one that goes on with it: those that stand elsewhere, and the strand's own (R242). -/
def State.taskLeft (s : State) : List Left :=
  let d := s.arch.depth.toNat
  (s.cur.left.filter fun q => d ≤ q.1).map (·.2) ++ [{ sid := s.unit.sid, upto := s.fresh, depth := d }]

/-- Start a record; `inl` where the start pushed a 11 mark (R312). -/
def State.startRecord (s : State) (e : LaneEntry) (inl : Bool) (hs : List Word) (fault : Option Nat) : State :=
  let fr := putBit (if e.work then putBit e.fr 0 false else e.fr) 1 inl
  (s.takeLeft (s.arch.depth.toNat + 1) e.left).install e.addr fr e.a0 e.a1 hs (s.arch.depth + 1) fault

/-- The next unit's address with task marks. -/
def State.marked (s : State) (m : Nat) : Word := s.unit.next ||| BitVec.ofNat 64 m

/-! ## SPAWN, PUBF, WPUSH, WPOP (R310, R311, R315, R316) -/

/-- SPAWN (R310). -/
def execSpawn (off : BitVec 22) (s : State) : Res :=
  let a := s.arch
  let t := s.target off
  let enter := fun (s : State) (inl : Bool) => (s.modArch fun a =>
    { a with frame := putBit (if inl then putBit a.frame 1 true else a.frame) 0 false, depth := a.depth + 1 }).jump t
  .next (s.unlessAhead (
    if s.cur.worker && s.cur.lane.length < s.laneCap s.unit.sid then
      let u := a.depth == 0 || !frameOwn a.frame || frameInl a.frame
      s.pushRet (s.marked 1) fun s =>
        enter (s.lanePush s.unit.sid { laneEntry (s.unit.next ||| (if u then 2 else 0)) a.frame (a.getX 16) (a.getX 17) with
          left := s.taskLeft }) false
    else s.pushRet (s.marked 3) fun s => enter s true))

/-- Is a descriptor valid (R311)? -/
def descValid (d : Word × Nat) : Bool := d.2 == 0 || (d.2 % 128 == 0 && d.2 ≤ 65536 && d.1.toNat % 128 == 0)

/-- PUBF (R311). -/
def execPubf (a : XReg) (s : State) : Res :=
  let g := s.rx a
  let inl := if frameInl s.arch.frame then 2 else 0
  .next (s.unlessAhead (
    if g = 0 then s.modArch fun r => { r with frame := inl }
    else if field g 0 8 != 0 then s.raise 5 cAlignment g
    else s.checked (s.check [g] 16 8 true false true false) (s.unitLoad (g + 0x30) 64 fun s v =>
      match (List.range 4).find? fun j => !descValid ((descriptors v).getD j (0, 0)) with
      | some j => s.raise 5 cAlignment (g + 0x30 + BitVec.ofNat 64 (16 * j))
      | none => s.checked (s.check [g] 16 8 true false true true) (
        let u := s.issueStore (pieces g 16) (s.arch.frame.toNat * 2 ^ 64) true
        if u.unit.status = .waiting then u else u.modArch fun r => { r with frame := g + 1 + inl }))))

/-- WPUSH (R315). -/
def execWpush (a b : XReg) (s : State) : Res :=
  let g := s.rx a
  .next (s.unlessAhead (
    if field g 0 2 != 0 then s.raise 5 cAlignment g
    else if !s.cur.worker || s.laneCap s.unit.sid ≤ s.cur.lane.length then s.raise 5 cAccess (BitVec.ofNat 64 s.eid)
    else s.lanePush s.unit.sid (laneEntry (g ||| 1) s.arch.frame (s.arch.getX 16) (s.rx b))))

/-- WPOP (R316). -/
def execWpop (d : XReg) (s : State) : Res :=
  .next (s.unlessAhead (
    match s.cur.worker, s.cur.lane.getLast? with
    | true, some e0 =>
      if !e0.work then s.wxs d 0 1
      else if e0.resv.isSome then s.retry
      else
        let e := s.laneRead s.unit.sid e0
        s.withDescr e.fr fun s hs fault =>
          s.pushRet (s.marked (if e.mark then 2 else 3)) fun s =>
            ((s.laneRemove s.unit.sid [e.num]).wxs d 1 1).startRecord e (!e.mark) hs fault
    | _, _ => s.wxs d 0 1))

/-! ## The return to an anchor (R307, R313) -/

/-- The newest entry marked 10 among `l`, newest first, with what lies under it and the boundaries passed. -/
def scanRas : List Word → Nat → Option (Word × List Word) × Nat
  | [], d => (none, d)
  | e :: r, d => if field e 0 2 = 2 then (some (e, r), d) else scanRas r (d + if field e 0 2 = 0 then 0 else 1)

/-- What the scan of the spill area comes to: the anchor with RSTOP above it and the boundaries passed, none, or a reading
that gave no value, or for which no miss register is free. -/
inductive Scan where
  | anchor (e top : Word) (d : Nat)
  | bottom
  | failed (g : Got)
  | traps (c : Cause)
  | full
  deriving DecidableEq, Repr

/-- Scan n spilled entries below `top`. -/
def State.scanSpill (s : State) : Nat → Word → Nat → State × Scan
  | 0, _, _ => (s, .bottom)
  | n + 1, top, d =>
    match s.check [top - 8] 8 8 false true true true with
    | some c => (s, .traps c)
    | none =>
      if !s.unitFree (top - 8) 8 then (s, .full)
      else match s.unitRead (top - 8) 8 with
      | (s, .value v) =>
        let e := BitVec.ofNat 64 v
        if field e 0 2 = 2 then (s, .anchor e top d)
        else State.scanSpill s n (top - 8) (d + if field e 0 2 = 0 then 0 else 1)
      | (s, g) => (s, .failed g)

/-- What reading came to that gave no value, for the unit. -/
def State.failRead (s : State) (g : Got) : State :=
  match g with
  | .unmapped w => s.heldUnit w
  | .denied w => s.refusal cAccess w
  | .poison w => s.refusal cLoadFault w
  | _ => s.retry

/-- Find the anchor that the unit returns to: `f` goes on with the store, RSTOP and DEPTH that are left, the anchor's entry
still there. -/
def State.withAnchor (s : State) (target : Word) (f : State → Ask → State) : State :=
  let a := s.arch
  let r := scanRas a.ras.reverse 0
  match r.1 with
  | some (e, under) =>
    f s { id := 0, target := target, ras := (e :: under).reverse, rstop := a.rstop, depth := a.depth - BitVec.ofNat 32 r.2, anchor := some e,
          reply := none }
  | none =>
    match s.scanSpill ((a.rstop.toNat - a.rsbase.toNat) / 8) a.rstop r.2 with
    | (s, .anchor e top d) =>
      f s { id := 0, target := target, ras := [], rstop := top, depth := a.depth - BitVec.ofNat 32 d, anchor := some e, reply := none }
    | (s, .bottom) => f s { id := 0, target := target, ras := a.ras, rstop := a.rstop, depth := a.depth, anchor := none, reply := none }
    | (s, .failed g) => s.failRead g
    | (s, .traps c) => s.raise c.rank c.code c.eval
    | (s, .full) => s.missWait

/-- Return to the anchor with the reply DONE (R313). -/
def State.returnTo (s : State) (k : Ask) : State :=
  match k.anchor with
  | none => s.raise 5 cReturnUnderflow s.arch.rstop
  | some e =>
    let s := s.modCur fun t => { t with ask := none }
    (s.modArch fun a => { a with ras := k.ras.dropLast, rstop := if k.ras.isEmpty then k.rstop - 8 else k.rstop,
                                 depth := k.depth - 1 }).jump (e &&& ~~~(3 : Word))

/-- The registers of a parked frame as TEND and JDEC take them up: `f` goes on with RPC, RX16, RX17 and RH0 to RH3 (R304). -/
def State.withParked (s : State) (t : Word) (f : State → Word → Word → Word → List Word → State) : State :=
  s.unitLoad (t + 0x10) 0x80 fun s v =>
    f s (wordAt v 0) (wordAt v 1) (wordAt v 2) ([12, 13, 14, 15].map (wordAt v))

/-- The frame that a strand continues in after a RESUME. -/
def resumedFrame (t : Word) : Word := t + 1

/-! ## TEND (R313) -/

/-- The newest return-address entry, read from the spill area where the core holds none: `f` goes on with it, or with none where there
is none. -/
def State.withNewest (s : State) (f : State → Option Word → State) : State :=
  let a := s.arch
  match a.ras.getLast? with
  | some e => f s (some e)
  | none =>
    if a.rsbase.toNat < a.rstop.toNat then
      s.checked (s.check [a.rstop - 8] 8 8 false true true true) (s.withRead (a.rstop - 8) 8 fun s v => f s (some (BitVec.ofNat 64 v)))
    else f s none

/-- The store without its newest entry. -/
def Arch.popEntry (a : Arch) : Arch :=
  if a.ras.isEmpty then { a with rstop := a.rstop - 8 } else { a with ras := a.ras.dropLast }

/-- The join target (R305): `f` goes on with it. -/
def State.withTarget (s : State) (f : State → Word → State) : State :=
  let fr := s.arch.frame
  if frameOwn fr then s.unitLoad (frameOf fr + 8) 8 fun s v => f s (frameOf (BitVec.ofNat 64 v)) else f s (frameOf fr)

/-- Has a strand commands of these left that are not complete (R242)? -/
def State.leftOpen (s : State) (l : Left) : Bool :=
  let eid := l.sid / 4
  let n := l.sid % 4
  (s.core eid).reqs.any (fun (_, r) => r.cmd && r.snum == n && l.depth ≤ r.depth && r.id ≤ l.upto) ||
    (eid % 2 == 1 && (s.tile (eid / 2)).matrix.tags.toList.any fun t =>
      t.used && t.fault.isNone && t.snum == n && l.depth ≤ t.depth && t.seq ≤ l.upto)

/-- Has the task that the strand runs engine commands that are not complete, its own or those that it issued on a strand that it has left by a
park or a theft (R242)? -/
def State.owesEngines (s : State) : Bool := s.taskLeft.any s.leftOpen

/-- The commands that a parked frame's task has left come with it (R242). -/
def State.unparked (s : State) (depth : Nat) (f : Word) : State :=
  let j := s.jobNo s.eid
  let l := match s.jobOf s.eid with
    | some b => ((b.parked.find? fun q => q.1 == f).map (·.2)).getD []
    | none => []
  (s.takeLeft depth l).modJob j fun b => { b with parked := b.parked.filter fun q => q.1 != f }

/-- A task that parks leaves its commands with its frame (R242). -/
def State.leaveParked (s : State) (f : Word) : State :=
  let l := s.taskLeft
  s.modJob (s.jobNo s.eid) fun b => { b with parked := (b.parked.filter fun q => q.1 != f) ++ [(f, l)] }

/-- Send the join decrement of a TEND or JDEC, with a miss register, and wait for its reply (R220). -/
def State.sendDecrement (s : State) (k : Ask) : State :=
  if !s.unitFree k.target 8 then s.missWait
  else s.numbered { s.request k.target with dest := s.frameOwner s.curCore.asid s.eid k.target, ha := intrinsic 0x0400 } fun s m =>
    ((s.modCur fun t => { t with ask := some { k with id := m.seq } }).later (.joinDecrement m)).awaitReply

/-- TEND once its reply has come. -/
def State.tendReply (s : State) (k : Ask) (code : Nat) (resume : Bool) : State :=
  if code != 0 then s.badReply code k.target
  else if k.anchor.isNone then s.raise 5 cReturnUnderflow s.arch.rstop
  else if resume then
    s.withParked k.target fun s pc a0 a1 hs =>
      let s := (s.unparked k.depth.toNat k.target).modCur fun t => { t with ask := none }
      (s.modArch fun a => { a with ras := k.ras, rstop := k.rstop }).install pc (resumedFrame k.target) a0 a1 hs k.depth none
  else s.returnTo k

/-- TEND with its newest entry and join target in hand. -/
def State.tendWith (s : State) (e t : Word) : State :=
  let m := field e 0 2
  let cont := s.cur.newestCont
  if (m = 2 ∨ m = 1 ∧ cont.isNone) ∧ t ≠ 0 ∧ !s.routed .int t then s.raise 5 cAtomicRoute t
  else if m = 3 then (s.modArch fun a => { a.popEntry with depth := a.depth - 1 }).jump (e &&& ~~~(3 : Word))
  else match m == 1, cont with
    | true, some c0 =>
      if c0.resv.isSome then s.retry
      else
        let c := s.laneRead s.unit.sid c0
        s.withDescr c.fr fun s hs fault =>
          let s := s.laneRemove s.unit.sid [c.num]
          (s.modArch Arch.popEntry).install c.addr c.fr c.a0 c.a1 hs (s.arch.depth - 1) fault
    | _, _ =>
      s.withAnchor t fun s k =>
        if t = 0 then s.returnTo k
        else if s.rowBarred (s.arch.prv == 0) false 8 t then s.raise 5 cAccess t
        else if s.owes s.unit.sid || s.owesEngines then s.retry
        else s.sendDecrement k

/-- TEND (R313). -/
def execTend (s : State) : Res :=
  .next (s.unlessAhead (
    match s.cur.ask with
    | some k => (match k.reply with
      | none => s.awaitReply
      | some (code, resume) => s.tendReply k code resume)
    | none =>
      if s.arch.depth = 0 then s.raise 5 cIllegal 0x10000
      else s.withNewest fun s newest => match newest with
        | none => s.raise 5 cReturnUnderflow s.arch.rstop
        | some e =>
          if field e 0 2 = 0 then s.raise 5 cIllegal 0x10000
          else s.withTarget fun s t => s.tendWith e t))

/-- JDEC (R408). -/
def execJdec (d a : XReg) (s : State) : Res :=
  let g := s.rx a
  .next (s.unlessAhead (
    match s.cur.ask with
    | some k => (match k.reply with
      | none => s.awaitReply
      | some (code, resume) =>
        if code != 0 then s.badReply code k.target
        else if resume then
          s.withParked k.target fun s pc a0 a1 hs => s.pushRet (s.marked 2) fun s =>
            (((s.unparked (s.arch.depth.toNat + 1) k.target).modCur fun t => { t with ask :=
              none }).wxs d 1 1).install pc (resumedFrame k.target) a0 a1 hs (s.arch.depth + 1) none
        else (s.modCur fun t => { t with ask := none }).wxs d 0 1)
    | none =>
      if g = 0 then s.wxs d 0 1
      else s.checked (s.check [g] 8 256 true false (s.routed .int g) false)
        (if s.owes s.unit.sid then s.retry
         else s.sendDecrement { id := 0, target := g, ras := [], rstop := 0, depth := 0, anchor := none, reply := none })))

/-! ## SYNC (R314) -/

/-- Is the cluster of a core HOT or OVER (R328)? -/
def State.withheld (s : State) (eid : Nat) : Bool :=
  (s.cluster (eid / 32)).hot || (s.cluster (eid / 32)).overBit || (s.cluster (eid / 32)).retd

/-- Does no h register lie in the strand's copy area? -/
def State.hsOutside (s : State) (sid : Nat) : Bool :=
  let c := s.laneCtl sid
  (s.strand sid).arch.h.toList.all fun g => c.2.1 ≤ (g - c.1).toNat

/-- May a SYNC park, but for its newest entry? -/
def State.parkable (s : State) : Bool :=
  s.cur.worker && s.arch.depth != 0 && !frameInl s.arch.frame && s.hsOutside s.unit.sid && !s.withheld s.eid

/-- Park (R314): the frame keeps where the task goes on, and the strand returns to its anchor. -/
def State.park (s : State) (f : Word) (fst : Nat) : State :=
  if s.owes s.unit.sid then s.retry
  else s.withAnchor f fun s k =>
    let a := s.arch
    s.checked (s.check [f + 0x10] 24 8 true false true true) (s.checked (s.check [f + 0x70] 32 8 true false true true)
      (s.checked (s.check [f] 8 8 true false true true)
        (s.withStores [⟨f + 0x10, 24, packWords [s.unit.next, a.getX 16, a.getX 17]⟩, ⟨f + 0x70, 32, packWords a.h.toList⟩,
          ⟨f + 4, 4, fst ||| 2⟩] fun s => (s.leaveParked f).returnTo k)))

/-- Register WAIT (R314). -/
def State.registerWait (s : State) (f : Word) (fst : Nat) : State :=
  s.checked (s.check [f] 8 8 true false true true)
    (s.withWrite (f + 4) 4 (fst % 8 + 4 + s.snum * 2 ^ 8 + s.eid * 2 ^ 10) fun s => s.block .sync)

/-- SYNC with its frame's word in hand. -/
def State.syncWith (s : State) (f : Word) (w : Nat) : State :=
  let fst := w / 2 ^ 32
  let go := fun (s : State) => if fstWait fst then s.pollIn 256 else s.registerWait f fst
  if w % 2 ^ 32 = 0 then s
  else if s.parkable then
    s.withNewest fun s newest =>
      if newest.any fun e => field e 0 2 == 2 || field e 0 2 == 1 && s.cur.newestCont.isNone then s.park f fst else go s
  else go s

/-- SYNC (R314). -/
def execSync (s : State) : Res :=
  let f := frameOf s.arch.frame
  .next (s.unlessAhead (
    if f = 0 then s
    else s.unitLoad f 8 fun s w => s.syncWith f w))

/-- SYNC_POLL (R314): the 256 cycles are over. -/
def execSyncPoll (sid : Nat) (s : State) : Res :=
  .next (match (s.strand sid).poll with
  | none => s
  | some d => if s.cycleOf sid < d then s.notYet else (s.modStrand sid fun k => { k with poll := none }).wake sid)

/-! ## Donation queues (R317-R319) -/

/-- SEQ against a position, as a signed difference: 0 equal, 1 below, 2 above. -/
def seqCompare (seq pos : Word) : Nat := if seq = pos then 0 else if (seq - pos).msb then 1 else 2

/-- The GVA of the slot of a position. -/
def slotGva (q : Word) (capl : Nat) (pos : Word) : Word := q + 0x40 + BitVec.ofNat 64 (64 * (pos.toNat % 2 ^ capl))

/-- Add to a core's CNT and set MARKED (R329). -/
def State.noteCount (s : State) (eid : Nat) (n : Int) (mark : Bool) : State :=
  s.modCore eid fun c => { c with cnt := c.cnt + n, marked := c.marked || mark }

/-- Reserve or free the records of a theft or a DONATE (R317, R324). -/
def State.reserve (s : State) (sid : Nat) (nums : List Nat) (by_ : Option Nat) : State :=
  s.modStrand sid fun k => { k with lane := k.lane.map fun (e : LaneEntry) => if nums.contains e.num then { e with resv := by_ } else e }

/-- A DONATE is over: what it had reserved returns to the lane. -/
def State.donated (s : State) : State :=
  let me := some s.unit.sid
  s.modCur fun k => { k with progress := none, lane := k.lane.map fun (e : LaneEntry) => if e.resv = me then { e with resv := none } else e }

/-- The producer steps for the records reserved, oldest first; each one placed leaves the lane (R317, R318). -/
def State.donateEach (s : State) (q : Word) : List LaneEntry → State
  | [] => s.donated
  | e0 :: r =>
    let e := s.laneRead s.unit.sid e0
    if s.owes s.unit.sid then s.retry else
    s.withRead q 20 fun s v =>
      let t := wordAt v 0
      let capl := v / 2 ^ 128 % 2 ^ 32
      if capl = 0 ∨ 12 < capl then s.donated
      else
        let slot := slotGva q capl t
        if s.rowBarred (s.arch.prv == 0) false 40 slot then s.raise 5 cAccess slot else
        s.withRead (slot + 32) 8 fun s seq =>
          match seqCompare (BitVec.ofNat 64 seq) t with
          | 1 => s.donated
          | 2 => s.pollIn 1
          | _ =>
            match s.framePlace s.eid s.curCore.asid s.arch.wld (if e.mark then 0 else frameOf e.fr) with
            | (s, .unmapped) => s.heldUnitBy .atomic (frameOf e.fr)
            | (s, .bad code) => s.raise 5 code (frameOf e.fr)
            | (s, .wait) => s.retry
            | (s, _) =>
              s.withStores [⟨q, 8, (t + 1).toNat⟩, ⟨slot, 40, packWords [e.w0 ||| 2, e.fr, e.a0, e.a1, t + 1]⟩] fun s =>
                let s := if e.mark then s else s.joinInc s.eid s.curCore.asid s.arch.wld (frameOf e.fr)
                let s := (s.laneRemove s.unit.sid [e.num]).noteCount s.eid 1 true
                State.donateEach (s.modCur fun k => { k with progress := k.progress.map (· - 1) }) q r

/-- DONATE (R317): the records are reserved at the unit's first issue. -/
def execDonate (a b : XReg) (s : State) : Res :=
  let g := s.rx a
  .next (s.unlessAhead (
    if !s.cur.worker then s
    else
      let mine := fun (s : State) => s.cur.lane.filter fun (e : LaneEntry) => e.resv == some s.unit.sid
      if s.cur.progress.isSome then s.donateEach g (mine s)
      else s.checked (s.check [g] 8 64 true false (s.routed .int g) false) (
        if s.owes s.unit.sid then s.retry
        else
          let free := s.cur.lane.dropWhile fun (e : LaneEntry) => e.resv.isSome
          let run := (free.takeWhile fun (e : LaneEntry) => e.work && e.resv.isNone).take (min (s.rx b).toNat 16)
          let nums := run.map fun (e : LaneEntry) => e.num
          let s := (s.reserve s.unit.sid nums (some s.unit.sid)).modCur fun k => { k with progress := some nums.length }
          s.donateEach g (mine s))))

/-- DPULL (R319). -/
def execDpull (d a : XReg) (s : State) : Res :=
  let q := s.rx a
  .next (s.unlessAhead (
    if !s.cur.worker || s.withheld s.eid then s.wxs d 0 1
    else s.checked (s.check [q] 8 64 true false (s.routed .int q) false) (
      if s.owes s.unit.sid then s.retry else
      s.withRead q 20 fun s v =>
        let h := wordAt v 1
        let capl := v / 2 ^ 128 % 2 ^ 32
        if capl = 0 ∨ 12 < capl then s.wxs d 0 1
        else
          let slot := slotGva q capl h
          if s.rowBarred (s.arch.prv == 0) false 40 slot then s.raise 5 cAccess slot else
          s.withRead slot 40 fun s r =>
            match seqCompare (wordAt r 4) (h + 1) with
            | 1 => s.wxs d 0 1
            | 2 => s.pollIn 1
            | _ =>
              let e := laneEntry (wordAt r 0) (wordAt r 1) (wordAt r 2) (wordAt r 3)
              s.withDescr e.fr fun s hs fault => s.ifPush (s.marked 2) fun s =>
                s.withStores [⟨q + 8, 8, (h + 1).toNat⟩, ⟨slot + 32, 8, (h + BitVec.ofNat 64 (2 ^ capl)).toNat⟩] fun s =>
                  s.pushRet (s.marked 2) fun s =>
                    ((s.noteCount s.eid (-1) false).wxs d 1 1).startRecord e false hs fault)))

/-! ## QUIET and the steal engine (R320-R323) -/

/-- A strand waits in the steal loop: the engine's search begins unless it is under way. -/
def State.stealLoop (s : State) : State :=
  let s := (s.block .steal).modCore s.eid fun c =>
    { c with steal := { c.steal with queue := if c.steal.queue.contains s.unit.sid then c.steal.queue else c.steal.queue ++ [s.unit.sid] } }
  if s.curCore.steal.busy || !s.cur.stolen.isEmpty then s
  else (s.modCore s.eid fun c => { c with steal := { c.steal with probe := 0, drawn := [], busy := true } }).later (.stealProbe s.eid)

/-- QUIET (R320). -/
def execQuiet (d : XReg) (s : State) : Res :=
  .next (s.unlessAhead (
    if !s.cur.worker || s.arch.depth != 0 then s.illegal 1
    else
      let k := s.cur
      match k.start, k.stolen with
      | some st, e :: r =>
        if st.hs.length < 4 then s.block .steal
        else s.pushRet (s.unit.pc ||| 2) fun s =>
          let s := r.foldl (fun s e => s.lanePush s.unit.sid e) s
          let s := (s.count s.eid 0x08 1 (some s.unit.sid)).modCur fun k => { k with start := none, stolen := [], detect := none }
          s.startRecord e false st.hs st.fault
      | _, _ =>
        match k.detect with
        | some n => (s.modCur fun k => { k with detect := none }).wxs d (BitVec.ofNat 64 n) 1
        | none => s.stealLoop))

/-- Does a strand wait in the steal loop without a record? -/
def Strand.idleInQuiet (k : Strand) : Bool := k.st == .blocked && k.wait == Wait.steal && k.stolen.isEmpty

/-- The draw generator (R323). -/
def drawNext (g : BitVec 16) : BitVec 16 := (g >>> 1) ^^^ (if g.getLsbD 0 then 0xB400 else 0)

/-- A draw among candidates. -/
def Core.draw (c : Core) (l : List Nat) : Core × Nat :=
  let g := drawNext c.seed
  ({ c with seed := g }, l.getD (g.toNat % max 1 l.length) 0)

/-- The clusters in which the cores of a list lie, ascending. -/
def clustersOf (l : List Nat) : List Nat := (List.range 16).filterMap fun i =>
  (l.find? fun e => e / 32 % 16 == i).map (· / 32)

/-- The dies of a package in which the cores of a list lie, ascending. -/
def diesIn (l : List Nat) : List Nat := (List.range 8).filterMap fun i => (l.find? fun e => e / 512 % 8 == i).map (· / 512)

/-- The victim of a probe (R321, R323): the core with what has been drawn, and the victim, none where the level has no
candidate left. A drawn die is noted as its number + 2^32. -/
def State.victimOf (s : State) (eid probe : Nat) : Core × Option Nat :=
  let c := s.core eid
  let cores := match s.jobOf eid with
    | some b => b.cores
    | none => [eid]
  let pick := fun (c : Core) (clu : Nat) => let r := c.draw (cores.filter fun e => e / 32 == clu); (r.1, some r.2)
  if probe = 0 then (c, some eid)
  else if probe ≤ 3 then
    let ring := s.chainCores eid
    (c, if probe < ring.length then ring[(position eid ring + probe) % ring.length]? else none)
  else if probe ≤ 6 then
    let l := (clustersOf (cores.filter fun e => e / 512 == eid / 512)).filter fun k => k != eid / 32 && !c.steal.drawn.contains k
    if l.isEmpty then (c, none)
    else
      let (c, k) := c.draw l
      pick { c with steal := { c.steal with drawn := k :: c.steal.drawn } } k
  else
    let l := (diesIn (cores.filter fun e => e / 4096 == eid / 4096)).filter fun k =>
      k != eid / 512 && !c.steal.drawn.contains (k + 2 ^ 32)
    if l.isEmpty then (c, none)
    else
      let (c, k) := c.draw l
      let (c, k2) := ({ c with steal := { c.steal with drawn := (k + 2 ^ 32) :: c.steal.drawn } } : Core).draw
        (clustersOf (cores.filter fun e => e / 512 == k))
      pick c k2

/-- The next probe, from `probe` on, that has a victim; past probe 8 the round is over. -/
def State.nextProbe (s : State) (eid : Nat) : Nat → Nat → State
  | 0, _ => s.later (.stealRoundTimer eid)
  | fuel + 1, probe =>
    let (c, v) := s.victimOf eid probe
    let s := s.setCore eid c
    match v, c.steal.queue with
    | some v, t :: _ =>
      ((s.count eid 0x06 1 (some t)).modCore eid fun c => { c with steal := { c.steal with probe := probe } }).later (.theft t v probe)
    | _, _ => State.nextProbe s eid fuel (probe + 1)

/-- The engine stops searching. -/
def State.stealIdle (s : State) (eid : Nat) : State :=
  s.modCore eid fun c => { c with steal := { c.steal with busy := false, probe := 0, drawn := [] } }

/-- STEAL_PROBE (R321): the search goes on for the oldest strand that still waits; not in a HOT or OVER cluster. -/
def execStealProbe (eid : Nat) (s : State) : Res :=
  let s := s.modCore eid fun c => { c with steal := { c.steal with queue := c.steal.queue.filter fun t =>
    (s.strand t).st == .blocked && (s.strand t).wait == Wait.steal && (s.strand t).stolen.isEmpty } }
  let c := s.core eid
  .next (if c.steal.queue.isEmpty then s.stealIdle eid
    else if s.withheld eid then s.notYet
    else s.nextProbe eid (9 - c.steal.probe) c.steal.probe)

/-- STEAL_ROUND_TIMER (R321): a new round after 256 cycles. -/
def execStealRoundTimer (eid : Nat) (s : State) : Res :=
  .next ((s.modCore eid fun c => { c with steal := { c.steal with probe := 0, drawn := [] } }).later (.stealProbe eid))

/-- What a thief takes from a lane (R322), at most n records. -/
def takeFrom (n : Nat) : List LaneEntry → Option Taking
  | [] => none
  | h :: r =>
    if !h.work then
      (if h.mark then none else some { recs := [h], gone := [h.num], keep := none, incs := [frameOf h.fr] })
    else
      let run := (h :: r).takeWhile fun (e : LaneEntry) => e.work
      if 2 ≤ run.length then
        let t := run.take (min (run.length / 2) n)
        some { recs := t.map LaneEntry.counted, gone := t.map fun (e : LaneEntry) => e.num, keep := none,
               incs := (t.filter fun (e : LaneEntry) => !e.mark).map fun (e : LaneEntry) => frameOf e.fr }
      else if 2 ≤ h.len then
        let mid := h.lo + (h.len + 1) / 2
        some { recs := [{ h.counted with a1 := BitVec.ofNat 64 (mid + h.hi * 2 ^ 32) }], gone := [],
               keep := some { h with a1 := BitVec.ofNat 64 (h.lo + mid * 2 ^ 32) }, incs := [frameOf h.fr] }
      else
        some { recs := [h.counted], gone := [h.num], keep := none, incs := if h.mark then [] else [frameOf h.fr] }

/-- A lane as a thief sees it: without what a DONATE has reserved (R331). -/
def State.laneSeen (s : State) (sid : Nat) : List LaneEntry :=
  let k := s.strand sid
  (if k.progress.isSome then k.lane.filter fun (e : LaneEntry) => e.resv.isNone else k.lane).map (s.laneRead sid)

/-- The lane a thief takes from: the head pushed earliest that yields a record (R322); of two pushed in one cycle, the lower strand's (DESIGN
CHOICE, log entry 67). -/
def State.pickLane (s : State) (victim n : Nat) : Option (Nat × Taking) :=
  let lanes := [0, 1, 2, 3].filterMap fun i =>
    let sid := 4 * victim + i
    match s.laneSeen sid with
    | [] => none
    | h :: r => (takeFrom n (h :: r)).map fun t => (h.at_, sid, t)
  (lanes.foldl (fun best l => match best with
    | none => some l
    | some b => if l.1 < b.1 then some l else best) none).map (·.2)

/-- Has the core a store to a frame's first word that is not performed yet: the PUBF that published it (R311), which the increment follows? -/
def State.publishing (s : State) (eid : Nat) (f : Word) : Bool :=
  let w : Piece := { gva := f, len := 8, nib := none }
  (s.core eid).accs.any (fun a => a.isStore && a.pieces.any w.meets) ||
    (s.core eid).side.any fun e => w.meets { gva := e.line, len := 128, nib := none }

/-- The increments of a theft as its frames stand: all can be made, one waits for a page or for the frame's publication, or one is refused. -/
def State.checkIncs (s : State) (eid : Nat) (asid : BitVec 16) (wld : Bool) : List Word → State × FramePlace
  | [] => (s, .none)
  | f :: r =>
    if s.publishing eid f then (s, .wait)
    else match s.framePlace eid asid wld f with
    | (s, .unmapped) => (s, .unmapped)
    | (s, .bad c) => (s, .bad c)
    | (s, .wait) => (s, .wait)
    | (s, _) => State.checkIncs s eid asid wld r

/-- The first frame of the list that is unmapped. -/
def State.unmappedFrame (s : State) (eid : Nat) (asid : BitVec 16) (wld : Bool) (l : List Word) : Word :=
  (l.find? fun f => (s.framePlace eid asid wld f).2 == .unmapped).getD 0

/-- The lone record that a theft has split keeps its lower half, on the core or in its slot of the spill array; the theft is over. -/
def State.keepHalf (s : State) (vsid : Nat) (e : LaneEntry) : State :=
  let s := match (s.strand vsid).lane.find? (fun (o : LaneEntry) => o.num == e.num), (s.laneCtl vsid).2.2 with
    | some o, some base => if o.spilled then s.writeAt ((s.spillPlace vsid base o.num).plus 24) 8 e.a1.toNat else s
    | _, _ => s
  s.modStrand vsid fun k => { k with lane := k.lane.map fun (o : LaneEntry) =>
    if o.num = e.num then { o with a1 := e.a1, resv := none } else o }

/-- A theft gives its records to the thief. -/
def State.yieldTo (s : State) (thief vsid : Nat) (t : Taking) : State :=
  let k := s.strand vsid
  let s := t.incs.foldl (fun s f => s.joinInc (vsid / 4) (s.core (vsid / 4)).asid k.arch.wld f) s
  let s := match t.keep with
    | some e => s.keepHalf vsid e
    | none => s.laneRemove vsid t.gone
  let s := (s.count (vsid / 4) 0x07 1 none).modCore (vsid / 4) fun c => { c with marked := true }
  let s := (s.modStrand thief fun k => { k with stolen := t.recs, start := none, taking := none }).poke (vsid / 4)
  let s := s.modCore (thief / 4) fun c => { c with steal := { c.steal with queue := c.steal.queue.filter (· != thief), probe := 0, drawn := [] } }
  (s.later (.stolenRecordStart thief)).later (.stealProbe (thief / 4))

/-- The thief's probe has yielded nothing. -/
def State.probeEmpty (s : State) (thief probe : Nat) : State :=
  (s.modCore (thief / 4) fun c => { c with steal := { c.steal with probe := probe + 1 } }).later (.stealProbe (thief / 4))

/-- What a theft for the strand has reserved returns to its lane (R324). -/
def State.unreserve (s : State) (thief : Nat) : State :=
  match (s.strand thief).taking with
  | none => s
  | some (vsid, t) =>
    let mine := fun (e : LaneEntry) => t.gone.contains e.num || t.keep.any fun o => o.num == e.num
    ((s.modStrand vsid fun k => { k with lane := k.lane.map fun (e : LaneEntry) => if mine e then { e with resv := none } else e }).modStrand
      thief fun k => { k with taking := none }).poke (vsid / 4)

/-- A theft whose increment is refused is abandoned (R324). -/
def State.abandonTheft (s : State) (thief probe : Nat) : State := (s.unreserve thief).probeEmpty thief probe

/-- A theft has reserved what it takes (R324). -/
def State.holdTaking (s : State) (thief vsid : Nat) (t : Taking) : State :=
  (s.reserve vsid (match t.keep with | some e => [e.num] | none => t.gone) (some thief)).modStrand thief fun k =>
    { k with taking := some (vsid, t) }

/-- The lane and records of a theft: those that it has reserved, or else those that the victim picks (R322, R324). -/
def State.picked (s : State) (thief victim n : Nat) : Option (Nat × Taking) :=
  match (s.strand thief).taking with
  | some t => some t
  | none => s.pickLane victim n

/-- THEFT (R322, R324): a probe is served. A gated victim serves it after its wake (R331). -/
def execTheft (thief victim probe : Nat) (s : State) : Res :=
  let n := 1 + (s.laneCap thief - (s.strand thief).lane.length)
  .next (if (s.cluster (victim / 32)).gated then (s.once (.clusterWake (victim / 32))).notYet
  else if (s.strand thief).wait != Wait.steal then s.abandonTheft thief probe
  else match s.picked thief victim n with
  | none => s.probeEmpty thief probe
  | some (vsid, t) =>
    let k := s.strand vsid
    let asid := (s.core victim).asid
    let busy := k.lane.any fun (e : LaneEntry) => e.resv.isSome && (k.progress.isNone || e.resv != some vsid)
    if busy && (s.strand thief).taking.isNone then s.notYet
    else match s.checkIncs victim asid k.arch.wld t.incs with
      | (s, .unmapped) =>
        let g := s.unmappedFrame victim asid k.arch.wld t.incs
        (s.holdTaking thief vsid t).holdEv vsid asid g .atomic (.theft thief victim probe)
      | (s, .bad _) => s.abandonTheft thief probe
      | (s, .wait) => s.notYet
      | (s, _) => s.yieldTo thief vsid t)

/-! ## The start of a stolen record (R325, R326) -/

/-- Copy one named tile for a thief, as its tile's copy engine does (R325), and the kind of an access that meets an unmapped page. -/
def State.copyTile (s : State) (sid : Nat) (src dst : Word) (n : Nat) : State × Got × FaultKind :=
  let eid := sid / 4
  let asid := (s.core eid).asid
  let wld := (s.strand sid).arch.wld
  match s.hwLoad (eid / 32) asid wld (pieces src n) with
  | (s, .value v) => let r := s.coreStore eid asid wld v (pieces dst n); (r.1, r.2, .engineWrite)
  | (s, g) => (s, g, .engine)

/-- The h registers of a start, one after the other; the state waits where a page is unmapped. -/
def State.stolenHs (s : State) (sid : Nat) (st : StolenStart) (desc : List (Word × Nat)) : Nat → State
  | 0 => s.wake sid
  | left + 1 =>
    let j := 4 - (left + 1)
    let d := desc.getD j (0, 0)
    let ctl := s.laneCtl sid
    let fits := (desc.map (·.2)).foldl (· + ·) 0 ≤ ctl.2.1
    let next := fun (s : State) (h : Word) =>
      let st := { st with hs := st.hs ++ [h] }
      State.stolenHs (s.modStrand sid fun k => { k with start := some st }) sid st desc left
    if d.2 = 0 then next s 0
    else if !fits then next s d.1
    else
      let dst := ctl.1 + BitVec.ofNat 64 (((desc.take j).map (·.2)).foldl (· + ·) 0)
      match s.copyTile sid d.1 dst d.2 with
      | (s, .value _, _) => next s dst
      | (s, .unmapped g, kind) => s.holdEv sid (s.core (sid / 4)).asid g kind (.stolenRecordStart sid)
      | (s, .wait, _) => s.notYet
      | (s, _, _) => next s d.1

/-- Has the strand that pushed a record loads or stores of before the push that are not performed (R326)? -/
def State.pushOpen (s : State) (e : LaneEntry) : Bool :=
  let c := s.core (e.src / 4)
  c.accs.any (fun (a : Acc) => a.snum == e.src % 4 && a.id ≤ e.stamp) || c.side.any (fun g => g.snum == e.src % 4 && g.id ≤ e.stamp) ||
    (s.strand e.src).hold.any (fun (h : Held) => h.sure) || s.seenOpen e.src (e.stamp + 1) false

/-- A strand that was HELD for the descriptors of its stolen record waits in the steal again (R312). -/
def Strand.unheld (k : Strand) : Strand := if k.why = .steal then { k with st := .blocked, why := .none } else k

/-- STOLEN_RECORD_START (R312, R325): once the pushing strand's accesses are performed (R326), the thief reads the descriptors, HELD
where their page is unmapped, copies the named tiles, and its QUIET starts the record. -/
def execStolenRecordStart (sid : Nat) (s : State) : Res :=
  let s := s.modStrand sid Strand.unheld
  let k := s.strand sid
  .next (match k.stolen with
  | [] => s
  | e :: r =>
    if k.start.isNone && (e :: r).any s.pushOpen then s.notYet else
    let st := k.start.getD { desc := none, hs := [], fault := none }
    let go := fun (s : State) (st : StolenStart) (l : List (Word × Nat)) =>
      State.stolenHs (s.modStrand sid fun k => { k with start := some st }) sid st l (4 - st.hs.length)
    match st.desc with
    | some l => go s st l
    | none =>
      let asid := (s.core (sid / 4)).asid
      let g := frameOf e.fr
      if g = 0 then go s { st with desc := some [] } []
      else if s.barred (sid / 4 / 4096) (gvaDie (g + 0x30)) || (s.strand sid).arch.prv == 0 && isDevice (g + 0x30) then
        go s { st with desc := some [], fault := some cAccess } []
      else if !s.missFree sid (s.linesOf (sid / 4) asid (pieces (g + 0x30) 64)) then s.notYet
      else match s.coreLoad (sid / 4) (sid % 4) asid k.arch.wld (pieces (g + 0x30) 64) with
        | (s, .value v) => go s { st with desc := some (descriptors v) } (descriptors v)
        | (s, .unmapped w) =>
          (s.modStrand sid fun k => { k with st := .held, prior := .blocked, why := .steal }).holdEv sid asid w .load (.stolenRecordStart sid)
        | (s, .wait) => s.notYet
        | (s, .denied _) => go s { st with desc := some [], fault := some cAccess } []
        | (s, _) => go s { st with desc := some [], fault := some cLoadFault } [])

/-- The service refuses a page that the start of a stolen record waits for: the descriptors' page gives LOAD_FAULT and no h
(R312), a copy's page leaves the tile where it is (R325). -/
def State.refuseStolen (s : State) (sid : Nat) : State :=
  let k := s.strand sid
  let st := k.start.getD { desc := none, hs := [], fault := none }
  let st := match st.desc with
    | none => { st with desc := some [], fault := some cLoadFault }
    | some l => { st with hs := st.hs ++ [(l.getD st.hs.length (0, 0)).1] }
  (s.modStrand sid fun k => { k with start := some st }).later (.stolenRecordStart sid)

/-! ## The Transit ring (R329) -/

/-- Is a core passive? -/
def State.passive (s : State) (eid : Nat) : Bool :=
  [0, 1, 2, 3].all fun i =>
    let k := s.strand (4 * eid + i)
    k.lane.isEmpty && (if k.worker then k.st == .off || k.idleInQuiet else k.st == .dormant || k.st == .off)

/-- A detection reaches the strands that wait in QUIET. -/
def State.detected (s : State) (b : Job) : State :=
  b.members.foldl (fun s m =>
    let sid := b.sidOf m
    if (s.strand sid).idleInQuiet then (s.modStrand sid fun k => { k with detect := some (b.detections + 1) }).wake sid else s) s

/-- TOKEN_PASS (R329): the passive core that holds the token forwards it; back at LCN 0 the round is judged. -/
def execTokenPass (job : Nat) (s : State) : Res :=
  .next (match s.job job with
  | none => s
  | some b =>
    let back := b.cores.length ≤ b.token
    let eid := b.cores.getD (if back then 0 else b.token) 0
    if !s.passive eid then s.notYet
    else
      let c := s.core eid
      if back then
        let s := s.later (.tokenPass job)
        let b' := { b with token := 0, mark := false, sum := 0 }
        if !b.mark && b.sum == 0 && !c.marked then (s.detected b).setJob job { b' with detections := b.detections + 1 }
        else s.setJob job b'
      else
        ((s.setJob job { b with token := b.token + 1, mark := b.mark || c.marked, sum := b.sum + c.cnt }).setCore eid
          { c with marked := false }).later (.tokenPass job))

end Sys2Proof.Machine
end

