-- ==== Sys2Proof/Machine/Messages.lean ====
section
/-!
DEFINITION. Active messages (R332-R339): their arrival and order, software handlers, replies and refusals, the intrinsic
memory handlers, semaphores (R109), rings (R348-R350), mailboxes and circular buffers (R351-R355).
-/
namespace Sys2Proof.Machine

open Sys2Proof

/-! ## Requests and their numbers -/

/-- The message of an event that carries a request. -/
def evMsg : Ev → Option Msg
  | .loadHandler m => some m
  | .storeHandler m => some m
  | .atomicHandler m => some m
  | .casHandler m => some m
  | .joinDecrement m => some m
  | .mailboxInsert m => some m
  | .ringAdvance m => some m
  | .semaphoreSignal m => some m
  | .subByteStore m => some m
  | .softwareMessage m => some m
  | .engineCommand m => some m
  | .exchange x => some x.msg
  | _ => none

/-- The lowest free tag below n. -/
def freeTag {α : Type} (l : Map α) (n : Nat) : Option Nat := (List.range n).find? fun t => (Map.find l t).isNone

/-- A request that expects a reply in xd: it takes a tag, and waits for one. x0 takes none (R337). -/
def State.tagged (s : State) (d : XReg) (m : Msg) (f : State → Msg → State) : State :=
  if d = 0 then s.numbered m f
  else match freeTag s.curCore.reqs 1023 with
    | none => s.retry
    | some t => s.numbered m fun s m =>
      let id := m.seq
      let s := s.modCore s.eid fun c => { c with reqs := Map.put c.reqs t { dest := m.dest, snum := s.snum, id := id, cmd := false, depth := 0 } }
      f (s.wlater (.x d) 0 id) { m with tag := some t }

/-- A post, clear or ring advance is on its way (R349, R352). -/
def State.oweMsg (s : State) (m : Msg) : State := s.modCur fun k => { k with owed := k.owed ++ [m.seq] }

/-- It has been performed, or refused: those who wait for it go on. -/
def State.paidMsg (s : State) (m : Msg) : State :=
  (s.modStrand (4 * m.src + m.ssn) fun k =>
    { k with owed := k.owed.filter (· != m.seq), acqs := k.acqs.filter (· != m.seq) }).poke m.src

/-- Is an access, a side-logged store or a post that a message's strand issued before it still to be performed, or a write that the
strand had observed (R231, R232, R239)? -/
def State.msgOwes (s : State) (m : Msg) : Bool :=
  let c := s.core m.src
  let k := s.strand (4 * m.src + m.ssn)
  c.accs.any (fun a => a.snum == m.ssn && a.id < m.seq) || c.side.any (fun e => e.snum == m.ssn && e.id < m.seq) ||
    k.owed.any (· < m.seq) || !k.hold.isEmpty || s.seenOpen (4 * m.src + m.ssn) m.seq (m.src / 512 == m.dest / 512)

/-- Is an earlier acquire of its strand still to be performed (R229)? -/
def State.msgAcquires (s : State) (m : Msg) : Bool :=
  (s.core m.src).accs.any (fun a => a.snum == m.ssn && a.id < m.seq && (a.acq || a.strong ||
      (match a.op with | .fence .. => true | _ => false))) ||
    (s.strand (4 * m.src + m.ssn)).acqs.any (· < m.seq)

/-! ## Arrival (R334) -/

/-- Is a message for an intrinsic handler of the page at this offset, an engine's from 0x1000 up (R210)? -/
def msgFor (m : Msg) (off : Nat) : Bool := isDevice m.ha && (if off < 0x1000 then field m.ha 8 8 == off / 0x100 else field m.ha 12 4 == 1)

/-- The engine that a message names (R340): its kind and its tile or cluster. -/
def msgEngine (m : Msg) : Option (Nat × Nat) :=
  if msgFor m 0x1000 then some (field m.ha 8 4, m.dest / (if field m.ha 8 4 < 2 then 2 else 32)) else none

/-- Are two messages kept in their order: to one destination EID (R244), to one engine (R340), or to one mailbox or buffer (R226, R352)? -/
def sameTarget (o m : Msg) : Bool :=
  o.dest == m.dest || (msgEngine m).isSome && msgEngine o == msgEngine m || msgFor o 0x500 && msgFor m 0x500 && o.addr == m.addr

/-- Is an earlier message of the same strand to the same destination still on its way (R244)? -/
def State.overtakes (s : State) (m : Msg) : Bool :=
  let earlier := fun (e : Ev) => match evMsg e with
    | some o => o.src == m.src && o.ssn == m.ssn && sameTarget o m && o.seq < m.seq
    | none => false
  s.flight.any earlier || s.isHeld earlier

/-- Is the destination core granted to a job of the message's ASID (R32)? A core may always name itself. -/
def State.owned (s : State) (m : Msg) : Bool :=
  (s.core m.dest).asid == m.asid && ((s.core m.dest).job.isSome || m.dest == m.src)

/-- Refuse a request (R334). -/
def State.refuse (s : State) (m : Msg) : State :=
  s.later (.refusal { s.answer m cAccess 0 with kind := .refusal })

/-- The function that a message needs at its destination: the tile's agents and engines, or the cluster's engines (R443). -/
def msgBit (m : Msg) : Nat := dieBit (m.dest / 512) (if 2 ≤ field m.ha 8 4 && field m.ha 12 4 == 1 && isDevice m.ha then rCeng else rTile)

/-- Is the block that a message's intrinsic handler or engine stands in secure, and the message not (R405)? -/
def State.worldBars (s : State) (m : Msg) : Bool :=
  let eng := field m.ha 12 4 == 1 && 2 ≤ field m.ha 8 4
  isDevice m.ha && !m.wld && (s.die (m.dest / 512)).blocks.getLsbD (if eng then 272 + m.dest / 32 % 16 else m.dest / 2 % 256)

/-- Is a message one of the transfers that a cluster's gateway holds, since it set out after the cluster's clock was to change (R420)? Remote
accesses are served (R428). -/
def State.gateHeld (s : State) (m : Msg) : Bool :=
  let held := fun (c : Nat) => match (s.cluster c).hold with
    | some n => n < m.seq
    | none => false
  m.src / 32 != m.dest / 32 && !([0x0000, 0x0100, 0x0200, 0x0300, 0x0400, 0x0900].any (msgFor m)) && (held (m.src / 32) || held (m.dest / 32))

/-- A request arrives: held while its function is not usable; at a gated cluster it waits for the wake; it keeps its place behind earlier messages,
and behind what a
release waits for; a stale one and one of a reserved KIND are dropped, one that the destination's job does not own is refused; `f` is its effect. -/
def State.arrive (s : State) (m : Msg) (rel : Bool) (f : State → State) : State :=
  let needs := (m.dest / 4096, msgBit m) :: s.way (m.src / 512) (m.dest / 512)
  if needs.any fun q => s.gone q.1 q.2 then s.refuse m
  else if !(needs.all fun q => s.ready q.1 q.2) then s.notYet
  else if (s.cluster (m.dest / 32)).gated then (s.once (.clusterWake (m.dest / 32))).notYet
  else if s.overtakes m || s.msgAcquires m || s.gateHeld m || rel && s.msgOwes m then s.notYet
  else if unknownKind m then s.dropGen (m.src / 512)
  else if s.stale m then s.dropStale m
  else if !s.owned m || s.worldBars m then s.refuse m
  else f s

/-! ## Replies and refusals -/

/-- The strand of a request has its answer: its record goes, and those who wait go on. -/
def State.closeReq (s : State) (m : Msg) (t : Nat) : State :=
  (s.paidMsg { m with src := m.dest, dest := m.src }).modCore m.dest fun c => { c with reqs := Map.del c.reqs t }

/-- The GVA that a refused request names, or the EID where its handler takes none: a software handler, an engine, a ring, a semaphore or an
exchange (R334, R352). -/
def refusedValue (m : Msg) : Word :=
  if [0x0000, 0x0100, 0x0200, 0x0300, 0x0400, 0x0500, 0x0900].any (msgFor m) then m.addr else BitVec.ofNat 64 m.src

/-- A result lands at a strand, with EV for an engine command (R61). -/
def State.landReq (s : State) (eid : Nat) (r : Req) (v : Nat) : State :=
  let sid := 4 * eid + r.snum
  let s := s.modStrand sid fun k => k.receive (s.cycleOf sid) r.id fun _ => BitVec.ofNat 4096 v
  if r.cmd then s.setEv sid else s

/-- A status word (R344). -/
def statusWord (out sub detail : Nat) (fl : Fl) : Nat :=
  out % 4 + fl.toNat * 2 ^ 8 + sub % 2 ^ 16 * 2 ^ 16 + detail % 2 ^ 32 * 2 ^ 32

/-- Does a reply or refusal answer a request, by SRC, SSN and TAG (R334)? -/
def Req.answeredBy (r : Req) (m : Msg) : Bool := r.snum == m.ssn && r.dest == m.src

/-- A reply or refusal is dropped where it is stale or its KIND is reserved (R334, R382); `f` takes it otherwise. -/
def State.answered (s : State) (m : Msg) (f : State → State) : State :=
  if unknownKind m then s.dropGen (m.src / 512)
  else if s.stale m then s.dropStale m
  else f s

/-- REPLY (R334): it is matched to its request by source, strand and tag; a cause in it is taken as that of a refused access (R265). -/
def execReply (m : Msg) (s : State) : Res :=
  let sid := 4 * m.dest + m.ssn
  .next (s.answered m fun s =>
    match m.tag with
    | none =>
      let s := if (s.strand sid).ask.any fun a => a.id == m.seq then s.askReply m
        else if m.opc != 0 then s.post sid m.opc.toNat (refusedValue m) none else s
      s.paidMsg { m with src := m.dest, dest := m.src }
    | some t =>
      match Map.find (s.core m.dest).reqs t with
      | none => s
      | some r =>
        if !r.answeredBy m then s
        else
          let s := if m.opc = 0 then s.landReq m.dest r m.a0.toNat
            else (s.modStrand sid fun k => k.forget (s.cycleOf sid) r.id).post sid m.opc.toNat (refusedValue m) none
          s.closeReq m t)

/-- The range locks of a command are freed (R240). -/
def State.unlock (s : State) (tile key : Nat) : State :=
  s.modTile tile fun t => { t with locks := t.locks.filter fun (_, l) => l.key != key }

/-- REFUSAL (R334): the request completes with ACCESS, an engine command with a faulted status as well. -/
def execRefusal (m : Msg) (s : State) : Res :=
  let sid := 4 * m.dest + m.ssn
  .next (s.answered m fun s =>
    match m.tag with
    | none => (s.post sid cAccess (refusedValue m) none).paidMsg { m with src := m.dest, dest := m.src }
    | some t =>
      match Map.find (s.core m.dest).reqs t with
      | none => s
      | some r =>
        if !r.answeredBy m then s
        else
          let s := s.post sid cAccess (refusedValue m) none
          let s := if r.cmd then
              ((s.landReq m.dest r (statusWord 2 0x0B m.src 0)).unlock (m.dest / 2) m.seq).modStrand sid fun k => k.dropGuard m.seq
            else s.modStrand sid fun k => k.forget (s.cycleOf sid) r.id
          s.closeReq m t)

/-! ## Software messages (R336-R339, R60) -/

/-- Does an EID lie on a die that the package lacks, or out of reach (R2, R433)? -/
def State.badEid (s : State) (e : Nat) : Bool := s.barred (s.eid / 4096) (e / 512)

/-- A message that a fence of the strand holds back waits as a load wait (R260). -/
def State.pastFences (s t : State) : State := if s.fenced false then s.retry else t

/-- The landing of a message's reply is an acquire of its strand (R229, R338, R352). -/
def State.acquires (s : State) (m : Msg) : State := s.modCur fun k => { k with acqs := k.acqs ++ [m.seq] }

/-- AMSEND (R337, R329). The landing of xd is the acquire that AMRET's release matches (R338). -/
def execAmsend (d a b : XReg) (s : State) : Res :=
  let g := s.rx a
  let e := field (s.rx b) 0 22
  .next (s.unlessAhead (
    if isDevice g then s.raise 5 cAccess g
    else if s.badEid e then s.raise 5 cAccess (BitVec.ofNat 64 e)
    else if field g 0 3 != 0 then s.raise 6 cAlignment g
    else
      s.pastFences (s.tagged d { s.request 0 with dest := e, ha := g, a0 := s.arch.getX 16, a1 := s.arch.getX 17, a2 := s.arch.getX 18,
                                                  a3 := s.arch.getX 19 }
        fun s m => ((if d = 0 then s else s.acquires m).noteCount s.eid 1 true).later (.softwareMessage m))))

/-- The lowest DORMANT strand of a core (R336) that is not about to be dispatched by a delegated trap (R460). -/
def State.dormant (s : State) (eid : Nat) : Option Nat :=
  ([0, 1, 2, 3].map (4 * eid + ·)).find? fun sid => (s.strand sid).st == .dormant && !s.reserved sid

/-- The registers of a strand dispatched by a message (R60, R336). -/
def Arch.dispatch (a : Arch) (m : Msg) (wld : Bool) : Arch :=
  let a := ((((a.setX 3 (BitVec.ofNat 64 m.src)).setX 4 m.a0).setX 5 m.a1).setX 6 m.a2).setX 7 m.a3
  { a with pc := m.ha, status := putBit (putField a.status 0 2 0) 2 wld }

/-- Dispatch a message on a DORMANT strand: results of x3 to x7 that were still to come do not land over its arguments; it is selected next (R72,
R73), and CNT falls (R329). -/
def State.dispatch (s : State) (sid : Nat) (m : Msg) : State :=
  let wld := match s.jobOf (sid / 4) with
    | some b => pktWld b.words
    | none => m.wld
  (s.modStrand sid fun k => ({ k.overwrite [.x 3, .x 4, .x 5, .x 6, .x 7] with
                                      st := .ready, dispatched := true, yielded := false, stamp := s.cycleOf sid, origin := .message m,
                                      arch := k.arch.dispatch m wld } : Strand).halt).noteCount (sid / 4) (-1) false

/-- SOFTWARE_MESSAGE (R336): the message dispatches, or is queued, or waits at the gateway; a core of four workers refuses it. -/
def execSoftwareMessage (m : Msg) (s : State) : Res :=
  .next (s.arrive m true fun s =>
    let c := s.core m.dest
    if c.w = 4 then s.refuse m
    else match c.swq, s.dormant m.dest with
      | [], some sid => s.dispatch sid m
      | q, _ => if q.length < 8 then s.modCore m.dest fun c => { c with swq := c.swq ++ [m] } else s.notYet)

/-- DORMANT_DISPATCH (R60, R338): the next queued message dispatches to a strand that has become DORMANT. -/
def execDormantDispatch (eid : Nat) (s : State) : Res :=
  .next (match (s.core eid).swq, s.dormant eid with
  | m :: r, some sid =>
    let s := (s.modCore eid fun c => { c with swq := r }).dispatch sid m
    if r.isEmpty then s else s.later (.dormantDispatch eid)
  | _, _ => s)

/-- AMRET (R338): the reply leaves, the strand becomes DORMANT, and the next queued message dispatches. -/
def execAmret (a : XReg) (s : State) : Res :=
  .next (match s.cur.origin with
  | .message m =>
    s.unlessAhead (s.release (
      let s := match m.tag with
        | some _ => s.answers m 0 (s.rx a).toNat
        | none => s
      (s.modCur fun k => { (k.landFixed s.unit.now) with st := .dormant, origin := .none }).dispatchNext s.eid))
  | _ => s.raise 5 cIllegal 0x10000)

/-! ## Intrinsic memory handlers (R335) -/

/-- Bytes of a size code 0 to 4. -/
def handlerBytes (opc : BitVec 16) : Option Nat := if field opc 0 3 ≤ 4 then some (2 ^ field opc 0 3) else none

/-- Answer a request. -/
def State.replyTo (s : State) (m : Msg) (code v : Nat) : State :=
  s.later (.reply { s.answer m code v with a1 := BitVec.ofNat 64 (v / 2 ^ 64) })

/-- Is a message a reduction: an AMO whose sender expects no reply (R258, R335)? -/
def isReduction (e : Ev) : Bool :=
  match e with
  | .atomicHandler m => m.tag.isNone
  | _ => false

/-- Answer by what the place gave: a value, or why not; an unmapped page holds the step (R374). A reduction that is performed has no
reply (R335). -/
def State.answerGot (s : State) (m : Msg) (e : Ev) (g : Got) : State :=
  match g with
  | .value v => if isReduction e then s else s.replyTo m 0 v
  | .unmapped w => s.holdEv (4 * m.src + m.ssn) m.asid w (match e with | .loadHandler _ => .load | .storeHandler _ => .store | _ => .atomic) e
  | .denied _ => s.replyTo m cAccess 0
  | .poison _ => s.replyTo m cLoadFault 0
  | .wait => s.notYet

/-- LOAD_HANDLER (R335). -/
def execLoadHandler (m : Msg) (s : State) : Res :=
  .next (s.arrive m false fun s =>
    match handlerBytes m.opc with
    | none => s.refuse m
    | some n =>
      let (s, g) := s.hwLoad (m.dest / 32) m.asid m.wld (pieces m.addr n)
      s.answerGot m (.loadHandler m) g)

/-- STORE_HANDLER (R335). -/
def execStoreHandler (m : Msg) (s : State) : Res :=
  .next (s.arrive m (field m.opc 3 2 == 2) fun s =>
    match handlerBytes m.opc with
    | none => s.refuse m
    | some n =>
      let (s, g) := s.hwStore (m.dest / 32) m.asid m.wld (m.a0.toNat + 2 ^ 64 * m.a1.toNat) (pieces m.addr n)
      s.answerGot m (.storeHandler m) g)

/-- The read and write of an atomic of n bytes at its place, as one step (R233). -/
def State.atomicAt (s : State) (m : Msg) (n : Nat) (op : AmoOp) (y : Nat) : State × Got :=
  if s.heldAt (m.dest / 32) m.asid m.addr then (s.rouse (m.dest / 32) m.asid m.addr, .wait)
  else match s.resolve (m.dest / 32) m.asid m.wld true m.addr with
  | (s, _, .unmapped) => (s, .unmapped m.addr)
  | (s, pg, .at_ q) =>
    if s.poisoned q n then (s, .poison m.addr)
    else if s.hostHas q n true then (s, .wait)
    else if s.dirtyFull m.src m.asid pg then (s.once (.dirtyLogMerge m.src), .wait)
    else
      let old := s.readAt q n
      let s := match pg with
        | some pg => (s.dirtyLog m.src m.asid pg).countWrite m.asid pg (m.src / 512 % 8)
        | none => s
      (s.amoWrite (m.dest / 32) m.asid op y { gva := m.addr, len := n, nib := none } q, .value old)
  | (s, _, .poison) => (s, .poison m.addr)
  | (s, _, _) => (s, .denied m.addr)

/-- The operation of an AMO fn (R255). -/
def amoOfFn (fn : Nat) : Option AmoOp :=
  [AmoOp.add, .and, .or, .xor, .min, .max, .minu, .maxu, .swap, .fadd][fn / 8]?

/-- Does a handler address name an aligned place? -/
def alignedTo (g : Word) (n : Nat) : Bool := g.toNat % n == 0

/-- ATOMIC_HANDLER (R335). -/
def execAtomicHandler (m : Msg) (s : State) : Res :=
  let fn := field m.opc 0 7
  let n := if fn / 4 % 2 = 0 then 4 else 8
  .next (s.arrive m (fn / 2 % 2 == 1) fun s =>
    match amoOfFn fn with
    | none => s.refuse m
    | some op =>
      if !alignedTo m.addr n then s.refuse m
      else
        let (s, g) := s.atomicAt m n op (m.a0.toNat % 2 ^ (8 * n))
        s.answerGot m (.atomicHandler m) g)

/-- CAS_HANDLER (R335). -/
def execCasHandler (m : Msg) (s : State) : Res :=
  let fn := field m.opc 0 7
  let n := if fn / 8 = 11 then 16 else if fn / 4 % 2 = 0 then 4 else 8
  let two := fun (a b : Word) => (a.toNat + 2 ^ 64 * b.toNat) % 2 ^ (8 * n)
  .next (s.arrive m (fn / 2 % 2 == 1) fun s =>
    if (fn / 8 != 10 && fn / 8 != 11) || !alignedTo m.addr n then s.refuse m
    else
      let (s, g) := s.atomicAt m n (.cas (two m.a0 m.a1)) (two m.a2 m.a3)
      s.answerGot m (.casHandler m) g)

/-- SUB_BYTE_STORE (R245): a byte's masked bits are written by read-modify-write at the owner. -/
def execSubByteStore (m : Msg) (s : State) : Res :=
  .next (s.arrive m false fun s =>
    if s.heldAt (m.dest / 32) m.asid m.addr then (s.rouse (m.dest / 32) m.asid m.addr).notYet
    else match s.resolve (m.dest / 32) m.asid m.wld true m.addr with
    | (s, _, .unmapped) => s.holdEv (4 * m.src + m.ssn) m.asid m.addr .store (.subByteStore m)
    | (s, pg, .at_ q) =>
      if s.hostHas q 1 true then s.notYet
      else if s.dirtyFull m.src m.asid pg then (s.once (.dirtyLogMerge m.src)).notYet
      else
        let s := match pg with
          | some pg => (s.dirtyLog m.src m.asid pg).countWrite m.asid pg (m.src / 512 % 8)
          | none => s
        let mask : BitVec 8 := m.a1.setWidth 8
        let old : BitVec 8 := BitVec.ofNat 8 (s.readAt q 1)
        let new := ((old &&& ~~~mask) ||| (m.a0.setWidth 8 &&& mask)).toNat
        (((s.reachAll (m.dest / 32) m.asid m.addr q).writeAt q 1 (s.storeBytes q 1 new)).noticed q 1).replyTo m 0 0
    | (s, _, .poison) => s.replyTo m cLoadFault 0
    | (s, _, _) => s.replyTo m cAccess 0)

/-! ## Semaphores (R109) -/

/-- EV of every strand of a tile (R61). -/
def State.setTileEv (s : State) (tile : Nat) : State :=
  (List.range 8).foldl (fun s i => s.setEv (8 * tile + i)) s

/-- A signal is applied at its tile. -/
def State.signal (s : State) (tile : Nat) (n : BitVec 3) : State :=
  let t := s.tile tile
  let s := match t.semq.find? fun w => w.1 == n with
    | some w =>
      (s.setTile tile { t with semq := t.semq.erase w }).modStrand w.2 fun k =>
        ({ k with granted := true } : Strand).makeReady (s.cycleOf w.2)
    | none =>
      let c := t.sem.getD n.toNat 0
      if c = 0xFFFF then s else s.setTile tile { t with sem := t.sem.set! n.toNat (c + 1) }
  s.setTileEv tile

/-- SEMSIG (R109): a release; another tile is signalled by a message. -/
def execSemsig (n : BitVec 3) (a : XReg) (s : State) : Res :=
  let e := field (s.rx a) 0 22
  .next (s.unlessAhead (
    if a = 0 then
      if !s.holdsTile s.eid (s.eid / 2) then s.raise 5 cAccess (BitVec.ofNat 64 s.eid)
      else s.release (s.signal (s.eid / 2) n)
    else if s.badEid e then s.raise 5 cAccess (BitVec.ofNat 64 e)
    else s.pastFences (s.numbered { s.request 0 with dest := e, ha := intrinsic 0x0700, opc := n.setWidth 16 } fun s m =>
      s.later (.semaphoreSignal m))))

/-- SEMAPHORE_SIGNAL (R109): a target tile that the job does not hold whole refuses it. -/
def execSemaphoreSignal (m : Msg) (s : State) : Res :=
  .next (s.arrive m true fun s =>
    if !s.holdsTile m.dest (m.dest / 2) then s.refuse m else s.signal (m.dest / 2) (m.opc.setWidth 3))

/-- SEMWAIT (R109). -/
def execSemwait (n : BitVec 3) (s : State) : Res :=
  let t := s.eid / 2
  .next (s.unlessAhead (
    if s.cur.granted then s.modCur fun k => { k with granted := false }
    else if !s.holdsTile s.eid t then s.raise 5 cAccess (BitVec.ofNat 64 s.eid)
    else
      let c := (s.tile t).sem.getD n.toNat 0
      if c ≠ 0 then s.modTile t fun k => { k with sem := k.sem.set! n.toNat (c - 1) }
      else (s.modTile t fun k => { k with semq := k.semq.filter (fun w => w.2 != s.unit.sid) ++ [(n, s.unit.sid)] }).block (.sem n)))

/-! ## Rings (R348, R349) -/

def State.ring (s : State) (tile n : Nat) : Ring := (s.tile tile).rings.getD n Ring.reset
def State.setRing (s : State) (tile n : Nat) (r : Ring) : State := s.modTile tile fun t => { t with rings := t.rings.set! n r }

/-- Slots, slot bytes and occupancy of a ring. -/
def Ring.slots (r : Ring) : Nat := 2 ^ r.sl
def Ring.bytes (r : Ring) : Nat := 128 * (if r.sb = 0 then 4096 else r.sb.toNat)
def Ring.used (r : Ring) : Nat := (r.tail - r.head).toNat
/-- The tile offset of a slot. -/
def Ring.slot (r : Ring) (j : BitVec 16) : Nat := r.base + j.toNat % r.slots * r.bytes

/-- Does a matrix command name a ring? -/
def mcmdNames (n : Nat) (c : MCmd) : Bool :=
  match c.op with
  | .mwl => field c.xa 36 3 == n
  | .mwls => field c.xa 36 3 == n
  | .mma => field c.xb 0 3 == n
  | .mgrp => field c.xb 0 3 == n || field c.xb 8 3 == n
  | .macz => false
  | .mdrain => field c.xb 0 3 == n

def Matrix.names (m : Matrix) (n : Nat) : Bool :=
  m.inbox.any (mcmdNames n) || m.runs.any fun r => mcmdNames n r.cmd

/-- The operation of a matrix command's message. -/
def mopOf (n : Nat) : MOp := [MOp.mwl, .mwls, .mma, .mgrp, .macz].getD n .mdrain

/-- The matrix command that a message brings. -/
def mcmdOf (m : Msg) : MCmd := { op := mopOf m.opc.toNat, xa := m.a0, xb := m.a1, tag := m.a2.toNat % 64, msg := m }

/-- Does a matrix command of a tile name a ring: one queued, running, or still on its way (R349)? -/
def State.ringNamed (s : State) (tile n : Nat) : Bool :=
  (s.tile tile).matrix.names n || s.flight.any fun e => match e with
    | .engineCommand m => msgEngine m == some (1, tile) && mcmdNames n (mcmdOf m)
    | _ => false

/-- A tile offset register pair of RINGI as a ring (R349); none where it breaks the limits. -/
def ringOf (xa xb : Word) : Option Ring :=
  let sl := field xb 0 4
  let r : Ring := { v := true, base := field xa 0 20, sl := sl, sb := BitVec.ofNat 12 (field xb 8 12), tail := 0, head := 0,
                    waiting := [] }
  if field xa 20 44 = 0 ∧ field xb 4 4 = 0 ∧ field xb 20 44 = 0 ∧ r.base % 128 = 0 ∧ 1 ≤ sl ∧ sl ≤ 8 ∧
      r.base + 2 ^ sl * r.bytes ≤ 0x100000 then some r else none

/-- Set up a ring: the advances that wait at it apply to the new state. -/
def State.ringInit (s : State) (tile n : Nat) (r : Ring) : State :=
  let w := (s.ring tile n).waiting
  let s := s.setRing tile n { r with waiting := w }
  if w.isEmpty then s else s.once (.ringAdvanceDeferred tile n)

/-- RINGI (R349). -/
def execRingi (n : BitVec 3) (a b : XReg) (s : State) : Res :=
  let t := s.eid / 2
  .next (s.unlessAhead (
    if !s.holdsTile s.eid t then s.raise 5 cAccess (BitVec.ofNat 64 s.eid)
    else match ringOf (s.rx a) (s.rx b) with
      | none => s.raise 7 cEngineFault 1
      | some r => if s.ringNamed t n.toNat then s.block .engine else s.ringInit t n.toNat r))

/-- One slot is published, or the advance waits at the ring. -/
def State.advance (s : State) (tile n : Nat) (by_ : Option Nat) : State × Bool :=
  let r := s.ring tile n
  if r.v && r.used < r.slots then (s.setRing tile n { r with tail := r.tail + 1 }, true)
  else (s.setRing tile n { r with waiting := r.waiting ++ [by_] }, false)

/-- RINGA (R349): a release; the strand goes on, and a later release of it waits for the advance. -/
def execRinga (n : BitVec 3) (a : XReg) (s : State) : Res :=
  let e := if a = 0 then s.eid else field (s.rx a) 0 22
  .next (s.unlessAhead (
    if a = 0 ∧ !s.holdsTile s.eid (s.eid / 2) then s.raise 5 cAccess (BitVec.ofNat 64 s.eid)
    else if s.badEid e then s.raise 5 cAccess (BitVec.ofNat 64 e)
    else s.pastFences (s.numbered { s.request 0 with dest := e, ha := intrinsic 0x0600, opc := n.setWidth 16 } fun s m =>
      (s.oweMsg m).later (.ringAdvance m))))

/-- The advance that waits longest at a ring is paid: its strand's oldest advance is. -/
def State.paidBy (s : State) (by_ : Option Nat) (m : Nat) : State :=
  match by_ with
  | some sid => (s.modStrand sid fun k => { k with owed := k.owed.filter (· != m) }).poke (sid / 4)
  | none => s

/-- RING_ADVANCE (R349): one slot is published at the ring's tile. -/
def execRingAdvance (m : Msg) (s : State) : Res :=
  .next (s.arrive m true fun s =>
    let t := m.dest / 2
    if !s.holdsTile m.dest t then s.refuse m
    else
      let (s, done) := s.advance t (field m.opc 0 3) (some (m.seq * 2 ^ 24 + (4 * m.src + m.ssn)))
      if done then s.paidMsg m else s)

/-- RING_ADVANCE_DEFERRED (R349, R350): an advance that waits at a ring applies, when a slot has been popped or RINGI has run. -/
def execRingAdvanceDeferred (tile ring : Nat) (s : State) : Res :=
  let r := s.ring tile ring
  .next (match r.waiting with
  | [] => s
  | w :: rest =>
    if r.v && r.used < r.slots then
      let s := s.setRing tile ring { r with tail := r.tail + 1, waiting := rest }
      let s := s.paidBy (w.map (· % 2 ^ 24)) (w.getD 0 / 2 ^ 24)
      if rest.isEmpty then s else s.later (.ringAdvanceDeferred tile ring)
    else s)

/-- RINGQ (R349). -/
def execRingq (d : XReg) (n : BitVec 3) (s : State) : Res :=
  let r := s.ring (s.eid / 2) n.toNat
  .next (s.unlessAhead (
    if !s.holdsTile s.eid (s.eid / 2) then s.raise 5 cAccess (BitVec.ofNat 64 s.eid)
    else s.wx d (BitVec.ofNat 64 (r.head.toNat + r.tail.toNat * 2 ^ 16 + r.sl * 2 ^ 32 + r.sb.toNat * 2 ^ 36 +
      (if r.v then 2 ^ 63 else 0))) 1))

/-- The head slot of a ring is popped: an advance that waits applies. -/
def State.ringPop (s : State) (tile n : Nat) : State :=
  let r := s.ring tile n
  let s := s.setRing tile n { r with head := r.head + 1 }
  if r.waiting.isEmpty then s else s.once (.ringAdvanceDeferred tile n)

/-! ## Top-k mailboxes (R351, R352) -/

/-- The sort key of a priority. -/
def mbxKey (p : Nat) : Nat := if p / 2 ^ 31 = 0 then Nat.xor p 0x80000000 else 2 ^ 32 - 1 - p

/-- Insert an entry behind those of a key not lower. -/
def mbxInsert (e : Nat) : List Nat → List Nat
  | [] => [e]
  | f :: r => if mbxKey (f / 2 ^ 32) < mbxKey (e / 2 ^ 32) then e :: f :: r else f :: mbxInsert e r

/-- A post: the entries that are held, and whether it was dropped. -/
def mbxPost (k : Nat) (l : List Nat) (e : Nat) : List Nat × Bool :=
  if e / 2 ^ 32 = 0xFFFFFFFF ∨ k = 0 ∨ 16 < k then (l, true)
  else if l.length < k then (mbxInsert e l, false)
  else if mbxKey (l.getD (k - 1) 0 / 2 ^ 32) < mbxKey (e / 2 ^ 32) then (mbxInsert e (l.eraseIdx (k - 1)), false)
  else (l, true)

/-- A header word. -/
def mbxHeader (k n drop : Nat) : Nat := k + n * 2 ^ 8 + drop * 2 ^ 32

/-- Write entries from entry 0 up. -/
def State.mbxWrite (s : State) (q : Place) (header : Nat) (l : List Nat) : State :=
  s.writeAt q (8 + 8 * l.length) (header + 2 ^ 64 * l.foldr (fun e acc => e + 2 ^ 64 * acc) 0)

/-- What a mailbox operation makes of a mailbox, and the value of a read. -/
def State.mbxOp (s : State) (q : Place) (op : Nat) (arg : Word) : State × Nat :=
  let h := s.readAt q 8
  let k := h % 32
  let n := h / 2 ^ 8 % 32
  let drop := h / 2 ^ 32
  let l := (List.range n).map fun j => s.readAt (q.plus (8 + 8 * j)) 8
  if op = 0 then
    let r := mbxPost k l arg.toNat
    (s.mbxWrite q (mbxHeader k r.1.length (if r.2 then min (drop + 1) (2 ^ 32 - 1) else drop)) r.1, 0)
  else if op = 1 then
    match l with
    | [] => (s, 0xFFFFFFFF00000000)
    | e :: r => (s.mbxWrite q (mbxHeader k r.length drop) r, e)
  else (s.mbxWrite q (mbxHeader (field arg 0 4 + 1) 0 0) [], 0)

/-! ## Circular buffers (R353-R355) -/

/-- The header of a circular buffer. -/
structure Cbuf where
  size : Nat
  wr : Nat
  rd : Nat
  used : Nat
  taken : Nat
  ovf : Nat
  posts : Nat
  deriving DecidableEq, Repr

def State.cbRead (s : State) (q : Place) : Cbuf :=
  let w := fun (o n : Nat) => s.readAt (q.plus o) n
  { size := w 0 4, wr := w 8 4, rd := w 12 4, used := w 16 4, taken := w 20 4, ovf := w 24 8, posts := w 32 8 }

def State.cbWrite (s : State) (q : Place) (b : Cbuf) : State :=
  s.writeAt (q.plus 8) 32 (b.wr % 2 ^ 32 + b.rd % 2 ^ 32 * 2 ^ 32 + b.used % 2 ^ 32 * 2 ^ 64 + b.taken % 2 ^ 32 * 2 ^ 96 +
    b.ovf % 2 ^ 64 * 2 ^ 128 + b.posts % 2 ^ 64 * 2 ^ 192)

/-- A record's place. -/
def cbData (q : Place) (off : Nat) : Place := q.plus (0x40 + off)

/-- A post of L bytes (R354). -/
def State.cbPost (s : State) (q : Place) (eid len data : Nat) : State × Nat :=
  let b := s.cbRead q
  let need := 8 + (len + 7) / 8 * 8
  let free := b.size - b.used
  let toend := b.size - b.wr
  let full := (s.cbWrite q { b with ovf := b.ovf + 1 }, 1)
  if b.size % 8 ≠ 0 ∨ b.size < 64 ∨ 65472 < b.size ∨ free < need then full
  else if toend < need ∧ free - toend < need then full
  else
    let (s, b) := if toend < need then
        (s.writeAt (cbData q b.wr) 8 (toend - 8 + 2 ^ 16), { b with used := b.used + toend, wr := 0 }) else (s, b)
    let s := s.writeAt (cbData q b.wr) need (len + eid * 2 ^ 32 + data % 2 ^ (8 * len) * 2 ^ 64)
    (s.cbWrite q { b with wr := (b.wr + need) % b.size, used := b.used + need, posts := b.posts + 1 }, 0)

/-- Free the record at RD. -/
def State.cbFree (s : State) (q : Place) (b : Cbuf) : Cbuf :=
  let n := 8 + (s.readAt (cbData q b.rd) 2 + 7) / 8 * 8
  { b with rd := (b.rd + n) % max 1 b.size, used := b.used - n }

/-- Free the pads at RD; `fuel` bounds the records of a buffer. -/
def State.cbSkip (s : State) (q : Place) : Nat → Cbuf → Cbuf
  | 0, b => b
  | n + 1, b => if b.used ≠ 0 ∧ s.readAt (cbData q b.rd) 8 / 2 ^ 16 % 2 = 1 then State.cbSkip s q n (s.cbFree q b) else b

/-- A take (R355): the GVA of the next record, or 0. -/
def State.cbTake (s : State) (q : Place) (g : Word) : State × Nat :=
  let b := s.cbRead q
  if b.size % 8 ≠ 0 ∨ b.size < 64 ∨ 65472 < b.size then (s, 0)
  else
    let b := if b.taken ≠ 0 then s.cbFree q b else b
    let b := s.cbSkip q 8192 b
    if b.used = 0 then (s.cbWrite q { b with taken := 0 }, 0)
    else (s.cbWrite q { b with taken := b.rd + 1 }, (g + 0x40 + BitVec.ofNat 64 b.rd).toNat)

/-- The four argument words of a message. -/
def msgData (m : Msg) : Nat := packWords [m.a0, m.a1, m.a2, m.a3]

/-- Is an access of the message's strand that was issued before it, and that touches the mailbox or buffer, still to be performed (R226,
R352)? -/
def State.mailBehind (s : State) (m : Msg) : Bool :=
  let area : Piece := { gva := m.addr, len := if field m.opc 0 3 ≤ 2 then 256 else 0x10000, nib := none }
  let c := s.core m.src
  c.accs.any (fun a => a.snum == m.ssn && a.id < m.seq && a.pieces.any area.meets) ||
    c.side.any fun e => e.snum == m.ssn && e.id < m.seq && area.meets { gva := e.line, len := 128, nib := none }

/-- Does an operation read a poisoned granule of its mailbox, or of the header of its circular buffer, or of the record it takes (R204)? -/
def State.mailPoison (s : State) (q : Place) (op : Nat) : Bool :=
  if op = 2 then false
  else if op < 2 then s.poisoned q (8 + 8 * (s.readAt q 8 / 2 ^ 8 % 32))
  else s.poisoned q 40 || op == 4 && s.poisoned (cbData q (s.readAt (q.plus 12) 4)) 8

/-- Does an operation on the same mailbox or buffer that arrived earlier wait for a page (R352)? One that has gone counts no more. -/
def State.mailWaits (s : State) (m : Msg) : Bool :=
  ((s.die (gvaDie m.addr)).mails.takeWhile (· != m)).any fun o => o.addr == m.addr &&
    (s.flight.contains (.mailboxInsert o) || s.isHeld (· == .mailboxInsert o))

/-- An operation takes its place among those that wait for a page; those that have gone leave. -/
def State.mailQueue (s : State) (m : Msg) : State :=
  let live := (s.die (gvaDie m.addr)).mails.filter fun o => o == m || s.flight.contains (.mailboxInsert o) || s.isHeld (· == .mailboxInsert o)
  s.modDie (gvaDie m.addr) fun k => { k with mails := if live.contains m then live else live ++ [m] }

/-- MAILBOX_INSERT (R335, R351-R355): an operation on a mailbox or a circular buffer is executed by the owning tile's memory
agent. A place outside tile SRAM is refused; an unmapped page holds the operation, and those of its mailbox that arrive later stay behind it. -/
def execMailboxInsert (m : Msg) (s : State) : Res :=
  let op := field m.opc 0 3
  .next (s.arrive m (op == 1 || op == 3 || op == 4) fun s =>
    if s.heldAt (m.dest / 32) m.asid m.addr then (s.rouse (m.dest / 32) m.asid m.addr).notYet
    else if s.mailBehind m || s.mailWaits m then s.notYet
    else match s.resolve (m.dest / 32) m.asid m.wld true m.addr with
    | (s, _, .unmapped) => (s.mailQueue m).holdEv (4 * m.src + m.ssn) m.asid m.addr .atomic (.mailboxInsert m)
    | (s, _, .poison) => s.replyTo m cLoadFault 0
    | (s, pg, .at_ q) =>
      (match q.tileNo with
       | none => s.refuse m
       | some t =>
         if (s.cluster (t / 16)).gated then (s.once (.clusterWake (t / 16))).notYet
         else if s.mailPoison q op then s.replyTo m cLoadFault 0
         else if s.dirtyFull m.src m.asid pg then (s.once (.dirtyLogMerge m.src)).notYet
         else
           let s := match pg with
             | some pg => (s.dirtyLog m.src m.asid pg).countWrite m.asid pg (m.src / 512 % 8)
             | none => s
           let (s, v) := if op ≤ 2 then s.mbxOp q op m.a0
             else if op = 3 then s.cbPost q m.src (field m.opc 8 6) (msgData m) else s.cbTake q m.addr
           let s := if op = 0 ∨ op = 3 then s.setTileEv t else s
           if m.tag.isSome then s.replyTo m 0 v else s.paidMsg m)
    | (s, _, _) => s.refuse m)

/-- Send a mailbox or buffer operation to the core whose tile owns it. -/
def State.mailbox (s : State) (d : XReg) (g : Word) (op len : Nat) (acq : Bool) (args : List Word) : State :=
  s.pastFences <|
  s.tagged d { s.request g with dest := s.ownerOf s.curCore.asid s.eid g, ha := intrinsic 0x0500,
                                opc := BitVec.ofNat 16 (op + len * 2 ^ 8), a0 := args.getD 0 0,
                                a1 := args.getD 1 0, a2 := args.getD 2 0, a3 := args.getD 3 0 }
    fun s m =>
      let s := s.oweMsg m
      let s := if acq then s.acquires m else s
      s.later (.mailboxInsert m)

/-- MBXPOST (R352). -/
def execMbxpost (a b : XReg) (s : State) : Res :=
  let g := s.rx a
  .next (s.unlessAhead (s.checked (s.check [g] 8 256 true false true false) (s.mailbox 0 g 0 0 false [s.rx b])))

/-- MBXREAD (R352). -/
def execMbxread (d a : XReg) (s : State) : Res :=
  let g := s.rx a
  .next (s.unlessAhead (s.checked (s.check [g] 8 256 true false true false) (s.mailbox d g 1 0 true [])))

/-- MBXCLR (R352). -/
def execMbxclr (a : XReg) (s : State) : Res :=
  let x := s.rx a
  let g := x &&& ~~~(0xFF : Word)
  .next (s.unlessAhead (s.checked (s.check [g] 8 256 true false true false) (
    if field x 4 4 != 0 then s.raise 6 cAlignment x else s.mailbox 0 g 2 0 false [x])))

/-- CBPOST (R354). -/
def execCbpost (d a b : XReg) (s : State) : Res :=
  let g := s.rx a
  let n := (s.rx b).toNat
  .next (s.unlessAhead (s.checked (s.check [g] 8 64 true false true false) (
    if n = 0 ∨ 32 < n then s.raise 7 cEngineFault 1
    else s.mailbox d g 3 n false ([16, 17, 18, 19].map s.arch.getX))))

/-- CBTAKE (R355). -/
def execCbtake (d a : XReg) (s : State) : Res :=
  let g := s.rx a
  .next (s.unlessAhead (s.checked (s.check [g] 8 64 true false true false) (s.mailbox d g 4 0 true [])))

/-! ## Exchanges -/

/-- EXCHANGE (R160): a value arrives as any message does (R32, R244, R334), and is buffered for one of the next four exchanges of its kind,
and combined. -/
def execExchange (x : Xchg) (s : State) : Res :=
  .next (s.arrive x.msg false fun s =>
    let k := s.strand x.dst
    if (if x.chain then k.chainN else k.maxN) + 4 ≤ x.num then s.notYet
    else
      let i : XchgIn := { src := x.src, chain := x.chain, num := x.num, total := x.total, et := x.et, rlog := x.rlog,
                          vals := x.vals }
      (s.modStrand x.dst fun k => { k with xin := k.xin ++ [i] }).exchangeStep x.dst x.chain x.num)

end Sys2Proof.Machine
end

