-- ==== Sys2Proof/Machine/Engines.lean ====
section
/-!
DEFINITION. Engine commands (R340-R346): the instructions, guards (R179, R192), range locks (R240), and what the copy, gather and
sort-count engines do.
-/
namespace Sys2Proof.Machine

open Sys2Proof

/-! ## The engines -/

/-- The engine of a kind number and destination EID (R340). -/
def engOf (k dest : Nat) : Option EngRef :=
  match k with
  | 0 => some (.copy (dest / 2))
  | 1 => some (.matrix (dest / 2))
  | 2 => some (.gather (dest / 32))
  | 3 => some (.sortc (dest / 32))
  | _ => none

def engKind : EngRef → Nat
  | .copy _ => 0 | .matrix _ => 1 | .gather _ => 2 | .sortc _ => 3

def engTags : EngRef → Nat
  | .copy _ => 256 | .matrix _ => 64 | .gather _ => 64 | .sortc _ => 8

/-- The die of an engine, and its index among the die's agents (R383). -/
def engDie : EngRef → Nat
  | .copy t => t / 256 | .matrix t => t / 256 | .gather c => c / 16 | .sortc c => c / 16
def engAgent : EngRef → Nat
  | .copy t => 0x200 + t % 256 | .matrix t => 0x300 + t % 256 | .gather c => 0x400 + c % 16 | .sortc c => 0x410 + c % 16

/-- The cluster an engine stands in. -/
def engCluster : EngRef → Nat
  | .copy t => t / 16 | .matrix t => t / 16 | .gather c => c | .sortc c => c

/-- An engine's inbox and running commands; the matrix engine keeps its own. -/
def State.engine (s : State) : EngRef → Engine
  | .copy t => (s.tile t).copy
  | .matrix _ => Engine.reset
  | .gather c => (s.cluster c).gather
  | .sortc c => (s.cluster c).sortc

def State.setEngine (s : State) (e : EngRef) (g : Engine) : State :=
  match e with
  | .copy t => s.modTile t fun k => { k with copy := g }
  | .matrix _ => s
  | .gather c => s.modCluster c fun k => { k with gather := g }
  | .sortc c => s.modCluster c fun k => { k with sortc := g }

/-! ## Commands (R342, R343) -/

/-- The operations of A0[2:0]. -/
def opCopy : Nat := 1
def opGath : Nat := 2
def opScat : Nat := 3
def opMcast : Nat := 4
def opSortc : Nat := 5

def cmdOp (m : Msg) : Nat := field m.a0 0 3
/-- The control field C. -/
def cmdC (m : Msg) (lo n : Nat) : Nat := field m.a0 (8 + lo) n

/-- LEN of COPY and its formats; elements and converted length. -/
def copyLen (m : Msg) : Nat := cmdC m 0 32
def copyConv (m : Msg) : Bool := cmdC m 40 1 == 1
def copySf (m : Msg) : Et := (Et.ofCode (cmdC m 32 4)).getD .f64
def copyDf (m : Msg) : Et := (Et.ofCode (cmdC m 36 4)).getD .f64
def copyElems (m : Msg) : Nat := copyLen m * 8 / etBits (copySf m)
def copyOut (m : Msg) : Nat := if copyConv m then (copyElems m * etBits (copyDf m) + 7) / 8 else copyLen m

/-- N and row bytes of GATH and SCAT, N and K of SORTC. -/
def rowsN (m : Msg) : Nat := cmdC m 0 20
def rowLen (m : Msg) : Nat := 8 * cmdC m 20 16
def sortK (m : Msg) : Nat := cmdC m 20 13

/-- A range that a command names: its address, length, and whether it is a destination. -/
structure Range where
  gva : Word
  len : Nat
  dst : Bool
  deriving DecidableEq, Repr

def rng (g : Word) (n : Nat) (d : Bool) : Range := { gva := g, len := n, dst := d }

/-- The ranges a command registers (R346). -/
def cmdRanges (m : Msg) : List Range :=
  (match cmdOp m with
   | 1 => [rng m.a2 (copyLen m) false, rng m.a1 (copyOut m) true]
   | 2 => [rng m.a2 (4 * rowsN m) false, rng m.a1 (rowsN m * rowLen m) true]
   | 3 => [rng m.a1 (rowsN m * rowLen m) false, rng m.a2 (4 * rowsN m) false]
   | 4 => [rng m.a2 (cmdC m 0 20) false]
   | 5 => [rng m.a1 (2 * rowsN m) false, rng m.a2 (4 * rowsN m) true, rng m.a3 (8 * sortK m) true]
   | _ => []).filter fun r => r.len != 0

/-- The operands of a command that are GVAs, with their ranges; of the rows that indices choose only the base stands in the command. -/
def cmdGvas (m : Msg) : List Range :=
  match cmdOp m with
  | 1 => [rng m.a1 (copyOut m) true, rng m.a2 (copyLen m) false]
  | 2 => [rng m.a1 (rowsN m * rowLen m) true, rng m.a2 (4 * rowsN m) false, rng m.a3 1 false]
  | 3 => [rng m.a1 (rowsN m * rowLen m) false, rng m.a2 (4 * rowsN m) false, rng m.a3 1 true]
  | 4 => [rng m.a2 (cmdC m 0 20) false]
  | 5 => [rng m.a1 (2 * rowsN m) false, rng m.a2 (4 * rowsN m) true, rng m.a3 (8 * sortK m) true]
  | _ => []

/-- The cluster that MCAST names, as EID[21:5]. -/
def mcastCluster (m : Msg) : Nat := field m.a1 36 17

/-- The tile-SRAM direct window in which a GVA stands. -/
def sramWindow (g : Word) : Option (Nat × Nat × Nat) :=
  match device g with
  | .sram c t _ => some (gvaDie g, c, t)
  | _ => none

/-- May an engine's range stand there for a core of package p (R2, R208, R433)? At its first byte and at its last. -/
def State.rangeAllowed (s : State) (p : Nat) (user : Bool) (r : Range) : Bool :=
  let last := lastByte r.gva r.len
  if s.barred p (gvaDie r.gva) || r.len != 0 && s.barred p (gvaDie last) then false
  else if isDevice r.gva || r.len != 0 && isDevice last then
    !user && isDevice r.gva && (sramWindow r.gva).isSome && (r.len == 0 || sramWindow r.gva == sramWindow last)
  else true

/-- Alignments of R343. -/
def cmdAlign (m : Msg) : List (Word × Nat) :=
  match cmdOp m with
  | 2 => [(m.a1, 8), (m.a2, 4), (m.a3, 8)]
  | 3 => [(m.a1, 8), (m.a2, 4), (m.a3, 8)]
  | 5 => [(m.a1, 2), (m.a2, 4), (m.a3, 4)]
  | _ => []

/-- Are the limits of R342 and R343 kept? -/
def cmdLimits (m : Msg) : Bool :=
  field m.a0 3 5 == 0 && (match cmdOp m with
  | 1 =>
    copyLen m ≤ 0x10000000 && cmdC m 41 15 == 0 && m.a3 == 0 &&
      (if copyConv m then
        (Et.ofCode (cmdC m 32 4)).isSome && (Et.ofCode (cmdC m 36 4)).isSome && copyLen m * 8 % etBits (copySf m) == 0
       else cmdC m 32 8 == 0)
  | 2 => 8 ≤ rowLen m && rowLen m ≤ 65536 && cmdC m 36 20 == 0
  | 3 => 8 ≤ rowLen m && rowLen m ≤ 65536 && cmdC m 36 20 == 0
  | 4 =>
    cmdC m 0 20 % 8 == 0 && cmdC m 20 36 == 0 && field m.a1 0 20 % 8 == 0 && field m.a1 0 20 + cmdC m 0 20 ≤ 0x100000 &&
      field m.a1 53 11 == 0
  | 5 => 1 ≤ sortK m && sortK m ≤ 4096 && cmdC m 33 23 == 0
  | _ => false)

/-- The first cause of a command unit (R341); `dest` is the EID that names its target, `breach` whether its operands break a limit
of R342 outside the command's words. -/
def State.cmdCause (s : State) (user : Bool) (dest : Nat) (breach : Bool) (m : Msg) : Option Cause :=
  match (cmdGvas m).find? fun r => !s.rangeAllowed (s.eid / 4096) user r with
  | some r => some { rank := 5, code := cAccess, eval := r.gva }
  | none =>
    let eids := dest :: (if cmdOp m = 4 then [mcastCluster m * 32] else [])
    match eids.find? s.badEid with
    | some e => some { rank := 5, code := cAccess, eval := BitVec.ofNat 64 e }
    | none =>
      match (cmdAlign m).find? fun a => a.1.toNat % a.2 != 0 with
      | some a => some { rank := 6, code := cAlignment, eval := a.1 }
      | none => if !breach && cmdLimits m then none else some { rank := 7, code := cEngineFault, eval := 1 }

/-! ## Guards at issue (R179, R192) -/

/-- A command's record, as its guard field and run-ahead make it: none where it must wait for a FREE slot; a command without a
record runs. -/
def State.guardFor (s : State) (g : BitVec 4) (key : Nat) : Option (State × Option GuardedCmd) :=
  let rec_ : GuardedCmd := { key := key, slot := none, path := false, comb := none, verdict := none }
  let no : GuardedCmd := { rec_ with verdict := some false }
  let at_ := s.arch.getG g
  match s.cur.ra with
  | none =>
    if g = 0 then some (s, none)
    else match at_ with
      | .free => some (s, none)
      | .tru => some (s, none)
      | .fls => some (s, some no)
      | _ => some (s, some { rec_ with slot := some g })
  | some c =>
    let ahead : GuardedCmd := { rec_ with path := true }
    if g = 0 then some (s, some ahead)
    else if g = c.slot then some (s, some (if c.dir then ahead else no))
    else match at_ with
      | .free => some (s, some ahead)
      | .tru => some (s, some ahead)
      | .fls => some (s, some no)
      | _ =>
        ((List.range 16).find? fun i => s.arch.g.getD i .free == .free).map fun i =>
          let f := BitVec.ofNat 4 i
          (s.modArch fun a => a.setG f (.comb g), some { ahead with slot := some g, comb := some f })

/-- Put a command's record with its strand. -/
def State.guarded (s : State) (g : BitVec 4) (key : Nat) (f : State → State) : State :=
  match s.guardFor g key with
  | none => s.fullWait
  | some (s, none) => f s
  | some (s, some r) => f (s.modCur fun k => { k with gcmds := k.gcmds ++ [r] })

/-! ## Range locks (R240) -/

/-- Free entries of a tile's table. -/
def freeLocks (l : Map RLock) : List Nat := (List.range 32).filter fun i => (Map.find l i).isNone

/-- Enter ranges in the table of a tile, the lowest free entries in the order of the ranges (DESIGN CHOICE, log entry 86); none where it lacks
room. -/
def State.lockRanges (s : State) (tile kind tag eid key : Nat) (rs : List Range) : Option State :=
  let free := freeLocks (s.tile tile).locks
  if free.length < rs.length then none
  else
    let lock := fun (r : Range) =>
      ({ first := r.gva, last := lastByte r.gva r.len, dst := r.dst, kind := kind, tag := tag, eid := eid, key := key } : RLock)
    some (s.modTile tile fun t => { t with locks := (free.zip rs).foldl (fun l q => Map.put l q.1 (lock q.2)) t.locks })

/-- Enter a command's ranges at its issue, where there is room for all of them. -/
def State.lockNow (s : State) (tile kind tag eid key : Nat) (rs : List Range) : State :=
  (s.lockRanges tile kind tag eid key rs).getD s

/-- At the head of its inbox a command registers the ranges that its issue found no room for; the entries have its tag. -/
def State.lockHead (s : State) (tile kind tag eid key : Nat) (rs : List Range) : Option State :=
  if rs.isEmpty then some s
  else if (s.tile tile).locks.any fun (_, l) => l.key == key then
    some (s.modTile tile fun t => { t with locks := t.locks.map fun (i, l) => (i, if l.key = key then { l with tag := tag } else l) })
  else s.lockRanges tile kind tag eid key rs

/-- Has a core of the tile an access to a registered range still under way, in its side log or in a holding buffer, issued before the
registration? A later one would have raised RANGE_LOCK. -/
def State.locksBusy (s : State) (tile key : Nat) : Bool :=
  let ls := (s.tile tile).locks.filter fun (_, l) => l.key == key
  let hit := fun (p : Piece) (wr : Bool) => ls.any fun (_, l) => (wr || l.dst) &&
    ((p.gva - l.first).toNat ≤ (l.last - l.first).toNat || (l.first - p.gva).toNat < p.len)
  [2 * tile, 2 * tile + 1].any fun e =>
    (s.core e).accs.any (fun a => a.pieces.any fun p => hit p (match a.op with | .load _ => false | _ => true)) ||
      (s.core e).side.any (fun g => hit { gva := g.line, len := 128, nib := none } true) ||
      [0, 1, 2, 3].any fun i => (s.strand (4 * e + i)).hold.any fun h => hit { gva := h.gva, len := 16, nib := none } true

/-! ## The instructions (R341, R342) -/

/-- Issue an engine command (R341): a command record is taken, its ranges are registered (R240), and the message leaves for its engine.
It follows the fences before it (R230). Ranges registered at issue show the tag 0 until the command is at its inbox's head (DESIGN CHOICE,
log entry 87). -/
def State.command (s : State) (d : XReg) (g : BitVec 4) (kind dest : Nat) (breach : Bool) (w : List Word) : State :=
  let m : Msg := { s.request 0 with dest := dest, ha := BitVec.ofNat 64 (0x7FFFFFFFF1000 + kind * 0x100), guard := g,
                                    a0 := w.getD 0 0, a1 := w.getD 1 0, a2 := w.getD 2 0, a3 := w.getD 3 0 }
  s.checked (s.cmdCause (s.arch.prv == 0) dest breach m) (
    if s.fenced false then s.retry
    else match freeTag s.curCore.reqs 1023 with
    | none => s.block .engine
    | some t =>
      if 64 ≤ (s.curCore.reqs.filter fun r => r.2.cmd).length then s.block .engine
      else s.guarded g (s.fresh + 1) fun s => s.numbered m fun s m =>
        let r : Req := { dest := dest, snum := s.snum, id := m.seq, cmd := true, depth := s.arch.depth.toNat }
        (((s.modCore s.eid fun c => { c with reqs := Map.put c.reqs t r }).lockNow (s.eid / 2) kind 0 s.eid m.seq (cmdRanges m)).wlater
          (.x d) 0 m.seq).later (.engineCommand { m with tag := some t }))

/-- COPY, GATH, SCAT, MCAST, SORTC (R342): the highest byte of xb is to be zero. -/
def State.command5 (s : State) (op : Nat) (d a b : XReg) (g : BitVec 4) : State :=
  let x := s.rx b
  s.command d g (if op = opCopy ∨ op = opMcast then 0 else if op = opSortc then 3 else 2) s.eid (field x 56 8 != 0)
    [x <<< 8 ||| BitVec.ofNat 64 op, s.rx a, s.arch.getX 16, s.arch.getX 17]

/-- COPY (R341-R343). -/
def execCopy (d a b : XReg) (g : BitVec 4) (s : State) : Res := .next (s.command5 opCopy d a b g)

/-- GATH (R341-R343). -/
def execGath (d a b : XReg) (g : BitVec 4) (s : State) : Res := .next (s.command5 opGath d a b g)

/-- SCAT (R341-R343). -/
def execScat (d a b : XReg) (g : BitVec 4) (s : State) : Res := .next (s.command5 opScat d a b g)

/-- MCAST (R341-R343). -/
def execMcast (d a b : XReg) (g : BitVec 4) (s : State) : Res := .next (s.command5 opMcast d a b g)

/-- SORTC (R341-R343). -/
def execSortc (d a b : XReg) (g : BitVec 4) (s : State) : Res := .next (s.command5 opSortc d a b g)

/-- ENG (R342): the operation selects the engine, xa its tile or cluster. -/
def execEng (d a : XReg) (g : BitVec 4) (s : State) : Res :=
  let w := [16, 17, 18, 19].map s.arch.getX
  let op := field (w.getD 0 0) 0 3
  .next (s.command d g (if op = opCopy ∨ op = opMcast then 0 else if op = opSortc then 3 else 2)
    (if a = 0 then s.eid else field (s.rx a) 0 22) false w)

/-! ## What an engine reads and writes -/

/-- A command at work: the state, how far it has come, and how it stands. -/
structure EngSt where
  s : State
  prog : EngProg
  got : Got
  deriving DecidableEq, Repr

def EngProg.start : EngProg := { done := 0, flags := 0, seen := [], vals := [] }

/-- What the command still needs of what it reads, read once. -/
def EngSt.keep (k : EngSt) (l : List Nat) : EngSt := { k with prog := { k.prog with vals := l } }

/-- The n-th writing of a command: made once, all of it or nothing (R343). -/
def EngSt.stepAt (k : EngSt) (n : Nat) (f : EngSt → EngSt) : EngSt :=
  if k.got.fails || n < k.prog.done then k
  else
    let r := f k
    if r.got.fails then { k with got := r.got } else { r with prog := { r.prog with done := n + 1 } }

/-- Read bytes. -/
def EngSt.read (k : EngSt) (from_ : Nat) (m : Msg) (g : Word) (n : Nat) (f : EngSt → Nat → EngSt) : EngSt :=
  if k.got.fails then k
  else match k.s.hwLoad from_ m.asid m.wld (pieces g n) with
    | (s, .value v) => f { k with s := s } v
    | (s, got) => { k with s := s, got := got }

/-- Write pieces. -/
def EngSt.put (k : EngSt) (from_ : Nat) (m : Msg) (ps : List Piece) (v : Nat) : EngSt :=
  if k.got.fails then k
  else
    let (s, seen, got) := k.s.hwStores none from_ m.asid m.wld k.prog.seen v ps
    { s := s, prog := { k.prog with seen := seen }, got := got }

def EngSt.write (k : EngSt) (from_ : Nat) (m : Msg) (g : Word) (n v : Nat) : EngSt := k.put from_ m (pieces g n) v

/-- Cut n bytes or elements into chunks of c: first and length of each. -/
def chunks (n c : Nat) : List (Nat × Nat) :=
  (List.range ((n + c - 1) / c)).map fun i => (c * i, min c (n - c * i))

/-- Cut n bytes that are written from a GVA so that each aligned 8-byte granule lies in one chunk (R227, R343): number, first and length of
each; c is a multiple of 8. -/
def cuts (g : Word) (n c : Nat) : List (Nat × Nat × Nat) :=
  let first := min ((8 - g.toNat % 8) % 8) n
  let l := (if first = 0 then [] else [(0, first)]) ++ (chunks (n - first) c).map fun q => (first + q.1, q.2)
  (List.range l.length).zip l

/-- The pieces of n nibbles or bytes of elements of width w from a GVA. -/
def elemPieces (g : Word) (w n : Nat) : List Piece :=
  if w = 4 then
    pieces g (n / 2) ++ (if n % 2 = 1 then [{ gva := g + BitVec.ofNat 64 (n / 2), len := 1, nib := some false }] else [])
  else pieces g (n * w / 8)

/-- The pieces of bytes o to o + n - 1 of what a converting COPY writes: an odd last 4-bit element leaves the other half of its byte. -/
def convPieces (m : Msg) (o n : Nat) : List Piece :=
  let g := m.a1 + BitVec.ofNat 64 o
  if etBits (copyDf m) = 4 ∧ copyElems m % 2 = 1 ∧ o + n = copyOut m then elemPieces g 4 (2 * n - 1) else pieces g n

/-- Bytes o to o + n - 1 of what a converting COPY writes, from every element that has a bit in them (R343). -/
def convChunk (from_ : Nat) (m : Msg) (o n : Nat) (k : EngSt) : EngSt :=
  let sw := etBits (copySf m)
  let dw := etBits (copyDf m)
  let i := 8 * o / dw
  let c := min (copyElems m) ((8 * (o + n) + dw - 1) / dw) - i
  k.read from_ m (m.a2 + BitVec.ofNat 64 (i * sw / 8)) ((i * sw % 8 + c * sw + 7) / 8) fun k v =>
    let rs := (List.range c).map fun j => vconv (copySf m) (copyDf m) .rne (v / 2 ^ (i * sw % 8 + sw * j) % 2 ^ sw)
    let out := rs.foldr (fun r acc => r.1 % 2 ^ dw + 2 ^ dw * acc) 0
    let fl := rs.foldl (fun f r => f ||| r.2) k.prog.flags
    ({ k with prog := { k.prog with flags := fl } } : EngSt).put from_ m (convPieces m o n) (out / 2 ^ (8 * o - i * dw) % 2 ^ (8 * n))

/-- COPY (R343). -/
def engCopy (from_ : Nat) (m : Msg) (k : EngSt) : EngSt :=
  if copyConv m then (cuts m.a1 (copyOut m) 128).foldl (fun k q => k.stepAt q.1 (convChunk from_ m q.2.1 q.2.2)) k
  else
    (cuts m.a1 (copyLen m) 128).foldl (fun k (j, i, n) =>
      k.stepAt j fun k => k.read from_ m (m.a2 + BitVec.ofNat 64 i) n fun k v => k.write from_ m (m.a1 + BitVec.ofNat 64 i) n v) k

/-- May a row that an index chooses stand there (R2, R208)? Only a command whose base stands in a direct window reaches it, there. -/
def State.farAllowed (s : State) (from_ : Nat) (m : Msg) (g : Word) : Bool :=
  let last := lastByte g (rowLen m)
  !s.barred (from_ / 128) (gvaDie g) && !s.barred (from_ / 128) (gvaDie last) &&
    (if isDevice g || isDevice last then (sramWindow m.a3).isSome && sramWindow g == sramWindow m.a3 && sramWindow last == sramWindow m.a3
     else true)

/-- The chunks of a row, and the n-th write of row i. -/
def rowChunks (m : Msg) : List (Nat × Nat) := chunks (rowLen m) 128

/-- Row i of GATH or SCAT, whose index is `idx` (R343). -/
def engRow (from_ : Nat) (m : Msg) (scatter : Bool) (i idx : Nat) (k : EngSt) : EngSt :=
  let l := rowChunks m
  let row := m.a1 + BitVec.ofNat 64 (i * rowLen m)
  let far := m.a3 + BitVec.ofNat 64 (idx * rowLen m)
  if idx ≠ 0xFFFFFFFF ∧ !k.s.farAllowed from_ m far then { k with got := .denied far }
  else ((List.range l.length).zip l).foldl (fun k (j, o, n) => k.stepAt (i * l.length + j) fun k =>
    let d := BitVec.ofNat 64 o
    if idx = 0xFFFFFFFF then (if scatter then k else k.write from_ m (row + d) n 0)
    else k.read from_ m ((if scatter then row else far) + d) n fun k v => k.write from_ m ((if scatter then far else row) + d) n v) k

/-- GATH and SCAT (R343), rows ascending; the index of a row that is under way is the one that was read. -/
def engRows (from_ : Nat) (m : Msg) (scatter : Bool) (k : EngSt) : EngSt :=
  let c := (rowChunks m).length
  (List.range (rowsN m)).foldl (fun k i =>
    if k.got.fails || (i + 1) * c ≤ k.prog.done then k
    else match k.prog.vals with
      | [] => k.read from_ m (m.a2 + BitVec.ofNat 64 (4 * i)) 4 fun k idx =>
          let k := engRow from_ m scatter i idx (k.keep [idx])
          if k.got.fails then k else k.keep []
      | idx :: _ =>
        let k := engRow from_ m scatter i idx k
        if k.got.fails then k else k.keep []) k

/-- The direct-window GVA of a tile offset. -/
def windowGva (clu tile off : Nat) : Word :=
  BitVec.ofNat 64 (clu / 16 * 2 ^ 51 + 0x7FF * 2 ^ 40 + clu % 16 * 2 ^ 24 + tile * 2 ^ 20 + off)

/-- The tiles of a mask. -/
def maskTiles (x : Word) : List Nat := (List.range 16).filter fun t => x.getLsbD (20 + t)

/-- Does a tile accept a multicast: is one of its cores granted to a job of the ASID, and the tile open to the world (R31, R32)? -/
def State.tileAccepts (s : State) (m : Msg) (clu tile : Nat) : Bool :=
  let c := fun (i : Nat) => s.core (clu * 32 + 2 * tile + i)
  ((c 0).job.isSome && (c 0).asid == m.asid || (c 1).job.isSome && (c 1).asid == m.asid) &&
    (m.wld || !s.secure (.tile (clu / 16) (clu % 16) tile 0 6))

/-- MCAST (R343): the tiles that accept at the start receive the bytes; the mask of the others is left in the outcome. -/
def engMcast (from_ : Nat) (m : Msg) (k : EngSt) : EngSt × Nat :=
  let clu := mcastCluster m
  let len := cmdC m 0 20
  let k := if k.prog.vals.isEmpty then
      k.keep [(maskTiles m.a1).foldl (fun n t => if k.s.tileAccepts m clu t then n else n + 2 ^ t) 0] else k
  let bad := k.prog.vals.headD 0
  let good := (maskTiles m.a1).filter fun t => bad / 2 ^ t % 2 == 0
  if len = 0 then (k, 0)
  else
    ((cuts (windowGva clu 0 (field m.a1 0 20)) len 128).foldl (fun k (j, i, n) =>
      k.stepAt j fun k => k.read from_ m (m.a2 + BitVec.ofNat 64 i) n fun k v =>
        good.foldl (fun k t => k.write from_ m (windowGva clu t (field m.a1 0 20 + i)) n v) k) k, bad)

/-- Read N 16-bit keys. -/
def readKeys (from_ : Nat) (m : Msg) (k : EngSt) : EngSt × List Nat :=
  (chunks (rowsN m) 64).foldl (fun (k, l) (i, n) =>
    if k.got.fails then (k, l)
    else match k.s.hwLoad from_ m.asid m.wld (pieces (m.a1 + BitVec.ofNat 64 (2 * i)) (2 * n)) with
      | (s, .value v) => ({ k with s := s }, l ++ (List.range n).map fun j => v / 2 ^ (16 * j) % 2 ^ 16)
      | (s, got) => ({ k with s := s, got := got }, l)) (k, [])

/-- Running sums. -/
def offsets : Nat → List Nat → List Nat
  | _, [] => []
  | n, c :: r => n :: offsets (n + c) r

/-- SORTC (R345); the number of keys ≥ K is left in the outcome. -/
def engSort (from_ : Nat) (m : Msg) (k : EngSt) : EngSt × Nat :=
  let kk := sortK m
  if rowsN m = 0 then (k, 0)
  else
    let (k, keys) := if k.prog.vals.isEmpty then readKeys from_ m k else (k, k.prog.vals)
    let k := if k.got.fails then k else k.keep keys
    let cnt := (List.range kk).map fun c => keys.count c
    let order := (List.range kk).flatMap fun c => (List.range keys.length).filter fun i => keys.getD i 0 == c
    let words := fun (l : List Nat) => l.foldr (fun w acc => w % 2 ^ 32 + 2 ^ 32 * acc) 0
    let k := k.stepAt 0 fun k => k.write from_ m m.a2 (4 * order.length) (words order)
    let k := k.stepAt 1 fun k => k.write from_ m m.a3 (4 * (2 * kk)) (words (cnt ++ offsets 0 cnt))
    (k, (keys.filter fun c => kk ≤ c).length)

/-! ## Start and completion -/

/-- EFLG of a cluster takes an engine's flags, reported in the cluster's present cycle (R133-R135). -/
def State.reportFlags (s : State) (clu : Nat) (fl : Fl) : State :=
  if fl = 0 then s
  else
    let t := s.clusterTime clu
    s.modCluster clu fun k =>
      { k with eflg := k.eflg ||| fl, reported := if k.reportedAt = t then k.reported ||| fl else fl, reportedAt := t }

/-- A command's status lands at the issuing strand, its record and ranges are free, and those who wait go on (R341, R344). -/
def State.commandDone (s : State) (m : Msg) (status : Nat) : State :=
  let s := (s.unlock (m.src / 2) m.seq).modStrand (4 * m.src + m.ssn) fun k => k.dropGuard m.seq
  match m.tag with
  | none => s
  | some t =>
    match Map.find (s.core m.src).reqs t with
    | none => s
    | some r =>
      if r.id != m.seq then s
      else ((s.landReq m.src r status).modCore m.src fun c => { c with reqs := Map.del c.reqs t }).poke m.src

/-- Strands that wait for a record, a tag or a ring go on to try again (R17). -/
def State.pokeEngines (s : State) (eid : Nat) : State :=
  [0, 1, 2, 3].foldl (fun s i => if (s.strand (4 * eid + i)).wait = .engine then s.wake (4 * eid + i) else s) s

/-- The lowest free tag of an engine. -/
def engFree (g : Engine) (n : Nat) : Option Nat := freeTag g.running n

/-- The head command of a copy, gather or sort-count engine starts, or is discarded, or waits (R340). -/
def State.commandStart (s : State) (e : EngRef) : State :=
  let g := s.engine e
  match g.inbox with
  | [] => s
  | m :: r =>
    let again := fun (s : State) => if r.isEmpty then s else s.once (.engineCommandStart e)
    match (s.strand (4 * m.src + m.ssn)).verdict m.seq with
    | none => s.notYet
    | some false => again (((s.setEngine e { g with inbox := r }).commandDone m (statusWord 1 0 0 0)).pokeEngines m.src)
    | some true =>
      match engFree g (engTags e) with
      | none => s.notYet
      | some t =>
        match s.lockHead (m.src / 2) (engKind e) t m.src m.seq (cmdRanges m) with
        | none => s.notYet
        | some s =>
          let s := (s.setEngine e { g with inbox := r, running := Map.put g.running t m }).modStrand (4 * m.src + m.ssn) fun k =>
            k.dropGuard m.seq
          again (s.later (.engineCompletion e t))

/-- A running command ends with a status. -/
def State.commandEnd (s : State) (e : EngRef) (t : Nat) (m : Msg) (status : Nat) (fl : Fl) : State :=
  let g := s.engine e
  let s := s.setEngine e { g with running := Map.del g.running t, prog := Map.del g.prog t }
  ((s.reportFlags (engCluster e) fl).commandDone m status).pokeEngines m.src

/-- Is a GVA that a command meets one that it writes? -/
def engWrites (m : Msg) (g : Word) : Bool :=
  let meets := fun (d : Bool) => (cmdRanges m).any fun r => r.dst == d && (g - r.gva).toNat < r.len
  if cmdOp m = opScat then !meets false else meets true

/-- The GVA of the first poisoned granule of a piece of at most 128 bytes (R204, R344). -/
def State.poisonedGranule (s : State) (m : Msg) (g : Word) : Word :=
  match s.resolve (m.src / 32) m.asid m.wld false g with
  | (_, _, .at_ p) => (((List.range 128).find? fun i => s.poison.contains (p.key i / 8)).elim g fun i => g + BitVec.ofNat 64 i) &&& ~~~7
  | _ => g &&& ~~~7

/-- The work of a command, from where it stands; what a performed SORTC or MCAST leaves for its status. -/
def engWork (from_ : Nat) (m : Msg) (k : EngSt) : EngSt × Nat :=
  match cmdOp m with
  | 1 => (engCopy from_ m k, 0)
  | 2 => (engRows from_ m false k, 0)
  | 3 => (engRows from_ m true k, 0)
  | 4 => engMcast from_ m k
  | _ => engSort from_ m k

/-- Are the line requests of an engine held, because the clock of a copy engine's cluster is to change (R420)? -/
def State.engHeld (s : State) : EngRef → Bool
  | .copy t => (s.cluster (t / 16)).hold.isSome
  | _ => false

/-- ENGINE_COMPLETION (R343, R344): the command's reads and writes are performed and its status lands. It waits for what its
strand issued before it (R239) and for accesses to its ranges issued before the registration (R240); an unmapped page holds it, and it
goes on from there. -/
def execEngineCompletion (e : EngRef) (tag : Nat) (s : State) : Res :=
  let from_ := engCluster e
  .next (match Map.find (s.engine e).running tag with
  | none => s
  | some m =>
    if s.msgOwes m || s.locksBusy (m.src / 2) m.seq || s.engHeld e then s.notYet
    else s.speaks (engDie e) (engAgent e) fun s =>
      let r := engWork from_ m { s := s, prog := Map.get EngProg.start (s.engine e).prog tag, got := .value 0 }
      let k := r.1
      let fl := k.prog.flags
      let stands := fun (s : State) => s.setEngine e { (s.engine e) with prog := Map.put (s.engine e).prog tag k.prog }
      match k.got with
      | .value _ =>
        if cmdOp m = 4 ∧ r.2 ≠ 0 then k.s.commandEnd e tag m (statusWord 2 0x0B r.2 fl) fl
        else k.s.commandEnd e tag m (statusWord 0 0 (if cmdOp m = 5 then r.2 else 0) fl) fl
      | .unmapped g => (stands k.s).holdEv (4 * m.src + m.ssn) m.asid g
          (if engWrites m g then .engineWrite else .engine) (.engineCompletion e tag)
      | .denied g => k.s.commandEnd e tag m (statusWord 2 0x08 (field g 0 32) fl) fl
      | .poison g => k.s.commandEnd e tag m (statusWord 2 0x10 (field (k.s.poisonedGranule m g) 0 32) fl) fl
      | .wait => (stands k.s).notYet)

/-- The service refuses a page that a command waits for: what it has done so far remains, with its flags (R344). -/
def State.refuseCommand (s : State) (e : EngRef) (tag : Nat) (g : Word) : State :=
  match Map.find (s.engine e).running tag with
  | none => s
  | some m =>
    let fl := (Map.get EngProg.start (s.engine e).prog tag).flags
    s.commandEnd e tag m (statusWord 2 0x08 (field g 0 32) fl) fl

end Sys2Proof.Machine
end

