-- ==== Sys2Proof/Machine/Matrix.lean ====
section
/-!
DEFINITION. The matrix engine (R270-R298): its instructions, panels, rows and accumulations, zeroing and draining, tags and faults;
and the arrival and start of commands at every engine (R340).
-/
namespace Sys2Proof.Machine

open Sys2Proof

/-! ## Formats (R270, R282) -/

/-- Panel bytes, K and N of a panel format, an et code. -/
def panelBytes (wf : Nat) (sp : Bool) : Nat :=
  if sp then 5120 else match wf with
    | 0 => 2048 | 1 => 32768 | 2 => 16384 | 3 => 16384 | 4 => 8192 | 5 => 8192 | _ => 4096

def panelK (wf : Nat) : Nat := if wf = 0 then 16 else 128
def panelN (wf : Nat) : Nat := if wf = 0 then 16 else 64

/-- Row bytes of an activation format: et codes 0 to 6, 12 BQ8, 13 BQ4. -/
def actBytes (af : Nat) : Nat :=
  match af with
  | 0 => 128 | 1 => 512 | 2 => 256 | 3 => 256 | 4 => 128 | 5 => 128 | 6 => 64 | 12 => 136 | _ => 72

def actCode (af : Nat) : Bool := af ≤ 6 || af == 12 || af == 13

/-- May an activation format meet a panel? -/
def permitted (wf : Nat) (sp : Bool) (af : Nat) : Bool :=
  match wf with
  | 0 => af == 0 && !sp
  | 1 => af == 1 && !sp
  | 2 => (af == 2 || af == 3) && !sp
  | 3 => (af == 2 || af == 3) && !sp
  | 4 => af == 4 || af == 5 || af == 12
  | 5 => af == 4 || af == 5 || af == 12
  | 6 => (af == 6 || af == 13) && !sp
  | _ => false

/-- The format of an et code 0 to 6, and of a BQ row's elements. -/
def codeFmt (c : Nat) : Fmt :=
  match c with
  | 0 => .f64 | 1 => .f32 | 2 => .bf16 | 3 => .f16 | 4 => .e4m3 | 5 => .e5m2 | 6 => .e2m1 | 12 => .e4m3 | _ => .e2m1

/-- Bytes of an accumulator row. -/
def accBytes (wide : Bool) : Nat := if wide then 128 else 256

/-- Bytes of an output row (R282). -/
def outBytes (of_ : Nat) : Nat := panelN of_ * (codeFmt of_).width / 8

/-- Tokens of a panel load and of a row entry (R293). -/
def panelTokens (wf : Nat) (sp : Bool) : Nat := (panelBytes wf sp + 255) / 256
def rowTokens (wf : Nat) (sp : Bool) : Nat :=
  if sp then 3 else match wf with
    | 0 => 3 | 1 => 64 | 2 => 16 | 3 => 16 | 4 => 6 | 5 => 6 | _ => 3

/-! ## The Palette (R273) -/

def palValid (p : Word) : Bool := p.getLsbD 0
def palSp (p : Word) : Bool := p.getLsbD 1
def palWf (p : Word) : Nat := field p 4 4
def palette (wsc wr wf : Nat) (sp : Bool) : Word :=
  BitVec.ofNat 64 (wsc * 2 ^ 32 + wr * 2 ^ 8 + wf * 2 ^ 4 + (if sp then 2 else 0) + 1)

/-! ## The instructions (R275, R276) -/

def Matrix.tag (m : Matrix) (t : Nat) : MTag := m.tags.getD t MTag.reset
def Matrix.setTag (m : Matrix) (t : Nat) (g : MTag) : Matrix := { m with tags := m.tags.set! t g }
def State.matrix (s : State) (tile : Nat) : Matrix := (s.tile tile).matrix
def State.modMatrix (s : State) (tile : Nat) (f : Matrix → Matrix) : State := s.modTile tile fun t => { t with matrix := f t.matrix }

/-- The fields of MMA's xb (R286). -/
def mmaSco (x : Word) : Nat := field x 32 20
def regCp (x : Word) : Nat := field x 20 12
def regM (x : Word) : Nat := field x 8 12
def mmaAf (x : Word) : Nat := field x 3 4

/-- Does an activation format take scales from the array of SCO? -/
def hasScales (af : Nat) : Bool := af != 0 && af != 12 && af != 13

/-- The fields of MGRP's xb (R288). -/
def grpN (x : Word) : Nat := field x 16 8
def grpSp (x : Word) : Bool := x.getLsbD 15
def grpWf (x : Word) : Nat := field x 11 4
def grpWr (x : Word) : Nat := field x 8 3

/-- The wide rows of a command: FP64 elements. -/
def wideRows (c : MCmd) : Bool := match c.op with
  | .macz => c.xb.getLsbD 0
  | _ => mmaAf c.xb == 0

/-- The region of a command with one, as a group (R286, R290, R291). -/
def regionGroup (c : MCmd) : MGroup :=
  { m := regM c.xb, kb := 1, c := c.xa, cp := regCp c.xb, sco := if c.op = .mma then mmaSco c.xb else 0, wso := 0 }

/-- The range of a group's region. -/
def groupRange (wide : Bool) (dst : Bool) (g : MGroup) : List Range :=
  if g.m = 0 then [] else [rng g.c (16 * g.cp * (g.m - 1) + accBytes wide) dst]

/-- The ranges that a command registers at its issue (R294). -/
def mcmdRanges (c : MCmd) : List Range :=
  match c.op with
  | .mma => groupRange (mmaAf c.xb == 0) true (regionGroup c)
  | .macz => groupRange (wideRows c) true (regionGroup c)
  | .mdrain => groupRange (wideRows c) (c.xb.getLsbD 7) (regionGroup c)
  | .mgrp => if grpN c.xb = 0 then [] else [rng c.xa (32 * grpN c.xb) false]
  | _ => []

/-- Commands sent to a tile's matrix engine that have yet to start. -/
def State.matrixQueued (s : State) (tile : Nat) : Nat :=
  (s.matrix tile).inbox.length + (s.flight.filter fun e => match e with
    | .engineCommand m => field m.ha 8 4 == 1 && field m.ha 12 4 == 1 && m.dest / 2 == tile
    | _ => false).length

def mopCode : MOp → Nat
  | .mwl => 0 | .mwls => 1 | .mma => 2 | .mgrp => 3 | .macz => 4 | .mdrain => 5

/-- Issue a matrix command (R276), whose ranges are registered (R240, R294): `region` where xa names memory, with its alignment, and `ok` its
operand limits. -/
def State.mcommand (s : State) (op : MOp) (d a b : XReg) (g : BitVec 4) (region : Option Nat) (ok : Bool) : State :=
  let xa := s.rx a
  let t := s.eid / 2
  let rs := mcmdRanges { op := op, xa := xa, xb := s.rx b, tag := 0, msg := s.request 0 }
  let no := fun (g : Word) => s.barred (s.eid / 4096) (gvaDie g) || isDevice g
  let bad := region.isSome && (no xa || rs.any fun r => no (lastByte r.gva r.len))
  if s.eid % 2 = 0 then s.raise 5 cAccess (BitVec.ofNat 64 s.eid)
  else if bad then s.raise 5 cAccess xa
  else if xa.toNat % region.getD 1 != 0 then s.raise 6 cAlignment xa
  else if !ok then s.raise 7 cEngineFault 1
  else if s.fenced false then s.retry
  else match (List.range 64).find? fun i => !((s.matrix t).tag i).used with
    | none => s.block .engine
    | some i =>
      if 16 ≤ s.matrixQueued t then s.block .engine
      else s.guarded g (s.fresh + 1) fun s =>
        let gen := ((s.matrix t).tag i).gen + 1
        let tag : MTag := { gen := gen, used := true, snum := s.snum, seq := s.fresh + 1, depth := s.arch.depth.toNat, fault := none }
        let s := s.modMatrix t fun m => m.setTag i tag
        let m : Msg := { s.request 0 with ha := 0x7FFFFFFFF1100, guard := g, opc := BitVec.ofNat 16 (mopCode op), a0 := xa,
                                          a1 := s.rx b, a2 := BitVec.ofNat 64 i }
        s.numbered m fun s m =>
          let c : MCmd := { op := op, xa := xa, xb := s.rx b, tag := i, msg := m }
          ((s.lockNow t 1 i s.eid m.seq (mcmdRanges c)).later (.engineCommand m)).wxs d (BitVec.ofNat 64 (gen.toNat * 64 + i)) 1

/-- MWL (R283). -/
def execMwl (d a b : XReg) (g : BitVec 4) (s : State) : Res :=
  let x := s.rx a
  .next (s.mcommand .mwl d a b g none (field x 39 25 == 0 && field x 32 4 ≤ 6 && s.rx b == 0))

/-- MWLS (R283). -/
def execMwls (d a b : XReg) (g : BitVec 4) (s : State) : Res :=
  let x := s.rx a
  .next (s.mcommand .mwls d a b g none (field x 39 25 == 0 && (field x 32 4 == 4 || field x 32 4 == 5) && s.rx b == 0))

/-- MMA (R286). -/
def execMma (d a b : XReg) (g : BitVec 4) (s : State) : Res :=
  let x := s.rx b
  let af := mmaAf x
  .next (s.mcommand .mma d a b g (some 16)
    (field x 52 12 == 0 && !x.getLsbD 7 && actCode af && (if af = 0 then 8 else 16) ≤ regCp x &&
      (if hasScales af then mmaSco x % 4 == 0 && mmaSco x + 4 * regM x ≤ 0x100000 else mmaSco x == 0)))

/-- MGRP (R288). -/
def execMgrp (d a b : XReg) (g : BitVec 4) (s : State) : Res :=
  let x := s.rx b
  .next (s.mcommand .mgrp d a b g (some 8)
    (field x 24 40 == 0 && !x.getLsbD 7 && grpWf x ≤ 6 && actCode (mmaAf x) && permitted (grpWf x) (grpSp x) (mmaAf x)))

/-- MACZ (R290). -/
def execMacz (d a b : XReg) (g : BitVec 4) (s : State) : Res :=
  let x := s.rx b
  .next (s.mcommand .macz d a b g (some 16)
    (field x 32 32 == 0 && field x 1 7 == 0 && (if x.getLsbD 0 then 8 else 16) ≤ regCp x))

/-- MDRAIN (R291). -/
def execMdrain (d a b : XReg) (g : BitVec 4) (s : State) : Res :=
  let x := s.rx b
  .next (s.mcommand .mdrain d a b g (some 16) (mmaAf x ≤ 6 && (if mmaAf x = 0 then 8 else 16) ≤ regCp x))

/-- MWAIT (R292). The strand that issued a command that has faulted takes the fault at its MWAIT, on that command's tag or on one that was
discarded behind it (R279). -/
def execMwait (a : XReg) (s : State) : Res :=
  let x := s.rx a
  let t := s.eid / 2
  let k := (s.matrix t).tag (field x 0 6)
  let mine := s.eid % 2 == 1 && k.snum == s.snum
  let owed := k.used && (k.fault.isNone || mine) || mine && (s.matrix t).gone.contains (field x 0 6) &&
    (s.matrix t).behind.any fun q => ((s.matrix t).tag q.1).snum == s.snum
  .next (if s.sameJob s.eid (2 * t + 1) && owed && k.gen.toNat == field x 6 16 then s.block .engine else s)

/-! ## Tags and faults (R278-R280) -/

/-- Both cores of a tile try again what waits for the engine. -/
def State.pokeTile (s : State) (tile : Nat) : State :=
  (((s.pokeEngines (2 * tile)).pokeEngines (2 * tile + 1)).poke (2 * tile)).poke (2 * tile + 1)

/-- A command's tag completes: it is free, its ranges and guard as well, and its strand's EV is set (R61, R278). -/
def State.tagDone (s : State) (tile : Nat) (c : MCmd) : State :=
  let sid := 4 * c.msg.src + c.msg.ssn
  let s := (s.unlock tile c.msg.seq).modStrand sid fun k => k.dropGuard c.msg.seq
  let s := s.modMatrix tile fun m => m.setTag c.tag { (m.tag c.tag) with used := false, fault := none }
  (s.setEv sid).pokeTile tile

/-- Discard a command behind faults that are not taken yet (R279, R280). -/
def State.discard (s : State) (tile : Nat) (c : MCmd) : State :=
  (s.tagDone tile c).modMatrix tile fun m =>
    { m with behind := m.behind.map fun (t, n) => (t, min 255 (n + 1)), gone := m.gone ++ [c.tag] }

/-- The charge of an engine that waits is gone (R293). -/
def State.dropCharge (s : State) (tile : Nat) : State :=
  s.modCluster (tile / 16) fun k => { k with charges := k.charges.filter fun (c : Charge) => c.req != 32 + tile % 16 }

/-- Has a command that has started latched its panel, all that it does? -/
def MRun.loaded (r : MRun) : Bool := (r.cmd.op == .mwl || r.cmd.op == .mwls) && r.latched

/-- The commands behind one of the list. -/
def behindRun (tag : Nat) (l : List MRun) : List MRun := (l.dropWhile fun r => r.cmd.tag != tag).drop 1

/-- A command that has started stops with a fault (R279): every command behind it that has done nothing yet is discarded, with the inbox
(DEDUCED, log entry 68). -/
def State.matrixFault (s : State) (tile : Nat) (r : MRun) (sub detail : Nat) : State :=
  let c := r.cmd
  let s := ((s.reportFlags (tile / 16) r.flags).unlock tile c.msg.seq).dropCharge tile
  let eval : Word := BitVec.ofNat 64 (sub + c.tag * 2 ^ 16 + detail % 2 ^ 32 * 2 ^ 32)
  let gone := (behindRun c.tag (s.matrix tile).runs).filter fun (q : MRun) => !q.loaded
  let cmds := gone.map (·.cmd) ++ (s.matrix tile).inbox
  let out := c.tag :: gone.map (·.cmd.tag)
  let s := s.modMatrix tile fun m =>
    { (m.setTag c.tag { (m.tag c.tag) with fault := some eval }) with
      runs := m.runs.filter fun (q : MRun) => !out.contains q.cmd.tag, inbox := [], behind := m.behind ++ [(c.tag, 0)] }
  let s := cmds.foldl (fun s c => s.discard tile c) s
  (((s.once (.engineCommandStart (.matrix tile))).later (.engineFaultTaken (4 * c.msg.src + c.msg.ssn))).pokeTile tile).setEv
    (4 * c.msg.src + c.msg.ssn)

/-- ENGINE_FAULT_TAKEN (R279): the fault reaches its strand, which takes it at its next unit boundary; a strand BLOCKED in an MWAIT is
READY. -/
def execEngineFaultTaken (sid : Nat) (s : State) : Res :=
  let tile := sid / 8
  let s := if (s.strand sid).wait = .engine then s.wake sid else s
  .next (((s.matrix tile).behind.filter fun (t, _) => ((s.matrix tile).tag t).snum == sid % 4 &&
      !((s.strand sid).posted.any fun p => p.code.toNat == cEngineFault && p.acc == t + 1)).foldl (fun s (t, _) =>
    s.postAcc sid cEngineFault (((s.matrix tile).tag t).fault.getD 0) none (t + 1)) s)

/-- A strand takes the fault of a tag: EVAL with the number of commands discarded behind it, and the tag is free. -/
def State.takeFault (s : State) (tile t : Nat) : State × Word :=
  let m := s.matrix tile
  let n := match m.behind.find? fun q => q.1 == t with
    | some q => q.2
    | none => 0
  let eval := putField ((m.tag t).fault.getD 0) 24 8 n
  (s.modMatrix tile fun m => { (m.setTag t { (m.tag t) with used := false, fault := none }) with
    behind := m.behind.filter (fun q => q.1 != t), gone := if m.behind.all fun q => q.1 == t then [] else m.gone }, eval)

/-- Strand sid takes a posted cause; `r` are those left. Under a pre-empt the entry is its own (R269). -/
def State.takeCause (s : State) (sid : Nat) (p : Posted) (r : List Posted) : State :=
  let k := s.strand sid
  let s := s.modStrand sid fun k => { k with posted := r }
  let q := if p.code.toNat = cEngineFault && p.acc != 0 then s.takeFault (sid / 8) (p.acc - 1) else (s, p.eval)
  if k.preempt then q.1.trapOwn sid false p.code.toNat (p.epc.getD k.arch.pc) q.2
  else q.1.trapEntry sid false p.code.toNat (p.epc.getD k.arch.pc) q.2

/-! ## Accumulator rows (R219, R287) -/

/-- What a check of a place for accumulators finds. -/
inductive AccPlace where
  | ok
  | wrong
  | unmapped
  | refused
  deriving DecidableEq, Repr

/-- Does a command read its accumulators, and does it write them (R287, R290, R291)? -/
def readsAcc (c : MCmd) : Bool := c.op != .macz
def writesAcc (c : MCmd) : Bool := c.op != .mdrain || c.xb.getLsbD 7

/-- The 64 KiB region of a GVA begins here. -/
def regionStart (g : Word) : Word := BitVec.ofNat 64 (g.toNat / 2 ^ 16 * 2 ^ 16)

/-- The page that a command has checked for a GVA, and the place of the GVA in it. -/
def MRun.pageAt (r : MRun) (g : Word) : Option AccPage := r.pages.find? fun p => p.region == regionOf g
def MRun.placeAt (r : MRun) (g : Word) : Option Place := (r.pageAt g).map fun p => p.place.plus (g.toNat % 2 ^ 16)

/-- Check the region of a GVA for a command, once: a HOME = 10 page in the engine's tile, that may be read and written as the command
needs. -/
def State.accCheck (s : State) (tile : Nat) (r : MRun) (g : Word) : State × MRun × AccPlace :=
  let m := r.cmd.msg
  let at_ := fun (s : State) (wr : Bool) => s.resolve (tile / 16) m.asid m.wld wr (regionStart g)
  if (r.pageAt g).isSome then (s, r, .ok)
  else if isDevice g || s.barred (tile / 2048) (gvaDie g) then (s, r, .refused)
  else match at_ s (writesAcc r.cmd) with
    | (s, pg, .at_ p) =>
      if p.tileNo ≠ some tile then (s, r, .wrong)
      else
        let (s, _, f) := if r.cmd.op == .mdrain then at_ s false else (s, none, .at_ p)
        (match f with
         | .at_ _ => (s, { r with pages := r.pages ++ [{ region := regionOf g, place := p, page := pg }] }, .ok)
         | _ => (s, r, .refused))
    | (s, _, .unmapped) => (s, r, .unmapped)
    | (s, _, _) => (s, r, .refused)

/-- Check the rows of a region, each at its first and its last byte: the first place that is no accumulator, with its GVA and its row. -/
def State.checkRows (s : State) (tile : Nat) (r : MRun) (g : Word) (cp n : Nat) : List Nat → State × MRun × Option (AccPlace × Word × Nat)
  | [] => (s, r, none)
  | k :: l =>
    let a := g + BitVec.ofNat 64 (16 * cp * k)
    let z := lastByte a n
    match s.accCheck tile r a with
    | (s, r, .ok) => (match s.accCheck tile r z with
      | (s, r, .ok) => State.checkRows s tile r g cp n l
      | (s, r, p) => (s, r, some (p, regionStart z, k)))
    | (s, r, p) => (s, r, some (p, a, k))

/-- Check every group's region (R289): the first failing place with its group and its row. -/
def State.checkGroups (s : State) (tile : Nat) (r : MRun) (wide : Bool) : Nat → List MGroup → State × MRun × Option (AccPlace × Word × Nat × Nat)
  | _, [] => (s, r, none)
  | i, g :: l =>
    match s.checkRows tile r g.c g.cp (accBytes wide) (List.range g.m) with
    | (s, r, none) => State.checkGroups s tile r wide (i + 1) l
    | (s, r, some (p, a, m)) => (s, r, some (p, a, i, m))

/-- One write to a page of a command (R371). -/
def State.countOnce (s : State) (tile : Nat) (r : MRun) (pg : Option Page) : State × MRun :=
  match pg with
  | none => (s, r)
  | some p =>
    let key := (p.nominal * 2 ^ 40 + p.page) * 64 + p.size
    if r.seen.contains key then (s, r) else (s.countWrite r.cmd.msg.asid p (tile / 256 % 8), { r with seen := key :: r.seen })

/-- The writes of a row of n bytes are counted, in each page that it touches. -/
def State.countRow (s : State) (tile : Nat) (r : MRun) (a : Word) (n : Nat) : State × MRun :=
  let page := fun (r : MRun) (g : Word) => (r.pageAt g).bind AccPage.page
  let (s, r) := s.countOnce tile r (page r a)
  s.countOnce tile r (page r (lastByte a n))

/-- The 16-byte parts of a row of n bytes, none of which crosses a page. -/
def MRun.parts (r : MRun) (a : Word) (n : Nat) : List Place :=
  (List.range (n / 16)).filterMap fun i => r.placeAt (a + BitVec.ofNat 64 (16 * i))

/-- A row's bytes; it is zeroed; is any of it poisoned? -/
def State.readParts (s : State) (l : List Place) : Nat := l.foldr (fun p v => s.readAt p 16 + 2 ^ 128 * v) 0
def State.zeroParts (s : State) (l : List Place) : State := l.foldl (fun s p => s.writeAt p 16 0) s
def State.partsPoisoned (s : State) (l : List Place) : Bool := l.any fun p => s.poisoned p 16

/-- The matrix engine of a tile reaches places: beyond its own tile's SRAM, what it sends is checked by its generation (R382, R383). -/
def State.mspeaks (s : State) (tile : Nat) (l : List Place) (f : State → State) : State :=
  if l.all fun p => p.tileNo == some tile then f s else s.speaks (tile / 256) (0x300 + tile % 256) f

/-- Put a command that has started back. -/
def State.setRun (s : State) (tile : Nat) (r : MRun) : State :=
  s.modMatrix tile fun m => { m with runs := m.runs.map fun (q : MRun) => if q.cmd.tag = r.cmd.tag then r else q }

/-- A command waits at its start for an unmapped page (R374). -/
def State.holdRun (s : State) (tile : Nat) (r : MRun) (g : Word) (k : FaultKind) : State :=
  (s.setRun tile { r with waits := some g }).holdEv (4 * r.cmd.msg.src + r.cmd.msg.ssn) r.cmd.msg.asid g k
    (.engineCommandStart (.matrix tile))

/-- A place that is no accumulator stops the command, or holds it while a page is unmapped (R279, R374). -/
def State.accFail (s : State) (tile : Nat) (r : MRun) (p : AccPlace) (g : Word) (detail : Nat) : State :=
  match p with
  | .wrong => s.matrixFault tile r 0x07 detail
  | .unmapped => s.holdRun tile r g (if writesAcc r.cmd then .engineWrite else .engine)
  | _ => s.matrixFault tile r 0x08 (field g 0 32)

/-! ## Tokens (R293) -/

/-- Charge the bucket of the tile's cluster for the tile's engine. A charge of the engine that waits for another step holds this one
back. -/
def State.mcharge (s : State) (tile cost : Nat) (load : Bool) (f : State → State) : State :=
  let clu := tile / 16
  let req := 32 + tile % 16
  let key : Word := if load then 1 else 0
  if (s.cluster clu).charges.any fun (c : Charge) => c.req == req && c.pc != key then s.notYet
  else
    let r := (s.cluster clu).charge (s.clusterTime clu) req none key cost
    let s := s.setCluster clu r.1
    if r.2.isSome then f s else s.notYet

/-! ## The commands that have started (R272, R277) -/

/-- The current group. -/
def MRun.group (r : MRun) : MGroup := r.groups.getD r.g { m := 0, kb := 0, c := 0, cp := 0, sco := 0, wso := 0 }

/-- Is a command a panel load alone? -/
def loadOnly (c : MCmd) : Bool := c.op == .mwl || c.op == .mwls
/-- The commands that load a panel. -/
def loads (c : MCmd) : Bool := loadOnly c || c.op == .mgrp

/-- Groups from the i-th on that have no K block. -/
def emptyGroups (l : List MGroup) (i : Nat) : Nat := ((l.drop i).takeWhile fun (g : MGroup) => g.kb == 0).length

/-- Has a command a panel still to load? -/
def MRun.owesLoad (r : MRun) : Bool :=
  if loadOnly r.cmd then !r.latched
  else r.cmd.op == .mgrp && !r.done && (!r.tabled || !r.latched || r.kb + 1 < r.group.kb ||
    r.g + 1 + emptyGroups r.groups (r.g + 1) < r.groups.length)

/-- The command at work on rows: the oldest that is no panel load, and no MMA without rows (R277). -/
def Matrix.worker (m : Matrix) : Option MRun := m.runs.find? fun r => !loadOnly r.cmd && !(r.cmd.op == .mma && r.group.m == 0)

/-- The panels that commands of a list use. -/
def panelsUsed (l : List MRun) : List Nat := ((l.filter fun r => r.cmd.op == .mma || r.cmd.op == .mgrp).map MRun.panelNo).eraseDups

/-- The command whose panel load is next, in inbox order, once a buffer is free that no earlier unfinished command uses (R272). MGRP loads
while it is the command at work. -/
def Matrix.loader (m : Matrix) : Option MRun :=
  let older := m.runs.takeWhile fun r => !r.owesLoad
  match (m.runs.drop older.length).head? with
  | some r =>
    let ok := if loadOnly r.cmd then (panelsUsed older).length ≤ 1 else (m.worker.any fun w => w.cmd.tag == r.cmd.tag) && !r.latched && r.row.isNone
    if ok && r.begun && !r.done then some r else none
  | none => none

/-- A panel is latched: it is in force for its command and for every later one (R272). -/
def Matrix.latch (m : Matrix) (tag : Nat) (pal : Word) (panel : Nat) : Matrix :=
  let no := m.latches + 1
  let old := m.runs.takeWhile fun r => r.cmd.tag != tag
  { m with palette := pal, panel := panel, latches := no,
           runs := old ++ (m.runs.drop old.length).map fun r => { r with pal := pal, panel := panel, panelNo := no } }

/-- A command has come to its end: its tag completes. -/
def State.endRun (s : State) (tile : Nat) (r : MRun) : State :=
  (s.setRun tile { r with done := true }).once (.matrixTagComplete tile r.cmd.tag)

/-! ## Panels (R271, R283-R285) -/

/-- The ring, panel format and sparsity that a command loads from, and its weight scale. -/
def loadRing (c : MCmd) : Nat := if c.op = .mgrp then grpWr c.xb else field c.xa 36 3
def loadWf (c : MCmd) : Nat := if c.op = .mgrp then grpWf c.xb else field c.xa 32 4
def loadSp (c : MCmd) : Bool := if c.op = .mgrp then grpSp c.xb else c.op == .mwls

/-- The metadata nibble of group g of column n in a sparse slot (R284). -/
def metaNibble (panel n g : Nat) : Nat := panel / 2 ^ (8 * (4096 + 4 * (4 * n + g / 8))) / 2 ^ (4 * (g % 8)) % 16

/-- The first group that is not distinct and ascending, as 32n + g (R285). -/
def badGroup (panel : Nat) : Option Nat :=
  ((List.range 2048).find? fun i => let b := metaNibble panel (i / 32) (i % 32); b / 4 ≤ b % 4)

/-- An FP32 word in the engine's tile by tile offset. -/
def tileSram (tile off : Nat) : Place := .tile (tile / 256) (tile / 16 % 16) (tile % 16) off 6

/-- What follows a row, or a K block without rows: the next row, the next panel, or the completion (R287, R289). -/
def State.nextRow (s : State) (tile : Nat) (r : MRun) : State :=
  let g := r.group
  if r.m < g.m then (s.setRun tile r).once (.matrixRowEntry tile)
  else if r.cmd.op != .mgrp then s.endRun tile r
  else
    let r := if r.kb + 1 < g.kb then { r with kb := r.kb + 1, m := 0, latched := false }
      else { r with g := r.g + 1 + emptyGroups r.groups (r.g + 1), kb := 0, m := 0, latched := false }
    if r.g < r.groups.length then (s.setRun tile r).once (.matrixPanelLatch tile) else s.endRun tile r

/-- MATRIX_PANEL_LATCH (R277, R283-R285): the published head slot is read and latched, or faults. A poisoned weight scale of MGRP is POISON
with detail 0 (DESIGN CHOICE, log entry 85). -/
def execMatrixPanelLatch (tile : Nat) (s : State) : Res :=
  .next (match (s.matrix tile).loader with
  | none => s
  | some r =>
    let c := r.cmd
    let n := loadRing c
    let q := s.ring tile n
    let wf := loadWf c
    let sp := loadSp c
    if q.used = 0 then s.notYet
    else s.mcharge tile (panelTokens wf sp) true fun s =>
      let p := tileSram tile (q.slot q.head)
      let bytes := panelBytes wf sp
      let wsc := if c.op = .mgrp then s.readAt (tileSram tile (r.group.wso + 4 * r.kb)) 4 else field c.xa 0 32
      if s.poisoned p bytes || c.op == .mgrp && wf != 0 && s.poisoned (tileSram tile (r.group.wso + 4 * r.kb)) 4 then
        s.matrixFault tile r 0x10 0
      else
        let panel := s.readAt p bytes
        match if sp then badGroup panel else none with
        | some i => s.matrixFault tile r 0x03 i
        | none =>
          let pal := palette wsc n wf sp
          let s := ((s.setRun tile { r with latched := true }).modMatrix tile fun m => m.latch c.tag pal panel).ringPop tile n
          let s := s.once (.engineCommandStart (.matrix tile))
          let r := { r with latched := true, pal := pal, panel := panel, panelNo := (s.matrix tile).latches }
          if c.op != .mgrp then s.endRun tile r else s.nextRow tile r)

/-! ## Rows (R281, R287) -/

/-- The activation format and ring of MMA and MGRP; rows of a slot. -/
def rowRing (c : MCmd) : Nat := field c.xb 0 3
def rho (r : Ring) (bytes : Nat) : Nat := r.bytes / max 1 bytes

/-- The scale of a BQ row: none where its four codes differ (R287). -/
def bqScale (af row : Nat) : Option FScale :=
  let v := row / 2 ^ (8 * (if af = 12 then 128 else 64)) % 2 ^ 40
  let c := v % 1024
  if [1, 2, 3].all fun j => v / 2 ^ (10 * j) % 1024 == c then some (.s10 c) else none

/-- MATRIX_ROW_ENTRY (R277, R287): the next row enters the array once its slot is published and its tokens are charged. A poisoned
activation scale is POISON with detail m (DESIGN CHOICE, log entry 85). -/
def execMatrixRowEntry (tile : Nat) (s : State) : Res :=
  .next (match (s.matrix tile).worker with
  | none => s
  | some r =>
    let c := r.cmd
    let n := rowRing c
    let q := s.ring tile n
    let af := mmaAf c.xb
    let g := r.group
    if c.op != .mma && c.op != .mgrp || !r.begun || r.done || c.op == .mgrp && !r.latched || r.row.isSome || g.m ≤ r.m then s
    else if q.used = 0 then s.notYet
    else s.mcharge tile (rowTokens (palWf r.pal) (palSp r.pal)) false fun s =>
      let per := rho q (actBytes af)
      let p := tileSram tile (q.slot q.head + r.m % per * actBytes af)
      let sp := tileSram tile (g.sco + 4 * (r.kb * g.m + r.m))
      if s.poisoned p (actBytes af) || hasScales af && s.poisoned sp 4 then s.matrixFault tile r 0x10 r.m
      else
        let bytes := s.readAt p (actBytes af)
        let scale := if af = 12 ∨ af = 13 then bqScale af bytes
          else if af = 0 then some .none else some (.f32 (s.readAt sp 4))
        match scale with
        | none => s.matrixFault tile r 0x05 r.m
        | some sc =>
          let row : MRow := { m := r.m, bytes := bytes, scale := sc, pop := r.m % per == per - 1 || r.m + 1 == g.m }
          (s.setRun tile { r with row := some row }).once (.matrixRowAccumulate tile))

/-! ## One output element (R136-R138) -/

/-- Element i of packed elements of a format. -/
def packedElem (f : Fmt) (v i : Nat) : Nat := v / 2 ^ (f.width * i) % 2 ^ f.width

/-- The factors of output column n: activation and weight elements that the array multiplies (R271, R285). -/
def factors (wf af : Nat) (sp : Bool) (panel row n : Nat) : List (Nat × Nat) :=
  let w := codeFmt wf
  let a := codeFmt af
  if sp then
    (List.range 64).map fun s =>
      let b := metaNibble panel n (s / 2)
      (packedElem a row (4 * (s / 2) + (if s % 2 = 0 then b % 4 else b / 4)), packedElem w panel (64 * s + n))
  else (List.range (panelK wf)).map fun k => (packedElem a row k, packedElem w panel (k * panelN wf + n))

/-- The exact sum of products (R136 step 1, R137). -/
def blockSum (a w : Fmt) : List (Nat × Nat) → FVal × Fl
  | [] => (.fin false 0 0, 0)
  | (x, y) :: r =>
    let one := fun (x y : Nat) =>
      let p := FVal.mul (a.val x) (w.val y)
      (p.1, if p.1.isNan then Fl.nv else p.2)
    r.foldl (fun acc (x, y) =>
      let p := one x y
      let t := FVal.add .rne acc.1 p.1
      (t.1, acc.2 ||| p.2 ||| t.2)) (one x y)

/-- The value of an activation scale. The S10 code 0x3FF is a quiet NaN, which raises nothing (R137; DESIGN CHOICE, log entry 74). -/
def scaleOf : FScale → FVal
  | .none => .fin false 1 0
  | .f32 b => Fmt.f32.val b
  | .s10 c => if c = 0 then .fin false 0 0 else if c = 0x3FF then .nan false else
      let v := scaleVal c
      .fin false v.1 v.2

/-- The new accumulator element (R136, R138). -/
def accumulate (wf af : Nat) (sp : Bool) (panel row n wsc : Nat) (sc : FScale) (old : Nat) : FRes :=
  let sum := blockSum (codeFmt af) (codeFmt wf) (factors wf af sp panel row n)
  if wf = 0 then
    let p := Fmt.f64.finish .rne sum
    let r := fAdd .f64 .rne old p.1
    (r.1, r.2 ||| p.2)
  else
    let p := Fmt.f32.finish .rne sum
    let t := FVal.mul (Fmt.f32.val p.1) (scaleOf sc)
    let u := FVal.mul t.1 (Fmt.f32.val wsc)
    let q := Fmt.f32.finish .rne (u.1, u.2 ||| t.2)
    let r := fAdd .f32 .rne old q.1
    (r.1, r.2 ||| q.2 ||| p.2)

/-- Accumulate elements n.. of a row that starts at a; a poisoned granule stops it (R287): the flags, and whether it stopped. -/
def State.accRow (s : State) (r : MRun) (row : MRow) (a : Word) (fl : Fl) : List Nat → State × Fl × Bool
  | [] => (s, fl, false)
  | n :: rest =>
    let wf := palWf r.pal
    let b := if wf = 0 then 8 else 4
    match r.placeAt (a + BitVec.ofNat 64 (b * n)) with
    | none => State.accRow s r row a fl rest
    | some q =>
      if s.poisoned q b then (s, fl, true)
      else
        let v := accumulate wf (mmaAf r.cmd.xb) (palSp r.pal) r.panel row.bytes n (field r.pal 32 32) row.scale (s.readAt q b)
        State.accRow (s.writeAt q b v.1) r row a (fl ||| v.2) rest

/-- MATRIX_ROW_ACCUMULATE (R277, R287): the row's products are added into its accumulators, and its slot may be popped. -/
def execMatrixRowAccumulate (tile : Nat) (s : State) : Res :=
  .next (match (s.matrix tile).worker with
  | none => s
  | some r =>
    match r.row with
    | none => s
    | some row =>
      let g := r.group
      let a := g.c + BitVec.ofNat 64 (16 * g.cp * row.m)
      let n := accBytes (palWf r.pal == 0)
      s.mspeaks tile (r.parts a n) fun s =>
      let (s, r) := s.countRow tile r a n
      let (s, fl, stop) := s.accRow r row a 0 (List.range (panelN (palWf r.pal)))
      let r := { r with flags := r.flags ||| fl, row := none, m := row.m + 1 }
      if stop then s.matrixFault tile r 0x10 row.m
      else (if row.pop then s.ringPop tile (rowRing r.cmd) else s).nextRow tile r)

/-! ## MACZ and MDRAIN (R290, R291) -/

/-- One row of MDRAIN in its output format, with flags (R291). -/
def drainElems (of_ osc row : Nat) : Nat × Fl :=
  let f := codeFmt of_
  let src := if of_ = 0 then Fmt.f64 else Fmt.f32
  (List.range (panelN of_)).foldr (fun n acc =>
    let r := f.finish .rne (FVal.mul (src.val (packedElem src row n)) (Fmt.f32.val osc))
    (r.1 % 2 ^ f.width + 2 ^ f.width * acc.1, acc.2 ||| r.2)) (0, 0)

/-- The next row of MACZ or MDRAIN, or the completion. -/
def State.nextDrain (s : State) (tile : Nat) (r : MRun) : State :=
  if r.m < r.group.m then (s.setRun tile r).once (.drainRow tile) else s.endRun tile r

/-- MDRAIN publishes a slot (R282). -/
def State.publish (s : State) (tile n : Nat) : State :=
  let q := s.ring tile n
  s.setRing tile n { q with tail := q.tail + 1 }

/-- DRAIN_ROW (R277, R290, R291): MACZ, once its tokens are charged, zeroes a row; MDRAIN converts one into its destination slot. -/
def execDrainRow (tile : Nat) (s : State) : Res :=
  .next (match (s.matrix tile).worker with
  | none => s
  | some r =>
    let c := r.cmd
    let g := r.group
    let n := accBytes (wideRows c)
    let a := g.c + BitVec.ofNat 64 (16 * g.cp * r.m)
    let l := r.parts a n
    if c.op != .macz && c.op != .mdrain || !r.begun || r.done || g.m ≤ r.m then s
    else s.mspeaks tile l fun s =>
    if c.op = .macz then
      let zero := fun (s : State) =>
        let (s, r) := s.countRow tile { r with paid := true } a n
        (s.zeroParts l).nextDrain tile { r with m := r.m + 1 }
      if r.paid then zero s else s.mcharge tile ((g.m * n + 1023) / 1024) false zero
    else
      let k := field c.xb 0 3
      let q := s.ring tile k
      let of_ := mmaAf c.xb
      let per := rho q (outBytes of_)
      if r.m % per = 0 ∧ q.slots ≤ q.used then s.notYet
      else s.mcharge tile 1 false fun s =>
        if s.partsPoisoned l then s.matrixFault tile r 0x10 r.m
        else
          let out := drainElems of_ (field c.xb 32 32) (s.readParts l)
          let s := s.writeAt (tileSram tile (q.slot q.tail + r.m % per * outBytes of_)) (outBytes of_) out.1
          let (s, r) := if writesAcc c then
              let t := s.countRow tile r a n
              (t.1.zeroParts l, t.2) else (s, r)
          let s := if r.m % per = per - 1 ∨ r.m + 1 = g.m then s.publish tile k else s
          s.nextDrain tile { r with m := r.m + 1, flags := r.flags ||| out.2 })

/-! ## The start of a matrix command -/

/-- A command that starts, with the panel in force. -/
def newRun (c : MCmd) (mx : Matrix) : MRun :=
  { cmd := c, groups := if c.op = .mgrp then [] else [regionGroup c], g := 0, kb := 0, m := 0, tabled := c.op != .mgrp, begun := false,
    latched := false, paid := false, done := false, pal := mx.palette, panel := mx.panel, panelNo := mx.latches, row := none, flags := 0,
    seen := [], pages := [], waits := none }

/-- The record k of a group table (R288). -/
def groupRec (v k : Nat) : MGroup :=
  let w := fun (o n : Nat) => v / 2 ^ (8 * (32 * k + o)) % 2 ^ (8 * n)
  { m := w 0 4, kb := w 4 2, c := BitVec.ofNat 64 (w 8 8), cp := w 16 4 / 16, sco := w 20 4, wso := w 24 4 }

/-- Does record k keep the limits of R288? -/
def groupOk (wf af v k : Nat) : Bool :=
  let w := fun (o n : Nat) => v / 2 ^ (8 * (32 * k + o)) % 2 ^ (8 * n)
  let c : Word := BitVec.ofNat 64 (w 8 8)
  w 0 4 ≤ 4095 && w 4 2 ≤ 64 && w 6 2 == 0 && c.toNat % 16 == 0 && !isDevice c && w 16 4 % 16 == 0 &&
    (if wf = 0 then 128 else 256) ≤ w 16 4 &&
    (if hasScales af then w 20 4 % 4 == 0 && w 20 4 + 4 * w 0 4 * w 4 2 ≤ 0x100000 else w 20 4 == 0) &&
    (if wf = 0 then w 24 4 == 0 else w 24 4 % 4 == 0 && w 24 4 + 4 * w 4 2 ≤ 0x100000) && w 28 4 == 0

/-- Is a ring set up with slots of at least n bytes? -/
def State.ringFits (s : State) (tile k n : Nat) : Bool := (s.ring tile k).v && n ≤ (s.ring tile k).bytes

/-- The ring of a command that is not set up or too short (R279, 0x0002). -/
def State.badRing (s : State) (tile : Nat) (c : MCmd) : Option Nat :=
  let load := if loads c && !s.ringFits tile (loadRing c) (panelBytes (loadWf c) (loadSp c)) then some (loadRing c) else none
  let rows := fun (n : Nat) => if s.ringFits tile (rowRing c) n then none else some (rowRing c)
  match c.op with
  | .mma => rows (actBytes (mmaAf c.xb))
  | .mgrp => (match load with | some k => some k | none => rows (actBytes (mmaAf c.xb)))
  | .mdrain => rows (outBytes (mmaAf c.xb))
  | .macz => none
  | _ => load

/-- A command is past its checks. -/
def MRun.begin (r : MRun) : MRun := { r with begun := true }

/-- The checks of a command that has one region, in the order Palette, ring, pages (DESIGN CHOICE, log entry 69), and its
first step. -/
def State.beginRegion (s : State) (tile : Nat) (r : MRun) (step : Ev) : State :=
  let c := r.cmd
  if r.group.m = 0 then s.endRun tile r.begin
  else if c.op == .mma && (!palValid r.pal || !permitted (palWf r.pal) (palSp r.pal) (mmaAf c.xb)) then s.matrixFault tile r 0x04 0
  else match s.badRing tile c with
    | some k => s.matrixFault tile r 0x02 k
    | none => match s.checkGroups tile r (wideRows c) 0 r.groups with
      | (s, r, none) => (s.setRun tile r.begin).once step
      | (s, r, some (p, a, _, m)) => s.accFail tile r p a m

/-- MGRP registers its groups' ranges, checks their pages, and goes on to its first panel (R289). With no K block it loads nothing and asks
for no ring (DESIGN CHOICE, log entry 69). -/
def State.beginGroups (s : State) (tile : Nat) (r : MRun) : State :=
  let c := r.cmd
  let wide := grpWf c.xb == 0
  let lead := emptyGroups r.groups 0
  match s.checkGroups tile r wide 0 r.groups with
  | (s, r, some (p, a, i, _)) => s.accFail tile r p a i
  | (s, r, none) =>
    let r := { r.begin with g := lead }
    if lead = r.groups.length then s.endRun tile r
    else match s.badRing tile c with
      | some k => s.matrixFault tile r 0x02 k
      | none => (s.setRun tile r).once (.matrixPanelLatch tile)

/-- MGRP reads its table, once (R289), and registers its groups' ranges; a full lock table holds it. A poisoned granule of the table is
POISON with detail 0 (DESIGN CHOICE, log entry 85). -/
def State.readTable (s : State) (tile : Nat) (r : MRun) : State :=
  let c := r.cmd
  let n := grpN c.xb
  match s.hwLoad (tile / 16) c.msg.asid c.msg.wld (pieces c.xa (32 * n)) with
  | (s, .value v) =>
    (match (List.range n).find? fun k => !groupOk (grpWf c.xb) (mmaAf c.xb) v k with
     | some k => s.matrixFault tile r 0x06 k
     | none => (s.setRun tile { r with groups := (List.range n).map (groupRec v), tabled := true }).notYet)
  | (s, .unmapped g) => s.holdRun tile r g .engine
  | (s, .poison _) => s.matrixFault tile r 0x10 0
  | (s, .wait) => s.notYet
  | (s, .denied g) => s.matrixFault tile r 0x08 (field g 0 32)

/-- The ranges of MGRP's groups stand in the lock table, in a number of its entries beyond the table's own. -/
def State.groupsLocked (s : State) (tile : Nat) (r : MRun) : Bool :=
  let rs := r.groups.flatMap (groupRange (grpWf r.cmd.xb == 0) true)
  rs.isEmpty || (s.tile tile).locks.any fun (_, l) => l.key == r.cmd.msg.seq && l.dst

/-- A command that has started goes through its checks once what its strand issued before it, and earlier accesses to its ranges, are
performed (R239, R240). -/
def State.matrixBegin (s : State) (tile : Nat) (r : MRun) : State :=
  let c := r.cmd
  if s.msgOwes c.msg || s.locksBusy tile c.msg.seq then s.notYet
  else match c.op with
  | .mma => s.beginRegion tile r (.matrixRowEntry tile)
  | .macz => s.beginRegion tile r (.drainRow tile)
  | .mdrain => s.beginRegion tile r (.drainRow tile)
  | .mgrp =>
    if !r.tabled then s.readTable tile r
    else if s.groupsLocked tile r then s.beginGroups tile r
    else match s.lockRanges tile 1 c.tag c.msg.src c.msg.seq (r.groups.flatMap (groupRange (grpWf c.xb == 0) true)) with
      | none => s.notYet
      | some s => if s.locksBusy tile c.msg.seq then s.notYet else s.beginGroups tile r
  | _ => (match s.badRing tile c with
    | some k => s.matrixFault tile r 0x02 k
    | none => (s.setRun tile r.begin).once (.matrixPanelLatch tile))

/-- May a command that has started go through its checks: a panel load, MGRP or an MMA without rows at once; MACZ and MDRAIN once it is the
oldest at work, an MMA besides once every panel before it is latched (R272, R277)? -/
def Matrix.mayBegin (m : Matrix) (r : MRun) : Bool :=
  !r.begun && !r.done && r.waits.isNone &&
    (loads r.cmd || r.cmd.op == .mma && r.group.m == 0 || (m.worker.any fun w => w.cmd.tag == r.cmd.tag) &&
      (r.cmd.op != .mma || (m.runs.takeWhile fun q => q.cmd.tag != r.cmd.tag).all fun q => !q.owesLoad))

/-- Commands that have started go on to their checks, the oldest first, and steps that wait for a panel or a buffer are tried again. -/
def State.matrixAdvance (s : State) (tile : Nat) : State :=
  let go := fun (s : State) (c : MCmd) =>
    match (s.matrix tile).runs.find? fun r => r.cmd.tag == c.tag with
    | some r => if (s.matrix tile).mayBegin r then s.matrixBegin tile r else s
    | none => s
  let s := ((s.matrix tile).runs.map (·.cmd)).foldl go s
  if (s.matrix tile).loader.isSome then s.once (.matrixPanelLatch tile) else s

/-- The head command of a matrix engine starts, is discarded, or waits (R277, R340), and those that have started go on. -/
def State.matrixStart (s : State) (tile : Nat) : State :=
  let e := Ev.engineCommandStart (.matrix tile)
  let s := if s.isHeld (· == e) then s
    else s.modMatrix tile fun m => { m with runs := m.runs.map fun (r : MRun) => { r with waits := none } }
  let mx := s.matrix tile
  match mx.inbox with
  | [] => s.matrixAdvance tile
  | c :: rest =>
    let sid := 4 * c.msg.src + c.msg.ssn
    let again := fun (s : State) => if rest.isEmpty then s else s.once e
    match (s.strand sid).verdict c.msg.seq with
    | none => (s.matrixAdvance tile).notYet
    | some false => again ((s.modMatrix tile fun m => { m with inbox := rest }).tagDone tile c)
    | some true =>
      match s.lockHead tile 1 c.tag c.msg.src c.msg.seq (mcmdRanges c) with
      | none => (s.matrixAdvance tile).notYet
      | some s =>
        let s := s.modStrand sid fun k => k.dropGuard c.msg.seq
        again ((s.modMatrix tile fun m => { m with inbox := rest, runs := m.runs ++ [newRun c m] }).matrixAdvance tile |>.pokeTile tile)

/-- MATRIX_TAG_COMPLETE (R278): the tag of a command that has come to its end completes as performed. -/
def execMatrixTagComplete (tile tag : Nat) (s : State) : Res :=
  .next (match (s.matrix tile).runs.find? fun r => r.cmd.tag == tag && r.done with
  | some r =>
    let s := s.modMatrix tile fun m => { m with runs := m.runs.filter fun (q : MRun) => q.cmd.tag != tag }
    ((s.reportFlags (tile / 16) r.flags).tagDone tile r.cmd).once (.engineCommandStart (.matrix tile))
  | none => s)

/-! ## Ring stalls on pre-emption (R297) -/

/-- Can no RINGA of a job arrive any more: every strand is HELD, OFF, or DORMANT without a message, and no message of the job is
on its way? -/
def State.jobStill (s : State) (b : Job) : Bool :=
  (b.cores.all fun e => [0, 1, 2, 3].all fun i =>
    let k := s.strand (4 * e + i)
    k.st == .held || k.st == .off || k.st == .dormant && (s.core e).swq.isEmpty) &&
  !(s.flight.any fun e => match e with
    | .engineCommand _ => false
    | e => (match evMsg e with
      | some m => b.cores.contains m.src || b.cores.contains m.dest
      | none => false))

/-- Where a command that is past its checks waits on a ring, as the detail of R297; `load` where it waits for its panel. -/
def State.ringWait (s : State) (tile : Nat) (r : MRun) (load : Bool) : Option Nat :=
  let c := r.cmd
  let at_ := r.g + r.kb * 2 ^ 8 + r.m * 2 ^ 16
  if !r.begun || r.done then none
  else if load then
    (if (s.ring tile (loadRing c)).used = 0 then some ((if c.op = .mgrp then r.g + r.kb * 2 ^ 8 else 0) + 2 ^ 31) else none)
  else match c.op with
    | .mma => if r.row.isNone && (s.ring tile (rowRing c)).used = 0 then some r.m else none
    | .mgrp => if r.latched && r.row.isNone && (s.ring tile (rowRing c)).used = 0 then some at_ else none
    | .mdrain =>
      let q := s.ring tile (rowRing c)
      if r.m % rho q (outBytes (mmaAf c.xb)) = 0 ∧ q.slots ≤ q.used then some r.m else none
    | _ => none

/-- RING_STALL_STOP (R297): a command of a pre-empted job that waits on a ring is stopped, a panel load before the command whose rows
wait (DESIGN CHOICE, log entry 69). -/
def execRingStallStop (tile : Nat) (s : State) : Res :=
  let mx := s.matrix tile
  .next (match s.jobOf (2 * tile + 1) with
  | some b =>
    if b.preempt && s.jobStill b then
      match mx.loader.bind fun r => (s.ringWait tile r true).map (r, ·) with
      | some (r, d) => s.matrixFault tile r 0x09 d
      | none => match mx.worker.bind fun r => (s.ringWait tile r false).map (r, ·) with
        | some (r, d) => s.matrixFault tile r 0x09 d
        | none => s
    else s
  | none => s)

/-- The service refuses a page that a matrix command waits for (R279). -/
def State.refuseMatrix (s : State) (tile : Nat) (g : Word) : State :=
  match (s.matrix tile).runs.find? fun r => r.waits.any fun w => regionOf w == regionOf g with
  | some r => s.matrixFault tile r 0x08 (field g 0 32)
  | none => s

/-! ## Arrival and start at every engine (R340) -/

/-- A matrix command enters its inbox, or is discarded behind a fault (R279). -/
def State.matrixArrive (s : State) (tile : Nat) (m : Msg) : State :=
  let c := mcmdOf m
  let mx := s.matrix tile
  if !mx.behind.isEmpty then s.discard tile c
  else if 16 ≤ mx.inbox.length then s.notYet
  else (s.modMatrix tile fun k => { k with inbox := k.inbox ++ [c] }).once (.engineCommandStart (.matrix tile))

/-- ENGINE_COMMAND (R340): a command arrives at its inbox, or waits at the gateway while the inbox is full. Only the compute core
reaches the matrix engine (R28). -/
def execEngineCommand (m : Msg) (s : State) : Res :=
  .next (s.arrive m false fun s =>
    match engOf (field m.ha 8 4) m.dest with
    | none => s.refuse m
    | some (.matrix t) => if m.src != 2 * t + 1 then s.refuse m else s.matrixArrive t m
    | some e =>
      let g := s.engine e
      if 16 ≤ g.inbox.length then s.notYet
      else (s.setEngine e { g with inbox := g.inbox ++ [m] }).once (.engineCommandStart e))

/-- ENGINE_COMMAND_START (R340). -/
def execEngineCommandStart (e : EngRef) (s : State) : Res :=
  .next (match e with
  | .matrix t => s.matrixStart t
  | _ => s.commandStart e)

end Sys2Proof.Machine
end

