-- ==== Sys2Proof/Machine/ScalarFp.lean ====
section
/-!
DEFINITION. Scalar floating-point instructions (R87-R96).
-/
namespace Sys2Proof.Machine

open Sys2Proof

/-- A source is read from the low bits of its register alone (R87). -/
def State.fp (s : State) (f : Fmt) (r : XReg) : Nat := (s.rx r).toNat % 2 ^ f.width

/-- The result of a fixed-latency unit with its flags (R87, R90). -/
def State.fres (s : State) (d : XReg) (r : FRes) (lat : Nat) : State :=
  (s.wx d (BitVec.ofNat 64 r.1) lat).wflags r.2 lat true

/-- Cycles until FDIV or FSQRT lands: a free value of at most 24 for F64 and 14 for the others (R91; log entry 11). -/
def fdivLatency (f : Fmt) (a b : Word) : Nat := 1 + Config.fdivTime a b % (if f.width = 64 then 24 else 14)

/-- A scoreboarded result with its flags. -/
def State.fresSb (s : State) (d : XReg) (r : FRes) (lat : Nat) : State :=
  (s.wxs d (BitVec.ofNat 64 r.1) lat).wflags r.2 lat false

/-- FADD (R91). -/
def execFadd (d a b : XReg) (rm : Rm) (fs : Fs) (s : State) : Res :=
  .next (s.fres d (fAdd (fsFmt fs) (s.arch.round rm) (s.fp (fsFmt fs) a) (s.fp (fsFmt fs) b)) 4)

/-- FSUB (R91). -/
def execFsub (d a b : XReg) (rm : Rm) (fs : Fs) (s : State) : Res :=
  .next (s.fres d (fSub (fsFmt fs) (s.arch.round rm) (s.fp (fsFmt fs) a) (s.fp (fsFmt fs) b)) 4)

/-- FMUL (R91). -/
def execFmul (d a b : XReg) (rm : Rm) (fs : Fs) (s : State) : Res :=
  .next (s.fres d (fMul (fsFmt fs) (s.arch.round rm) (s.fp (fsFmt fs) a) (s.fp (fsFmt fs) b)) 4)

/-- FDIV (R91): scoreboarded. -/
def execFdiv (d a b : XReg) (rm : Rm) (fs : Fs) (s : State) : Res :=
  .next (s.fresSb d (fDiv (fsFmt fs) (s.arch.round rm) (s.fp (fsFmt fs) a) (s.fp (fsFmt fs) b)) (fdivLatency (fsFmt fs) (s.rx a) (s.rx b)))

/-- FMIN (R92). -/
def execFmin (d a b : XReg) (fs : Fs) (s : State) : Res :=
  .next (s.fres d (fMinMax (fsFmt fs) false (s.fp (fsFmt fs) a) (s.fp (fsFmt fs) b)) 4)

/-- FMAX (R92). -/
def execFmax (d a b : XReg) (fs : Fs) (s : State) : Res :=
  .next (s.fres d (fMinMax (fsFmt fs) true (s.fp (fsFmt fs) a) (s.fp (fsFmt fs) b)) 4)

/-- FSQRT (R91): scoreboarded. -/
def execFsqrt (d a : XReg) (rm : Rm) (fs : Fs) (s : State) : Res :=
  .next (s.fresSb d (fSqrt (fsFmt fs) (s.arch.round rm) (s.fp (fsFmt fs) a)) (fdivLatency (fsFmt fs) (s.rx a) 0))

/-- FCLASS (R94). -/
def execFclass (d a : XReg) (fs : Fs) (s : State) : Res :=
  .next (s.fres d (fClass (fsFmt fs) (s.fp (fsFmt fs) a), 0) 4)

/-- FFMA (R91). -/
def execFfma (d a b c : XReg) (rm : Rm) (single0 : Bool) (s : State) : Res :=
  let f := single single0
  .next (s.fres d (fFma f (s.arch.round rm) false (s.fp f a) (s.fp f b) (s.fp f c)) 4)

/-- FCMP (R93). -/
def execFcmp (cc : FCc) (d a b : XReg) (fs : Fs) (s : State) : Res :=
  let r := fCmp (fsFmt fs) cc (s.fp (fsFmt fs) a) (s.fp (fsFmt fs) b)
  .next (s.fres d ((boolWord r.1).toNat, r.2) 4)

/-- A type of FCVT as a float format or an integer range and width (R49, R95). -/
def ctFloat : Ct → Option Fmt
  | .f64 => some .f64 | .f32 => some .f32 | .f16 => some .f16 | .bf16 => some .bf16 | _ => none

def ctRange : Ct → Int × Int
  | .i64 => (-2 ^ 63, 2 ^ 63 - 1)
  | .u64 => (0, 2 ^ 64 - 1)
  | .i32 => (-2 ^ 31, 2 ^ 31 - 1)
  | _ => (0, 2 ^ 32 - 1)

/-- An integer source as its type reads it (R95). -/
def ctInt (c : Ct) (w : Word) : Int :=
  match c with
  | .i64 => w.toInt
  | .u64 => w.toNat
  | .i32 => (w.setWidth 32).toInt
  | _ => (w.setWidth 32).toNat

/-- The conversion of FCVT (R95): an I32 result is sign-extended, a U32 result zero-extended. -/
def fcvt (dt st : Ct) (rm : Rm) (w : Word) : Word × Fl :=
  match ctFloat dt, ctFloat st with
  | some df, some sf => let r := fToF sf df rm (w.toNat % 2 ^ sf.width); (BitVec.ofNat 64 r.1, r.2)
  | some df, none => let r := fOfInt df rm (ctInt st w); (BitVec.ofNat 64 r.1, r.2)
  | none, some sf => let r := fToInt sf rm (ctRange dt).1 (ctRange dt).2 (w.toNat % 2 ^ sf.width); (BitVec.ofInt 64 r.1, r.2)
  | none, none => let r := satInt (ctRange dt).1 (ctRange dt).2 (ctInt st w); (BitVec.ofInt 64 r.1, r.2)

/-- FCVT (R95). -/
def execFcvt (d a : XReg) (dt st : Ct) (rm : Rm) (s : State) : Res :=
  let r := fcvt dt st (s.arch.round rm) (s.rx a)
  .next (s.fres d (r.1.toNat, r.2) 4)

/-- FSIN (R96). -/
def execFsin (d a : XReg) (single0 : Bool) (s : State) : Res :=
  let f := single single0
  .next (s.fres d (fTrig f false (s.fp f a)) 8)

/-- FCOS (R96). -/
def execFcos (d a : XReg) (single0 : Bool) (s : State) : Res :=
  let f := single single0
  .next (s.fres d (fTrig f true (s.fp f a)) 8)

/-- FEXP2 (R96). -/
def execFexp2 (d a : XReg) (single0 : Bool) (s : State) : Res :=
  let f := single single0
  .next (s.fres d (fExp2 f (s.fp f a)) 8)

/-- FLOG2 (R96). -/
def execFlog2 (d a : XReg) (single0 : Bool) (s : State) : Res :=
  let f := single single0
  .next (s.fres d (fLog2 f (s.fp f a)) 8)

/-- FRCP (R96). -/
def execFrcp (d a : XReg) (single0 : Bool) (s : State) : Res :=
  let f := single single0
  .next (s.fres d (fRcp f (s.fp f a)) 8)

/-- FRSQ (R96). -/
def execFrsq (d a : XReg) (single0 : Bool) (s : State) : Res :=
  let f := single single0
  .next (s.fres d (fRsq f (s.fp f a)) 8)

end Sys2Proof.Machine
end

