-- ==== Sys2Proof/Machine/Agent.lean ====
section
/-!
DEFINITION. The table agent (R366-R384, R404): faults and their service, its commands, page moves, agents' generations, the
world table's hardware copy; and encodings that mean nothing.
-/
namespace Sys2Proof.Machine

open Sys2Proof

/-! ## Opening a fault (R374) -/

/-- Does a piece touch a 64 KiB region? -/
def pieceIn (r : Nat) (p : Piece) : Bool := regionOf p.gva == r || regionOf (p.gva + BitVec.ofNat 64 (p.len - 1)) == r

/-- Is a strand HELD at a page of the region: at its fetch, or at a reading of its unit? -/
def heldIn (r : Nat) (k : Strand) : Bool := k.st == .held && (match k.why with
  | .fetch => regionOf k.arch.pc == r
  | .unit g => regionOf g == r
  | _ => false)

/-- Does the core still wait for the region's page? -/
def State.awaits (s : State) (eid : Nat) (asid : BitVec 16) (r : Nat) : Bool :=
  let c := s.core eid
  c.side.any (fun (e : SideEntry) => e.asid == asid && regionOf e.line == r) ||
    (c.asid == asid && [0, 1, 2, 3].any fun i => heldIn r (s.strand (4 * eid + i)))

/-- KIND of a side-log entry (R356). -/
def sideKind (e : SideEntry) : Nat := if e.red.isSome then 2 else if e.rel then 1 else 0

def faultCode : FaultKind → Nat
  | .load => 0 | .atomic => 0 | .store => 1 | .engine => 2 | .engineWrite => 2 | .table => 3 | .host => 4

def faultWrites : FaultKind → Bool
  | .atomic => true | .store => true | .engineWrite => true
  | _ => false

/-- Post a word to the EXTERNAL line of a die's fault-service strand (R368). -/
def State.toService (s : State) (d : Nat) (w : Word) : State :=
  s.postExternal (field (s.hbm64 d (TA + 0x10)) 0 24 % 2 ^ 22 * 4 + field (s.hbm64 d (TA + 0x10)) 22 2) w

/-- The place of fault record n (R367). -/
def recordAt (n : Nat) : Nat := TA + 0x8000 + 32 * (n % 1024)

/-- Write a fault record at FTAIL and notify the service. -/
def State.record (s : State) (sid : Nat) (asid : BitVec 16) (gva : Word) (k : FaultKind) : State :=
  let d := gvaDie gva
  let n := s.hbm64 d (TA + 0x18)
  let old := (s.core (sid / 4)).side.find? fun (e : SideEntry) => e.asid == asid && regionOf e.line == regionOf gva
  let put := fun (s : State) (i : Nat) (w : Word) => s.setHbm64 d (recordAt n.toNat + 8 * i) w
  let s := put s 0 ((gva &&& ~~~(0xFFFF : Word)) + asid.zeroExtend 64)
  let s := put s 1 (BitVec.ofNat 64 (sid / 4 + sid % 4 * 2 ^ 22 + faultCode k * 2 ^ 24 + (if faultWrites k then 2 ^ 28 else 0)))
  let s := put s 2 (match old with | some e => e.line | none => 0)
  let s := put s 3 (match old with | some e => BitVec.ofNat 64 (sideKind e) | none => 0)
  let s := s.setHbm64 d (TA + 0x18) (n + 1)
  if (s.hbm64 d (TA + 0x10)).getLsbD 63 then s.toService d 1 else s

/-- The cores that the machine holds. -/
def State.eids (s : State) : List Nat := s.cores.map fun c => c.1

/-- Does a request still wait for the page of an open fault: a held step, a side-log entry, or a HELD strand? -/
def State.wanted (s : State) (f : OpenFault) : Bool := !f.held.isEmpty || s.eids.any fun eid => s.awaits eid f.asid f.region

/-- The ASID of a request that opens a fault: that of the steps held for a record, of the core's side-log entry, or else of its job. -/
def State.faultAsid (s : State) (eid : Nat) (g : Word) : BitVec 16 :=
  match (s.die (gvaDie g)).faults.find? fun (f : OpenFault) => f.region == regionOf g && f.num.isNone with
  | some f => f.asid
  | none => match (s.core eid).side.find? fun (e : SideEntry) => regionOf e.line == regionOf g with
    | some e => e.asid
    | none => (s.core eid).asid

/-- FAULT_OPEN (R374): a request that met an unmapped page opens a fault, or joins the open one; no record is written for requests that have
all been killed. With 1024 records unconsumed it waits in the agent. -/
def execFaultOpen (sid : Nat) (gva : Word) (k : FaultKind) (s : State) : Res :=
  let d := gvaDie gva
  let asid := s.faultAsid (sid / 4) gva
  let r := regionOf gva
  let old := (s.die d).faults.find? (OpenFault.isFor asid r)
  let num := s.hbm64 d (TA + 0x18)
  .next (
    if (match old with | some f => f.num.isSome || !s.wanted f | none => !s.awaits (sid / 4) asid r) then s
    else if 1024 ≤ (num - s.hbm64 d (TA + 0x20)).toNat then s.notYet
    else
      let f : OpenFault := { num := some num.toNat, asid := asid, region := r, held := match old with | some f => f.held | none => [] }
      (s.modDie d fun t => { t with faults := (t.faults.filter fun (o : OpenFault) => !o.isFor asid r) ++ [f] }).record sid asid gva k)

/-! ## The service's answer (R264, R268, R376) -/

/-- A step held by a fault goes on. -/
def State.letGo (s : State) (e : Ev) : State :=
  let s := match e with
    | .accessPerformed eid id => s.modCore eid fun c =>
        { c with accs := c.accs.map fun (a : Acc) => if a.id = id then { a with held := false } else a }
    | _ => s
  s.later e

/-- The strands of an ASID that are HELD at the region become READY; `f` says what else befalls each. -/
def State.freeHeld (s : State) (asid : BitVec 16) (r : Nat) (f : Strand → Strand) : State :=
  s.eids.foldl (fun s eid =>
    if (s.core eid).asid != asid then s
    else [0, 1, 2, 3].foldl (fun s i =>
      let sid := 4 * eid + i
      if heldIn r (s.strand sid) then s.modStrand sid fun k => (f k).makeReady (s.cycleOf sid) else s) s) s

/-- The page is mapped: held requests go on in arrival order, and side logs are replayed. -/
def State.faultMapped (s : State) (d : Nat) (f : OpenFault) : State :=
  let s := s.modDie d fun t => { t with faults := t.faults.filter fun (o : OpenFault) => !o.isFor f.asid f.region }
  let s := (f.held.foldl (fun s q => s.letGo q.2) s).freeHeld f.asid f.region id
  s.eids.foldl (fun s eid =>
    if (s.core eid).side.any fun (e : SideEntry) => e.asid == f.asid && regionOf e.line == f.region then
      s.once (.sideLogReplay eid f.region) else s) s

/-- A held access is refused (R264): it is gone, its result never lands, and its strand goes on. -/
def State.dropAcc (s : State) (eid : Nat) (a : Acc) : State :=
  let sid := 4 * eid + a.snum
  let s := s.modStrand sid fun k => k.forget (s.cycleOf sid) a.id
  let s := if (s.strand sid).why = .access a.id then s.modStrand sid fun k => k.makeReady (s.cycleOf sid) else s
  s.accDone eid a.id

/-- The lowest GVA of an access in a region. -/
def lowestIn (r : Nat) (l : List Piece) : Nat :=
  ((l.filter (pieceIn r)).map fun p => max p.gva.toNat (r * 2 ^ 16)).foldl min (2 ^ 64 - 1)

/-- Is a message a release that waits for what its strand issued before it (R232)? -/
def msgReleases : Ev → Option Msg
  | .softwareMessage m => some m
  | .semaphoreSignal m => some m
  | .ringAdvance m => some m
  | .mailboxInsert m => if [1, 3, 4].contains (field m.opc 0 3) then some m else none
  | _ => none

/-- A release behind a discarded entry is never performed (R268): its results never land. -/
def State.dropRelease (s : State) (m : Msg) : State :=
  let s := s.paidMsg m
  match m.tag with
  | none => s
  | some t => (s.modStrand (4 * m.src + m.ssn) fun k => k.forget (s.cycleOf (4 * m.src + m.ssn)) m.seq).modCore m.src fun c =>
      { c with reqs := Map.del c.reqs t }

/-- A GBAR that waits for what has been discarded is not performed: it is as if it had not been issued (DEDUCED, log entry 91). -/
def Strand.undoGbar (k : Strand) : Strand :=
  match k.coll with
  | some c => if c.kind == .gbar && !c.sent then { k with coll := none, arch := { k.arch with cseq := c.seq - 1 } } else k
  | none => k

/-- Every release of strand n that waits for what numbered `id` is discarded with it (R232, R268, R352). -/
def State.dropReleases (s : State) (eid n id : Nat) : State :=
  let rels := (s.core eid).accs.filter fun (a : Acc) => a.snum == n && a.rel && id < a.id
  let msgs := (s.flight.filterMap msgReleases).filter fun m => m.src == eid && m.ssn == n && id < m.seq
  let s := rels.foldl (fun s a => s.dropAcc eid a) s
  let s := { s with flight := s.flight.filter fun f => match msgReleases f with
    | some m => !(m.src == eid && m.ssn == n && id < m.seq)
    | none => true }
  (msgs.foldl (fun s m => s.dropRelease m) s).modStrand (4 * eid + n) Strand.undoGbar

/-- A load or atomic held at a page is refused there: it keeps the lowest refused GVA, and completes with LOAD_FAULT once no other page
holds it (R264). -/
def State.refuseHeld (s : State) (g : Word) (eid id : Nat) : State :=
  let low := fun (a : Acc) =>
    let n := lowestIn (regionOf g) a.pieces
    BitVec.ofNat 64 (match a.bad with
      | some w => min w.toNat n
      | none => n)
  let s := s.modCore eid fun c => { c with accs := c.accs.map fun (a : Acc) => if a.id = id then { a with bad := some (low a) } else a }
  if s.accHeld eid id then s else s.letGo (.accessPerformed eid id)

/-- A held step is refused. -/
def State.refuseEv (s : State) (g : Word) (e : Ev) : State :=
  match e with
  | .accessPerformed eid id => s.refuseHeld g eid id
  | .joinDecrement m => s.answers m cLoadFault 0
  | .jobCompletion j => (s.modJob j fun b => { b with words := b.words.set 4 0 }).later e
  | .kill j => (s.modJob j fun b => { b with words := b.words.set 4 0 }).later e
  | .contextSave j => (s.modJob j fun b => { b with lost := b.lost ++ [regionOf g] }).later e
  | .loadHandler m => s.replyTo m cLoadFault 0
  | .atomicHandler m => s.replyTo m cLoadFault 0
  | .casHandler m => s.replyTo m cLoadFault 0
  | .storeHandler m => s.replyTo m cAccess 0
  | .subByteStore m => s.replyTo m cAccess 0
  | .mailboxInsert m =>
    if m.tag.isSome then s.replyTo m cLoadFault 0
    else if [1, 4].contains (field m.opc 0 3) then (s.postAcc (4 * m.src + m.ssn) cLoadFault m.addr none m.seq).paidMsg m
    else ((s.dropReleases m.src m.ssn m.seq).post (4 * m.src + m.ssn) cAccess m.addr none).paidMsg m
  | .theft t _ p => s.abandonTheft t p
  | .stolenRecordStart sid => s.refuseStolen sid
  | .delegatedDispatch sid => s.undelegate sid
  | .engineCompletion e t => s.refuseCommand e t g
  | .engineCommandStart (.matrix t) => s.refuseMatrix t g
  | .residence _ _ => s.later e
  | .planeReduction _ => s.later e
  | _ => s

/-- The first byte of a side-log entry. -/
def sideFirst (e : SideEntry) : Word :=
  e.line + BitVec.ofNat 64 (((List.range 128).find? fun i => e.mask.getLsbD i).getD 0)

/-- Side-log entries of a refused region are discarded with the releases behind them; their strands take ACCESS (R268). -/
def State.refuseSide (s : State) (eid : Nat) (asid : BitVec 16) (r : Nat) : State :=
  let gone := (s.core eid).side.filter fun (e : SideEntry) => e.asid == asid && regionOf e.line == r
  let s := s.modCore eid fun c => { c with side := c.side.filter fun (e : SideEntry) => !(e.asid == asid && regionOf e.line == r) }
  let s := ([0, 1, 2, 3] : List Nat).foldl (fun s n =>
    match gone.find? fun (e : SideEntry) => e.snum == n with
    | none => s
    | some e => (s.dropReleases eid n e.id).post (4 * eid + n) cAccess (sideFirst e) none) s
  if gone.isEmpty then s else s.poke eid

/-- A side-log entry leaves the log, and those who wait for it go on. -/
def State.sideDone (s : State) (eid : Nat) (e : SideEntry) : State :=
  (s.modCore eid fun c => { c with side := c.side.erase e }).poke eid

/-- An entry whose store the owner denies, or that meets poison, is discarded; with a denial the releases behind it (R31, R204, R375). -/
def State.sideRefused (s : State) (eid : Nat) (e : SideEntry) (code : Nat) (g : Word) : State :=
  let s := if code = cAccess then s.dropReleases eid e.snum e.id else s
  (s.post (4 * eid + e.snum) code g none).sideDone eid e

/-- SIDE_LOG_REPLAY (R268): the oldest entry of a region is performed; the others follow. -/
def execSideLogReplay (eid region : Nat) (s : State) : Res :=
  let c := s.core eid
  .next (match c.side.find? fun e => e.line.toNat / 2 ^ 16 == region with
  | none => s
  | some e =>
    if e.denied then (s.sideRefused eid e cAccess (sideFirst e)).later (.sideLogReplay eid region)
    else match s.replayEntry eid e with
    | (s, .unmapped _) => s.later (.faultOpen (4 * eid + e.snum) e.line .store)
    | (t, .wait) => if 512 ≤ (t.core eid).dirtyN then (s.once (.dirtyLogMerge eid)).notYet else s.notYet
    | (s, .denied w) => (s.sideRefused eid e cAccess w).later (.sideLogReplay eid region)
    | (s, .poison w) => (s.sideRefused eid e cLoadFault w).later (.sideLogReplay eid region)
    | (s, .value _) => (s.sideDone eid e).later (.sideLogReplay eid region))

/-- The service refuses the page. -/
def State.faultRefused (s : State) (d : Nat) (f : OpenFault) : State :=
  let s := s.modDie d fun t => { t with faults := t.faults.filter fun (o : OpenFault) => !o.isFor f.asid f.region }
  let s := f.held.foldl (fun s q => s.refuseEv q.1 q.2) s
  let s := s.freeHeld f.asid f.region fun k => match k.why with
    | .unit g => { k with refused := some g }
    | _ => { k with refused := some k.arch.pc }
  s.eids.foldl (fun s eid => s.refuseSide eid f.asid f.region) s

/-! ## Commands (R369) -/

/-- Take the command at CHEAD, or go on with the one taken, if its operation is `op`: its number. The agent keeps the words that it has
taken: software may post over the slot (R369). -/
def State.takeCmd (s : State) (d : Nat) (p : Nat → Bool) : Option (State × Nat) :=
  match (s.die d).cmd with
  | some i => if p i then some (s, i) else none
  | none =>
    let i := (s.chead d).toNat
    if s.chead d != s.ctail d && p i then
      some ((s.setHbm64 d (TA + 8) (s.chead d + 1)).modDie d fun t =>
        { t with cmd := some i, cmdw := [0, 1, 2, 3].map (s.cmdWord d i) }, i)
    else none

/-- Is slot i's command well formed with this operation? -/
def State.isCmd (s : State) (d op i : Nat) : Bool := s.cmdFormed d i && field (s.cmdWord d i 0) 0 8 == op

/-- A command ends: ST is written, and the service notified where NOTE asks for it. -/
def State.endSlot (s : State) (d i st : Nat) (note : Bool) : State :=
  let s := s.writeAt (.hbm d (slotAt i + 1) false) 1 st
  if note then s.toService d 2 else s

/-- The command in hand ends, and the agent goes on. -/
def State.endCommand (s : State) (d st : Nat) : State :=
  match (s.die d).cmd with
  | none => s
  | some i => (s.endSlot d i st ((s.cmdWord d i 0).getLsbD 32) |>.modDie d fun t => { t with cmd := none }).agentNext d

/-- The ASID of a command. -/
def State.cmdAsid (s : State) (d i : Nat) : BitVec 16 := BitVec.ofNat 16 (field (s.cmdWord d i 0) 16 16)

/-- Does an engine command that runs hold a page of the range under an entry it has checked (R287, R373)? -/
def State.engineHolds (s : State) (d : Nat) (asid : BitVec 16) (lo n : Nat) : Bool :=
  s.tiles.any fun (_, t) => t.matrix.runs.any fun (r : MRun) => r.cmd.msg.asid == asid && r.pages.any fun (q : AccPage) =>
    q.region / 2 ^ 35 == d && meet (q.region % 2 ^ 35 * 2 ^ 16) (2 ^ 16) lo n

/-- Does a running page move touch the range? -/
def State.moving (s : State) (d : Nat) (asid : BitVec 16) (lo n : Nat) : Bool :=
  (s.die d).migs.any fun (m : Mig) => m.asid == asid && meet (gvaOff m.gva) (2 ^ m.size) lo n

/-- The entries of a range leave the TLB and the walk cache. -/
def State.tlbDrop (s : State) (d : Nat) (asid : BitVec 16) (lo n : Nat) : State :=
  let out := fun (e : TlbEntry) => e.asid == asid && meet (e.page * 2 ^ e.size) (2 ^ e.size) lo n
  let s := ((s.die d).tlb.filter out).foldl (fun s e => s.tlbWriteBack d e) s
  s.modDie d fun t =>
    { t with tlb := t.tlb.filter fun e => !out e,
             walks := t.walks.filter fun (w : WalkEntry) => !(w.asid == asid && meet (w.index * 2 ^ w.shift) (2 ^ w.shift) lo n) }

/-- INVAL (R373). A length of 0 names the whole ASID. -/
def execInval (d : Nat) (s : State) : Res :=
  .next (match s.takeCmd d (s.isCmd d 1) with
  | none => s
  | some (s, i) =>
    let all := s.cmdWord d i 2 == 0
    let lo := if all then 0 else gvaOff (s.cmdWord d i 1)
    let n := if all then 2 ^ 51 else (s.cmdWord d i 2).toNat
    let asid := s.cmdAsid d i
    if s.moving d asid lo n || s.engineHolds d asid lo n then s.notYet
    else (s.tlbDrop d asid lo n).endCommand d 1)

/-- The walk still fails: a new record is opened for the region, on behalf of its first requester. -/
def State.reopen (s : State) (f : OpenFault) : State :=
  let d := f.region / 2 ^ 35
  let rec1 := BitVec.ofNat 64 (Mem.read s.mem ((Place.hbm d (recordAt (f.num.getD 0) + 8) false).keys 8))
  let sid := field rec1 0 22 * 4 + field rec1 22 2
  let k : FaultKind := match field rec1 24 4, rec1.getLsbD 28 with
    | 0, false => .load
    | 0, true => .atomic
    | 1, _ => .store
    | 2, false => .engine
    | 2, true => .engineWrite
    | 3, _ => .table
    | _, _ => .host
  let fs := (s.die d).faults.map fun (o : OpenFault) => if o.isFor f.asid f.region then { o with num := none } else o
  let s := s.modDie d fun t => { t with faults := fs }
  (s.later (.faultOpen sid (BitVec.ofNat 64 (f.region * 2 ^ 16)) k)).endCommand d 1

/-- RESOLVE (R376). It waits for a move that holds a page of its region (R369); where every requester has been killed it affects nothing. -/
def execResolve (d : Nat) (s : State) : Res :=
  .next (match s.takeCmd d (s.isCmd d 2) with
  | none => s
  | some (s, i) =>
    let n := (s.cmdWord d i 1).toNat
    match (s.die d).faults.find? fun (f : OpenFault) => f.num == some n with
    | none => s.endCommand d 1
    | some f =>
      if s.moving d f.asid (f.region % 2 ^ 35 * 2 ^ 16) (2 ^ 16) then s.notYet
      else if !s.wanted f then
        (s.modDie d fun t => { t with faults := t.faults.filter fun (o : OpenFault) => !o.isFor f.asid f.region }).endCommand d 1
      else if (s.cmdWord d i 2).getLsbD 0 then
        (match s.findPage f.asid (BitVec.ofNat 64 (f.region * 2 ^ 16)) with
         | (s, some p) =>
           if (s.pagePlace p (BitVec.ofNat 64 (f.region * 2 ^ 16))).isSome then (s.faultMapped d f).endCommand d 1
           else s.reopen f
         | (s, none) => s.reopen f)
      else (s.faultRefused d f).endCommand d 1)

/-- TLB_WALK (R372): a walk completes and fills the TLB of its die. -/
def execTlbWalk (asid : Nat) (gva : Word) (s : State) : Res :=
  .next (s.tlbLookup (gvaDie gva) (BitVec.ofNat 16 asid) (gvaOff gva)).1

/-! ## Moving a page (R377-R381) -/

/-- The cycle of a die: the furthest of its clusters. -/
def State.dieTime (s : State) (d : Nat) : Nat := (List.range 16).foldl (fun m c => max m (s.clusterTime (d * 16 + c))) 0

/-- The home-lookup entry of a page on a die, and the lowest free one (R379). -/
def State.homeEntry (s : State) (d : Nat) (asid : BitVec 16) (g : Word) : Option Nat :=
  (List.range 4096).find? fun i => let w := s.hbm64 d (homeWord i 0)
    w.getLsbD 0 && field w 16 16 == asid.toNat && s.hbm64 d (homeWord i 1) == g
def State.homeFree (s : State) (d : Nat) : Option Nat :=
  (List.range 4096).find? fun i => !(s.hbm64 d (homeWord i 0)).getLsbD 0

/-- An entry that a page may use: its own, or the lowest free one. -/
def State.homeFor (s : State) (d : Nat) (asid : BitVec 16) (g : Word) : Option Nat :=
  match s.homeEntry d asid g with
  | some i => some i
  | none => s.homeFree d

/-- Write and free an entry. -/
def State.homePut (s : State) (d i kind other : Nat) (asid : BitVec 16) (g w : Word) : State :=
  let s := s.setHbm64 d (homeWord i 0) (BitVec.ofNat 64 (1 + kind * 2 + other % 8 * 8 + asid.toNat * 2 ^ 16))
  let s := s.setHbm64 d (homeWord i 1) g
  (s.setHbm64 d (homeWord i 2) w).setHbm64 d (homeWord i 3) 0
def State.homeDrop (s : State) (d : Nat) (asid : BitVec 16) (g : Word) : State :=
  match s.homeEntry d asid g with
  | some i => (List.range 4).foldl (fun s w => s.setHbm64 d (homeWord i w) 0) s
  | none => s

/-- Copy n bytes between two places, poison with them. -/
def State.copyBytes (s : State) (src dst : Place) (n : Nat) : State :=
  (List.range n).foldl (fun s i =>
    let m := Mem.write s.mem [dst.key i] (Mem.read s.mem [src.key i])
    let q := (s.poison.filter fun g => g != dst.key i / 8) ++ (if s.poison.contains (src.key i / 8) then [dst.key i / 8] else [])
    { s with mem := m, poison := q }) s

/-- The new place of a page by a leaf for die `dst`. -/
def State.newPlace (s : State) (dst size : Nat) (leaf : Word) : Option Place :=
  leafPlace dst size leaf (fun c => (s.cluster (dst * 16 + c)).pinw.toNat) 0

/-- May a page move: is it mapped and in no object, its new leaf sound, the die present, and is there room for its entries? -/
def State.mayMove (s : State) (d dst : Nat) (asid : BitVec 16) (g : Word) (p : Page) (leaf : Word) : Bool :=
  dst % 8 < s.dieCount (d / 8) && (s.newPlace dst p.size leaf).isSome && !(s.die d).objectAt asid g.toNat (2 ^ p.size) &&
    (dst == d || (s.homeFor d asid g).isSome && (s.homeFor dst asid g).isSome)

/-- MIGRATE (R377): the copy of a page is made, and its commit set off. -/
def execMigrate (d : Nat) (s : State) : Res :=
  .next (match s.takeCmd d (s.isCmd d 3) with
  | none => s
  | some (s, i) =>
    let asid := s.cmdAsid d i
    let g := s.cmdWord d i 1
    let leaf := s.cmdWord d i 2
    let dst := d / 8 * 8 + field (s.cmdWord d i 3) 0 3
    if 16 ≤ (s.die d).migs.length || s.moving d asid (gvaOff g) 1 then s.notYet
    else if gvaDie g != d then s.endCommand d 3
    else match s.findPage asid g with
      | (s, none) => s.endCommand d 3
      | (s, some p) =>
        let base := g &&& ~~~(BitVec.ofNat 64 (2 ^ p.size - 1))
        (match s.pagePlace p base, s.newPlace dst p.size leaf with
         | some src, some tgt =>
           if s.mayMove d dst asid base p leaf then
             let m : Mig := { slot := i, asid := asid, gva := base, size := p.size, leaf := leaf, dst := dst, wv := field p.leaf 40 24,
                              start := s.dieTime d, host := false, note := (s.cmdWord d i 0).getLsbD 32 }
             let s := (s.copyBytes src tgt (2 ^ p.size)).modDie d fun t => { t with migs := t.migs ++ [m], cmd := none }
             (s.later (.migrateCommit d i)).agentNext d
           else s.endCommand d 3
         | _, _ => s.endCommand d 3))

/-- A move is over with a status: an OBJDEF that waits for it goes on (R398). -/
def State.endMove (s : State) (d : Nat) (m : Mig) (st : Nat) : State :=
  let s := (s.modDie d fun t => { t with migs := t.migs.filter fun (o : Mig) => o.slot != m.slot }).endSlot d m.slot st m.note
  (s.eids.foldl (fun s e => s.poke e) s).agentNext d

/-- Lines of a die are invalidated without write-back: of those that are dirty, memory has what it held before. -/
def State.discardLines (s : State) (d : Nat) (p : Line → Bool) : State :=
  let s := ((s.die d).lines.filter fun (l : Line) => p l && l.dirty.isSome).foldl (fun s (l : Line) =>
    { s with mem := Mem.write s.mem ((Place.hbm d (l.line * 128) true).keys 128) l.back.toNat }) s
  s.modDie d fun t => { t with lines := t.lines.filterMap fun (l : Line) => if p l then l.shed else some l }

/-- The commit of a move (R378). The page keeps its write-version counter. -/
def State.commitMove (s : State) (d : Nat) (m : Mig) (p : Page) : State :=
  let s := match s.pagePlace p m.gva with
    | some (.hbm h a _) => s.discardLines h fun l => meet (l.line * 128) 128 a (2 ^ m.size)
    | _ => s
  let at_ := (s.walk d m.asid (gvaOff m.gva)).map fun (l : Leaf) => l.at_
  let s := (s.tlbDrop d m.asid (gvaOff m.gva) (2 ^ m.size))
  let leaf := putField m.leaf 40 24 m.wv
  let drop := fun (s : State) (keep : Nat) => (List.range 8).foldl (fun s k =>
    let e := d / 8 * 8 + k
    if e = keep ∨ e = d then s else s.homeDrop e m.asid m.gva) s
  match at_ with
  | none => s
  | some a =>
    if m.dst = d then ((drop s d).homeDrop d m.asid m.gva).setHbm64 d a leaf
    else
      match s.homeFor d m.asid m.gva, s.homeFor m.dst m.asid m.gva with
      | some f, some h =>
        let s := (drop s m.dst).homePut m.dst h 2 d m.asid m.gva leaf
        let s := s.homePut d f 1 m.dst m.asid m.gva (BitVec.ofNat 64 h)
        s.setHbm64 d a (putBit (putField (s.hbm64 d a) 16 24 f) 8 true)
      | _, _ => s

/-- MIGRATE_COMMIT (R377, R378): the move commits, or is abandoned where the page has been written since its start, by the host
too, or 2^18 cycles have passed. -/
def execMigrateCommit (d slot : Nat) (s : State) : Res :=
  .next (match (s.die d).migs.find? fun (m : Mig) => m.slot == slot with
  | none => s
  | some m =>
    let abandon := fun (s : State) => (s.setHbm64 d (TA + 0x30) (s.hbm64 d (TA + 0x30) + 1)).endMove d m 2
    match s.findPage m.asid m.gva with
    | (s, none) => abandon s
    | (s, some p) =>
      let full := m.dst != d && ((s.homeFor d m.asid m.gva).isNone || (s.homeFor m.dst m.asid m.gva).isNone)
      if s.engineHolds d m.asid (gvaOff m.gva) (2 ^ m.size) then s.notYet
      else if field p.leaf 40 24 == m.wv && !m.host && s.dieTime d - m.start ≤ 2 ^ 18 && p.size == m.size && !full then
        (s.commitMove d m p).endMove d m 1
      else abandon s)

/-! ## Agents' generations (R382-R384) -/

/-- The cores that an agent belongs to (R383). -/
def agentCores (d a : Nat) : List Nat :=
  if a < 0x200 then [d * 512 + a]
  else if a < 0x400 then [d * 512 + a % 256 * 2, d * 512 + a % 256 * 2 + 1]
  else if a < 0x430 then (List.range 32).map fun i => d * 512 + a % 16 * 32 + i
  else []

/-- The READY bit of an agent's kind (R443, R444). -/
def agentBit (d a : Nat) : Nat :=
  if a < 0x400 then dieBit d rTile else if a < 0x420 then dieBit d rCeng else if a < 0x430 then dieBit d rSlc else 64 + d % 8

/-- The jobs that are granted one of the cores. -/
def State.jobsOn (s : State) (l : List Nat) : List Nat := (l.filterMap fun e => (s.core e).job).eraseDups

/-- A slice is no holder any more: lines it held dirty are dropped, and memory keeps what it had before (R384). -/
def State.dropSlice (s : State) (d c : Nat) : State :=
  (s.discardLines d fun l => l.dirty == some c).modDie d fun t =>
    { t with lines := t.lines.map fun (l : Line) => { l with holders := l.holders.filter (· != c) } }

/-- What a core has asked for and not received is refused with ACCESS (R384). -/
def State.refuseAll (s : State) (eid : Nat) : State :=
  let told := fun (s : State) (n : Nat) (g : Word) => if (s.strand (4 * eid + n)).st = .off then s else s.post (4 * eid + n) cAccess g none
  let s := (s.core eid).accs.foldl (fun s (a : Acc) =>
    let s := if a.isStore then s else s.modStrand (4 * eid + a.snum) fun k => k.forget (s.cycleOf (4 * eid + a.snum)) a.id
    match a.pieces with
    | p :: _ => told s a.snum p.gva
    | [] => s) s
  let s := (s.core eid).reqs.foldl (fun s (_, (r : Req)) =>
    told (if r.cmd then s.landReq eid r (statusWord 2 0x0B r.dest 0)
      else s.modStrand (4 * eid + r.snum) fun k => k.forget (s.cycleOf (4 * eid + r.snum)) r.id) r.snum (BitVec.ofNat 64 r.dest)) s
  (s.modCore eid fun c => { c with accs := [], side := [], reqs := [], swq := [] }).poke eid

/-- An agent clears its state: what it has outstanding is refused. -/
def State.clearAgent (s : State) (d a : Nat) : State :=
  if a < 0x200 then s.refuseAll (d * 512 + a)
  else if a < 0x300 then s.modTile (d * 256 + a % 256) fun t => { t with copy := Engine.reset }
  else if a < 0x400 then s.modTile (d * 256 + a % 256) fun t => { t with matrix := Matrix.reset }
  else if a < 0x410 then s.modCluster (d * 16 + a % 16) fun k => { k with gather := Engine.reset }
  else if a < 0x420 then s.modCluster (d * 16 + a % 16) fun k => { k with sortc := Engine.reset }
  else s

/-- SCRUB (R384): the agent is dead. A move in flight at the die is abandoned (R406), and its jobs are killed, before it goes on; the TLB's
entries leave it with their D and WV (R371). -/
def execScrub (d : Nat) (s : State) : Res :=
  .next (match s.takeCmd d (s.isCmd d 4) with
  | none => s
  | some (s, i) =>
    let a := (s.cmdWord d i 1).toNat
    if 0x438 < a then s.endCommand d 3
    else
      let s := (s.die d).migs.foldl (fun s (m : Mig) =>
        (s.setHbm64 d (TA + 0x30) (s.hbm64 d (TA + 0x30) + 1)).endMove d m 2) s
      let jobs := s.jobsOn (agentCores d a)
      if !jobs.isEmpty then (jobs.foldl (fun s j => s.once (.kill j)) s).notYet
      else
        let s := { s with mem := Mem.write s.mem ((Place.hbm d (genAt a) false).keys 2) (s.genTable d a + 1).toNat }
        let s := if 0x420 ≤ a ∧ a < 0x430 then s.dropSlice d (a % 16) else s
        let s := (s.die d).tlb.foldl (fun s e => s.tlbWriteBack d e) s
        let s := (s.modDie d fun t => { t with tlb := [], walks := [], dead := if t.dead.contains a then t.dead else t.dead ++ [a] }).modPkg (d / 8)
          fun p => { p with ready := p.ready &&& ~~~(1#128 <<< agentBit d a) }
        (s.clearAgent d a).endCommand d 1)

/-- RESET_AGENT (R384): the agent clears its state, takes its new generation, and is usable: the bit of its kind is set once no
agent of the kind is scrubbed any more. -/
def execResetAgent (d a : Nat) (s : State) : Res :=
  let s := (s.clearAgent d a).modDie d fun t =>
    { t with agents := Map.putC 0 t.agents a (s.genTable d a).toNat, dead := t.dead.filter (· != a) }
  .next (if (s.die d).dead.any fun b => agentBit d b == agentBit d a then s
    else (s.modPkg (d / 8) fun p => { p with ready := p.ready ||| (1#128 <<< agentBit d a) }).msix (d / 8) 0 1)

/-! ## The world table (R404) -/

/-- WSYNC (R404): the hardware copy is loaded. -/
def execWsync (d : Nat) (s : State) : Res :=
  .next (match s.takeCmd d (s.isCmd d 5) with
  | none => s
  | some (s, _) =>
    let w := fun (o : Nat) => s.hbm64 d (TA + 0x300000 + o)
    let rs := (List.range 64).filterMap fun i =>
      let a := w (16 * i)
      if a.getLsbD 0 then some ({ sec := a.getLsbD 1, first := field a 16 24, last := field (w (16 * i + 8)) 16 24 } : Region) else none
    let bits := (List.range 8).foldl (fun n i => n + (w (0x400 + 8 * i)).toNat * 2 ^ (64 * i)) 0
    (s.modDie d fun t => { t with regions := rs, blocks := BitVec.ofNat 512 bits }).endCommand d 1)

/-! ## Encodings that mean nothing -/

/-- RESERVED_ENCODING (R38, R40, R46): a fetched unit that decodes to nothing raises ILLEGAL_INSTR or MISALIGNED_PAIR; a
malformed table command ends with ST = 0x04 (R369). -/
def execReservedEncoding (why : EncFault) (s : State) : Res :=
  .next (match why with
    | .misaligned => s.raise 1 cMisaligned 0
    | .cWord => s.raise 2 cIllegal 0x10000
    | .aWord => s.raise 2 cIllegal 0x20000
    | .pair => s.raise 2 cIllegal 0x30000
    | .tableCmd d => (match s.takeCmd d fun i => !s.cmdFormed d i with
      | some (s, _) => s.endCommand d 4
      | none => s))

end Sys2Proof.Machine
end

