-- ==== Sys2Proof/Machine/Catalog.lean ====
section
/-!
DEFINITION. The Catalogue (R385-R395), coherence objects (R396-R399), and the queries MAPQ and RLQ (R400, R401).
-/
namespace Sys2Proof.Machine

open Sys2Proof

/-! ## Records (R386) -/

/-- A field of a 64-byte record: n bits from bit `lo` of the word at byte offset o. -/
def recField (r o lo n : Nat) : Nat := r / 2 ^ (8 * o + lo) % 2 ^ n

def recV (r : Nat) : Bool := recField r 0 0 1 == 1
def recRank (r : Nat) : Nat := recField r 0 1 2 + 1
def recEt (r : Nat) : Option Et := Et.ofCode (recField r 0 4 4)
def recBits (r : Nat) : Nat := match recEt r with
  | some e => etBits e
  | none => 0
/-- N_d, P_d and MODE_d; a dimension past RANK has N = 1. -/
def recN (r d : Nat) : Nat := if d < recRank r then recField r 8 (16 * d) 16 else 1
def recP (r d : Nat) : Nat := recField r 0x10 (16 * d) 16
def recMode (r d : Nat) : Nat := recField r 0x18 (2 * d) 2
def recOff (r : Nat) : Nat := recField r 0x20 0 64
def recSstr (r : Nat) : Nat := recField r 0x28 0 64
def recPkg0 (r : Nat) : Nat := recField r 0x30 0 10
def recDpp (r : Nat) : Nat := 2 ^ recField r 0x30 12 2
def recSpd (r : Nat) : Nat := recField r 0x30 16 16
def recT0 (r : Nat) : Nat := recField r 0x30 32 3

/-- Quotient rounded up. -/
def ceilDiv (a b : Nat) : Nat := (a + b - 1) / max 1 b

/-- E_d: the elements of a shard along dimension d (R387). -/
def recE (r d : Nat) : Nat := match recMode r d with
  | 1 => ceilDiv (recN r d) (recP r d)
  | 2 => ceilDiv (recN r d) (recP r d)
  | _ => recN r d

/-- q_d and l_d of index i. -/
def shardOf (r d i : Nat) : Nat × Nat := match recMode r d with
  | 1 => (i / max 1 (recE r d), i % max 1 (recE r d))
  | 2 => (i % max 1 (recP r d), i / max 1 (recP r d))
  | _ => (0, i)

/-- The located element of indices that are in bounds (R387): its GVA and, for a 4-bit element, its nibble. -/
def locate (r : Nat) (ix : List Nat) : Word × Nat :=
  let sl := (List.range 4).map fun d => shardOf r d (ix.getD d 0)
  let s := (List.range 4).foldl (fun n d => n * (if d = 0 then 1 else recP r d) + (sl.getD d (0, 0)).1) 0
  let l := (List.range 4).foldl (fun n d => n * (if d = 0 then 1 else recE r d) + (sl.getD d (0, 0)).2) 0
  let spd := max 1 (recSpd r)
  let t := recT0 r + s / spd
  let off := recOff r + s % spd * recSstr r + l * recBits r / 8
  (BitVec.ofNat 64 ((recPkg0 r + t / recDpp r) * 2 ^ 54 + t % recDpp r * 2 ^ 51 + off % 2 ^ 51), l % 2)

/-- The first dimension whose index is out of bounds, with the index. -/
def outOfBounds (r : Nat) (ix : List Nat) : Option (Nat × Nat) :=
  ((List.range 4).find? fun d => recN r d ≤ ix.getD d 0).map fun d => (d, ix.getD d 0)

/-- The indices in an index word. -/
def indices (x : Word) : List Nat := (List.range 4).map fun d => field x (16 * d) 16

/-- EVAL of SHARD_RANGE (R388). -/
def shardEval (e d reason i : Nat) : Word := BitVec.ofNat 64 (e + d * 2 ^ 8 + reason * 2 ^ 10 + i % 2 ^ 32 * 2 ^ 16)

def State.shardRange (s : State) (e d reason i : Nat) : State := s.raise 5 cShardRange (shardEval e d reason i)

/-! ## The Catalogue and its cache (R385, R390) -/

/-- The GVA of the running job's Catalogue area. -/
def State.myCatg (s : State) : Word := s.catg (s.eid / 512) s.curCore.asid

/-- The record of entry e in a bank. -/
def bankGva (a : Word) (bank e : Nat) : Word := a + BitVec.ofNat 64 (0x4000 * bank + 64 * e)

/-- VER of entry e. -/
def State.catVer (s : State) (asid : BitVec 16) (a : Word) (e : Nat) : Nat := s.areaRead asid (a + BitVec.ofNat 64 (0x8040 + 2 * e)) 2

/-- The place of n bytes of the Catalogue area that a unit reads or writes: `f` goes on with it. An unmapped page is waited for, poison raises
LOAD_FAULT, of the page's tables too (R204), a secure place is refused to the non-secure world (R405), and a write waits for a sector of the
host's (R238); the access takes its miss registers (R220). -/
def State.withArea (s : State) (g : Word) (n : Nat) (rd wr : Bool) (f : State → Place → State) : State :=
  if !s.unitFree g n then s.missWait
  else if s.heldAt (s.eid / 32) s.curCore.asid g then (s.rouse (s.eid / 32) s.curCore.asid g).retry
  else if s.tablesBad s.curCore.asid g then s.refusal cLoadFault g
  else match s.areaPlace s.curCore.asid g with
  | none => s.heldUnitBy .table g
  | some q =>
    if !s.arch.wld && s.secure q then s.refusal cAccess g
    else if rd && s.poisoned q n then s.refusal cLoadFault g
    else if s.hostHas q n wr then s.retry
    else f s q

/-- n bytes of the Catalogue area are written as an atomic of the unit, and the write of their page counts (R371). -/
def State.putArea (s : State) (g : Word) (n v : Nat) (q : Place) : State :=
  let asid := s.curCore.asid
  let s := match (s.findPage asid g).2 with
    | some p => (s.dirtyLog s.eid asid p).countWrite asid p (s.eid / 512 % 8)
    | none => s
  (s.reachAll (s.eid / 32) asid g q).writeAt q n v

/-- The current record of entry e, through the die's cache of 1024 entries: `f` goes on with it. A miss is a table read of the area
(R390). -/
def State.withEntry (s : State) (e : Nat) (f : State → Nat → State) : State :=
  let d := s.eid / 512
  let asid := s.curCore.asid
  let a := s.myCatg
  if a = 0 then s.shardRange e 0 1 0
  else match (s.die d).cat.find? fun (c : CatEntry) => c.asid == asid && c.e == e with
    | some c => f s c.words
    | none =>
      if !s.missFree s.unit.sid 2 then s.missWait
      else s.withArea (a + BitVec.ofNat 64 (0x8040 + 2 * e)) 2 true false fun s v =>
        s.withArea (bankGva a (s.readAt v 2 % 2) e) 64 true false fun s q =>
          let r := s.readAt q 64
          f (s.modDie d fun k => { k with cat := ({ asid := asid, e := e, words := r } : CatEntry) :: k.cat.take 1023 }) r

/-- A Catalogue unit waits while the strand's GBAR is unresolved (R390). -/
def State.pastGbar (s : State) (t : State) : State :=
  match s.cur.coll with
  | some c => if c.kind = .gbar then s.awaitOutcome else t
  | none => t

/-- Locate an element of a valid entry: `f` goes on with the record, the GVA and the nibble (R387). -/
def State.withLocated (s : State) (e : Nat) (x : Word) (f : State → Nat → Word → Nat → State) : State :=
  s.pastGbar (s.withEntry e fun s r =>
    if !recV r then s.shardRange e 0 1 0
    else match outOfBounds r (indices x) with
      | some (d, i) => s.shardRange e d 0 i
      | none => let p := locate r (indices x); f s r p.1 p.2)

/-- An element's piece. -/
def elemPiece (bits : Nat) (g : Word) (nib : Nat) : Piece :=
  if bits < 8 then { gva := g, len := 1, nib := some (nib == 1) } else { gva := g, len := bits / 8, nib := none }

/-- SLD (R390, R391). -/
def execSld (d a : XReg) (e : BitVec 8) (s : State) : Res :=
  .next (s.withLocated e.toNat (s.rx a) fun s r g nib =>
    let p := elemPiece (recBits r) g nib
    s.checked (s.check [g] p.len 1 false false true true) (s.issueLoad (if d = 0 then .none else .x d) [p] false false 0))

/-- SST (R390, R391): it waits under run-ahead. -/
def execSst (d a : XReg) (e : BitVec 8) (s : State) : Res :=
  .next (s.unlessAhead (s.withLocated e.toNat (s.rx a) fun s r g nib =>
    let p := elemPiece (recBits r) g nib
    s.checked (s.check [g] p.len 1 true false true true) (s.issueStore [p] ((s.rx d).toNat % 2 ^ recBits r) false)))

/-- The indices of element (row, col) of a tile at xa (R392). -/
def tileIndices (rank : Nat) (ix : List Nat) (row col : Nat) : List Nat :=
  if rank = 1 then ix.set 0 (ix.getD 0 0 + col)
  else (ix.set (rank - 2) (ix.getD (rank - 2) 0 + row)).set (rank - 1) (ix.getD (rank - 1) 0 + col)

/-- SLDV (R392): every element is located before any load; a tile loads element by element. -/
def execSldv (d : VReg) (a : XReg) (e : BitVec 8) (s : State) : Res :=
  .next (s.pastGbar (s.withEntry e.toNat fun s r =>
    let et := s.arch.shapeEt
    let w := etBits et
    let nr := s.arch.rows
    let nc := s.arch.cols
    if !recV r then s.shardRange e.toNat 0 1 0
    else if recEt r != some et || recRank r == 1 && nr != 1 then s.shardRange e.toNat 0 3 0
    else
      let ixs := (List.range nr).flatMap fun i => (List.range nc).map fun j => tileIndices (recRank r) (indices (s.rx a)) i j
      match ixs.findSome? (outOfBounds r) with
      | some (k, i) => s.shardRange e.toNat k 0 i
      | none =>
        let ps := ixs.map fun ix => let p := locate r ix; elemPiece w p.1 p.2
        s.checked (s.check (ps.map (·.gva)) (max 1 (w / 8)) 1 false false true true)
          (s.issueLoad (.v d) ps false false (~~~(lowBits (nr * nc * w))))))

/-- SHLOC (R393). -/
def execShloc (d a : XReg) (e : BitVec 8) (s : State) : Res :=
  .next (s.withLocated e.toNat (s.rx a) fun s _ g _ => s.wxs d g 1)

/-- Does a record satisfy R394? -/
def recOk (r : Nat) : Bool :=
  let esz := ceilDiv (recBits r) 8
  let parts := recP r 0 * recP r 1 * recP r 2 * recP r 3
  let bytes := ceilDiv (recE r 0 * recE r 1 * recE r 2 * recE r 3 * recBits r) 8
  let zero := recField r 0 3 1 == 0 && recField r 0 8 56 == 0 && recField r 0x18 8 56 == 0 && recField r 0x20 51 13 == 0 &&
    recField r 0x28 51 13 == 0 && recField r 0x30 10 2 == 0 && recField r 0x30 14 2 == 0 && recField r 0x30 35 29 == 0 &&
    recField r 0x38 0 64 == 0
  let dim := fun (d : Nat) =>
    let n := recField r 8 (16 * d) 16
    let p := recP r d
    let m := recMode r d
    1 ≤ n && 1 ≤ p && p ≤ n && m != 3 && (m != 0 || p == 1) && (d < recRank r || n == 1 && p == 1 && m == 0)
  zero && (recEt r).isSome && (List.range 4).all dim && parts ≤ 2 ^ 24 && recOff r % esz == 0 && 1 ≤ recSpd r &&
    (recSpd r == 1 || bytes ≤ recSstr r && recSstr r % esz == 0) && recT0 r < recDpp r &&
    recPkg0 r + (recT0 r + (parts - 1) / recSpd r) / recDpp r ≤ 1023 &&
    recOff r + (recSpd r - 1) * recSstr r + bytes ≤ 0x7FF0000000000

/-- SHWR (R394): the record goes to the entry's shadow bank. -/
def execShwr (a : XReg) (e : BitVec 8) (s : State) : Res :=
  let g := s.rx a
  .next (s.unlessAhead (
    let c := s.myCatg
    s.checked (s.check [g] 64 64 false false true true) (if c = 0 then s.shardRange e.toNat 0 1 0 else s.withRead g 64 fun s r =>
      if recV r && !recOk r then s.shardRange e.toNat 0 2 0
      else
        s.withArea (c + BitVec.ofNat 64 (0x8040 + 2 * e.toNat)) 2 true false fun s v =>
          let t := bankGva c ((s.readAt v 2 + 1) % 2) e.toNat
          s.withArea t 64 false true fun s q => s.putArea t 64 r q)))

/-- SHSWAP (R395): the entry's SWAP bit is set. -/
def execShswap (e : BitVec 8) (s : State) : Res :=
  .next (s.unlessAhead (
    let c := s.myCatg
    let g := c + 0x8000 + BitVec.ofNat 64 (e.toNat / 8)
    if c = 0 then s.shardRange e.toNat 0 1 0
    else s.withArea g 1 true true fun s q => s.putArea g 1 (Nat.lor (s.readAt q 1) (2 ^ (e.toNat % 8))) q))

/-! ## Coherence objects (R396-R399) -/

/-- A shape record. -/
def objOf (asid : BitVec 16) (job : Option Nat) (v : Nat) (gen : BitVec 16) : Obj :=
  { asid := asid, job := job, base := wordAt v 0, rowBytes := v / 2 ^ 64 % 2 ^ 32, rows := v / 2 ^ 96 % 2 ^ 32, pitch := (wordAt v 2).toNat,
    gen := gen, live := true, state := [] }

/-- Does a shape keep R396? -/
def shapeRecOk (o : Obj) (last : Word) : Bool :=
  o.base.toNat % 128 == 0 && o.rowBytes % 128 == 0 && 128 ≤ o.rowBytes && 1 ≤ o.rows && o.rows ≤ 65535 && o.pitch % 128 == 0 &&
    (o.rows == 1 || o.rowBytes ≤ o.pitch) && last == 0

/-- The 64 KiB regions of an object's rows. -/
def Obj.regions (o : Obj) : List Nat :=
  (o.rowStarts.flatMap fun lo => (List.range ((lo + o.rowBytes - 1) / 2 ^ 16 - lo / 2 ^ 16 + 1)).map fun i => lo / 2 ^ 16 + i).eraseDups

/-- Is every page of an object mapped with HOME = 00 and not moved? -/
def State.objPages (s : State) (o : Obj) : Bool :=
  o.regions.all fun r =>
    match s.findPage o.asid (BitVec.ofNat 64 (r * 2 ^ 16)) with
    | (s, some p) => p.home.isNone && (match s.pagePlace p (BitVec.ofNat 64 (r * 2 ^ 16)) with
      | some (.hbm _ _ true) => true
      | _ => false)
    | _ => false

/-- The handle of an object (R398). -/
def objHandle (d i : Nat) (o : Obj) : Word := BitVec.ofNat 64 (i % 4096 + d % 8 * 2 ^ 12 + d / 8 % 1024 * 2 ^ 16 + o.gen.toNat * 2 ^ 32)

/-- Why a shape is not declared (R398). -/
def State.objFails (s : State) (o : Obj) (last : Word) : Option Nat :=
  let k := s.die (gvaDie o.base)
  if !shapeRecOk o last then some 1
  else if gvaPkg o.base != s.eid / 4096 then some 2
  else if !s.objPages o then some 3
  else if k.objs.any fun (_, (q : Obj)) => q.live && q.asid == o.asid && o.overlaps q then some 4
  else if ((List.range 4096).find? fun i => !(Map.find k.objs i).any fun (q : Obj) => q.live).isNone then some 5
  else none

/-- OBJDEF (R398). -/
def execObjdef (d a : XReg) (s : State) : Res :=
  let g := s.rx a
  .next (s.unlessAhead (s.checked (s.check [g] 32 32 false false true true) (s.release (s.withReadBy .table g 32 fun s v =>
    let o := objOf s.curCore.asid s.curCore.job v (BitVec.ofNat 16 (Config.choice s.fresh))
    let h := gvaDie o.base
    if s.moving h o.asid (gvaOff o.base) (max 1 o.extent) then s.retry
    else match s.objFails o (wordAt v 3) with
      | some r => s.wxs d (BitVec.ofNat 64 (2 ^ 63 + r)) 1
      | none =>
        let objs := (s.die h).objs
        let i := ((List.range 4096).find? fun i => !(Map.find objs i).any fun (q : Obj) => q.live).getD 0
        ((s.modDie h fun k => { k with objs := Map.put k.objs i o }).bump).wxs d (objHandle h i o) 1))))

/-- The lines of an object leave every slice of their home die; memory has what they held. -/
def State.flushObj (s : State) (d : Nat) (o : Obj) : State :=
  let ls := o.rowStarts.flatMap fun lo => (List.range (o.rowBytes / 128)).filterMap fun i =>
    match s.areaPlace o.asid (BitVec.ofNat 64 (lo + 128 * i)) with
    | some (.hbm e a _) => if e = d then some (a / 128) else none
    | _ => none
  s.modDie d fun k => { k with lines := k.lines.filterMap fun (l : Line) => if ls.contains l.line then l.shed else some l }

/-- An object is freed (R399): every copy on every die goes with it. -/
def State.dropObj (s : State) (d i : Nat) (o : Obj) : State :=
  ((otherDies d).foldl (fun s e => s.loseCopies (d, i) e) (s.flushObj d o)).modDie d fun k =>
    { k with objs := Map.put k.objs i { o with live := false, state := [] } }

/-- OBJDROP (R399): a release at package scope. -/
def execObjdrop (a : XReg) (s : State) : Res :=
  let x := s.rx a
  let d := field x 16 10 * 8 + field x 12 3
  .next (s.unlessAhead (
    match Map.find (s.die d).objs (field x 0 12) with
    | some o =>
      if o.live && o.asid == s.curCore.asid && objHandle d (field x 0 12) o == x then s.release (s.dropObj d (field x 0 12) o)
      else s.raise 5 cAccess x
    | none => s.raise 5 cAccess x))

/-! ## Queries (R400, R401) -/

/-- The word that MAPQ gives for a page. -/
def State.mapWord (s : State) (asid : BitVec 16) (p : Page) : Word :=
  let t := (s.die p.nominal).streaks.find? fun (t : Streak) => t.asid == asid && t.page == p.page * 2 ^ (p.size - 16)
  let bit := fun (i n : Nat) => field p.leaf i 1 * 2 ^ n
  BitVec.ofNat 64 (field p.leaf 40 24 * 2 ^ 40 + (match t with | some t => t.count % 16 * 2 ^ 14 + t.die % 8 * 2 ^ 11 | none => 0) +
    p.die % 8 * 2 ^ 8 + (if p.home.isSome then 2 ^ 7 else 0) + bit 6 6 + bit 5 5 +
    (if p.size = 16 then 0 else if p.size = 21 then 8 else 16) + field p.leaf 2 2 * 2 + 1)

/-- MAPQ (R400). -/
def execMapq (d a : XReg) (s : State) : Res :=
  let g := s.rx a
  let asid := s.curCore.asid
  .next (if s.barred (s.eid / 4096) (gvaDie g) then s.raise 5 cAccess g
    else if isDevice g then s.wxs d 0 1
    else if !s.missFree s.unit.sid 1 then s.missWait
    else if s.tablesBad asid g then s.raise 5 cLoadFault g
    else match s.findPage asid g with
      | (s, some p) => if (s.pagePlace p g).isSome then s.wxs d (s.mapWord asid p) 1 else s.wxs d 0 1
      | (s, none) => s.wxs d 0 1)

/-- A word of a range-lock entry. -/
def lockWord (l : RLock) (w : Nat) : Word :=
  match w with
  | 0 => BitVec.ofNat 64 (2 ^ 63 + (if l.dst then 2 ^ 62 else 0) + l.kind % 8 * 2 ^ 56 + l.tag % 256 * 2 ^ 40 + l.eid % 2 ^ 22)
  | 1 => l.first
  | 2 => l.last
  | _ => 0

/-- What RLQ reads of a tile's table. -/
def State.lockRead (s : State) (tile e w : Nat) : Word :=
  match Map.find (s.tile tile).locks e with
  | some l => lockWord l w
  | none => 0

/-- RLQ (R401): the table as it is 2 cycles after issue; until then the result follows it (`State.lockTurn`). -/
def execRlq (d a : XReg) (s : State) : Res :=
  let x := s.rx a
  let e := field x 0 5
  let w := field x 5 2
  .next (if d = 0 then s else
    ({ s with fresh := s.fresh + 1 }.pushPend
      { reg := some (.x d), val := (s.lockRead (s.eid / 2) e w).setWidth 4096, keep := 0, flags := 0, due := some (s.unit.now + 2),
        fixed := false, id := s.fresh + 1 }).modCur fun k => { k with rlqs := k.rlqs ++ [(s.fresh + 1, e, w)] })

/-- A core's turn comes: results of RLQ follow the table up to the cycle in which they are due. -/
def State.lockTurn (s : State) (eid : Nat) : State :=
  [0, 1, 2, 3].foldl (fun s i => if (s.strand (4 * eid + i)).rlqs.isEmpty then s else s.modStrand (4 * eid + i) fun k =>
    let l := k.rlqs.filter fun q => k.pend.any fun (p : Pend) => p.id == q.1 && p.due.any ((s.core eid).cycle ≤ ·)
    { k with rlqs := l, pend := k.pend.map fun (p : Pend) => match l.find? fun q => q.1 == p.id with
        | some q => { p with val := (s.lockRead (eid / 2) q.2.1 q.2.2).setWidth 4096 }
        | none => p }) s

end Sys2Proof.Machine
end

