-- ==== Sys2Proof/Machine/Launch.lean ====
section
/-!
DEFINITION. Launch packets (R359, R360, R402, R403): LAUNCH and the host's doorbell (R362, R441), the launch unit's choice of
candidates and cores, and reservations (R363).
-/
namespace Sys2Proof.Machine

open Sys2Proof

/-! ## A packet's form (R360) -/

/-- The cores of a package (R1, R10). -/
def State.pkgCores (s : State) (p : Nat) : Nat := s.dieCount p * 512

/-- A word of a package list: the package and its cores, none where bits 15:10 are not zero. -/
def listEntry (w : Nat) : Option (Nat × Nat) := if w / 2 ^ 10 % 64 = 0 then some (w % 2 ^ 10, w / 2 ^ 16) else none

/-- The 4-byte words of PLIST. -/
def plist (l : List Word) : List Nat := (List.range 16).map fun i => field (l.getD (8 + i / 2) 0) (32 * (i % 2)) 32

/-- Are the fields of a packet, apart from its list, inside their limits? -/
def pktFormed (l : List Word) : Bool :=
  let w0 := l.getD 0 0
  let w1 := l.getD 1 0
  let np := pktNpkg l
  field w0 0 16 == 1 && field w0 18 4 == 0 && 1 ≤ pktW l && pktW l ≤ 4 &&
    1 ≤ pktN l && pktN l ≤ 4194304 && !(pktPair l && pktN l % 2 == 1) &&
    field w1 49 7 == 0 && field w1 57 7 == 0 && (pktEntry l).toNat % 8 == 0 && (pktTmpl l).toNat % 128 == 0 &&
    (pktDonea l).toNat % 8 == 0 && field (l.getD 6 0) 0 32 ≤ 65535 && 1 ≤ np && np ≤ 512 && field (l.getD 6 0) 48 16 == 0 &&
    (if np ≤ 16 then pktPkgl l == 0 && ((plist l).drop np).all (· == 0)
     else pktPkgl l != 0 && (pktPkgl l).toNat % 4 == 0 && (plist l).all (· == 0))

/-- What list entries ask of each package: a package that is named twice gives its cores together, one that gives none is not asked
(DEDUCED, log entry 40). -/
def askedOf (es : List (Nat × Nat)) : List (Nat × Nat) :=
  ((es.map (·.1)).eraseDups.map fun p => (p, (es.filter fun e => e.1 == p).foldl (fun n e => n + e.2) 0)).filter fun e => e.2 != 0

/-- The packages and cores that list words give to a packet received by package p: each within a package, N together. -/
def State.pktList (s : State) (p : Nat) (l : List Word) (ws : List Nat) : Option (List (Nat × Nat)) :=
  if ws = [0] then (if pktN l ≤ s.pkgCores p then some [(p, pktN l)] else none)
  else
    let es := ws.filterMap listEntry
    if es.length = ws.length ∧ es.all (fun e => e.2 ≤ s.pkgCores e.1) ∧ es.foldl (fun n e => n + e.2) 0 = pktN l
    then some (askedOf es) else none

/-- The list of a packet: in the packet, or read at PKGL with its ASID and world (R360). None where the packet is malformed; the
Boolean is set while a function that the read needs is not usable yet. -/
def State.readList (s : State) (p : Nat) (l : List Word) : State × Option (List (Nat × Nat)) × Bool :=
  let n := pktNpkg l
  if n ≤ 16 then (s, s.pktList p l ((plist l).take n), false)
  else match s.hwLoad (p * 128) (BitVec.ofNat 16 (pktAsid l)) (pktWld l) (pieces (pktPkgl l) (4 * n)) with
    | (s, .value v) => (s, s.pktList p l ((List.range n).map fun i => v / 2 ^ (32 * i) % 2 ^ 32), false)
    | (s, .wait) => (s, none, true)
    | (s, _) => (s, none, false)

/-! ## The access-control table (R402, R403) -/

/-- SRC and SID of a source. -/
def srcCode : LaunchSrc → Nat × Nat
  | .job a => (0, a)
  | .peer p => (1, p)
  | .host f => (2, f)

/-- Does the entry of words w and v decide for a source and an ASID? -/
def aclDecides (w v : Word) (src : LaunchSrc) (asid : Nat) : Bool :=
  w.getLsbD 0 && field w 1 2 == (srcCode src).1 && (v.getLsbD 5 || field w 16 16 == (srcCode src).2) &&
    field w 32 16 ≤ asid && asid ≤ field w 48 16

/-- Does word 1 of the entry that decides allow the packet? -/
def aclAllows (v : Word) (l : List Word) : Bool :=
  pktPrio l ≤ field v 0 2 && (!pktPe l || v.getLsbD 2) && (!pktNp l || v.getLsbD 3) && (!pktWld l || v.getLsbD 4)

/-- Is a packet accepted by the table of queue q? -/
def State.aclAccepts (s : State) (p q : Nat) (src : LaunchSrc) (l : List Word) : Bool :=
  let entry := fun (i : Nat) =>
    let a := TA + 0x310000 + 0x400 * q + 16 * i
    (s.hbm64 (8 * p) a, s.hbm64 (8 * p) (a + 8))
  match ((List.range 64).map entry).find? fun e => aclDecides e.1 e.2 src (pktAsid l) with
  | some e => aclAllows e.2 l
  | none => false

/-! ## Queues -/

def Pkg.queue (k : Pkg) (q : Nat) : List Packet := Map.get [] k.queues q
def State.setQueue (s : State) (p q : Nat) (l : List Packet) : State := s.modPkg p fun k => { k with queues := Map.putC [] k.queues q l }

/-- The status of a submission (R362): 3 malformed, 2 refused by the table, 1 queue full, 0 accepted; none while it must wait. -/
def State.submit (s : State) (p q : Nat) (src : LaunchSrc) (l : List Word) : State × Option Nat :=
  if !pktFormed l then (s, some 3)
  else match s.readList p l with
    | (s, _, true) => (s, none)
    | (s, none, false) => (s, some 3)
    | (s, some es, false) =>
      if !s.aclAccepts p q src l then (s, some 2)
      else if 32 ≤ ((s.pkg p).queue q).length then (s, some 1)
      else
        let k : Packet := { words := l, list := es, src := src, arrival := s.fresh, ticks := 0, resume := none }
        ((s.setQueue p q ((s.pkg p).queue q ++ [k])).bump, some 0)

/-! ## Cores for a packet (R363) -/

/-- The reduction sets of die d's Meridian unit: one for each gang on it but those of `gone`, resident or with cores reserved by a
reservation that `but` does not leave out (R171). -/
def State.setsOn (s : State) (d : Nat) (gone : List Nat) (but : Nat → Bool) : Nat :=
  (s.jobs.filter fun b => !gone.contains b.1 && b.2.cores.any fun e => e / 512 == d).length +
    ((s.pkg (d / 8)).held.filter fun h => !but h.1 && h.2.any fun e => e / 512 == d).length

/-- Are the functions of die d usable for a gang, with a Meridian set free (R171, R444)? -/
def State.dieOpen (s : State) (d : Nat) (gone : List Nat) (but : Nat → Bool) : Bool := s.dieReady d && s.setsOn d gone but < 256

/-- May cores of a cluster be placed: not HOT, OVER or retired (R363, R415)? -/
def State.cluOpen (s : State) (clu : Nat) : Bool :=
  let k := s.cluster clu
  !k.hot && !k.overBit && !k.retd

/-- Is a core reserved for a candidate? -/
def State.coreHeld (s : State) (eid : Nat) : Bool := (s.pkg (eid / 4096)).held.any fun h => h.2.contains eid

/-- Is a core free? -/
def State.freeCore (s : State) (eid : Nat) : Bool := (s.core eid).job.isNone && !s.coreHeld eid

/-- The cores of a cluster that `ok` allows, in ascending EID; whole tiles for PAIR. -/
def cluCores (clu : Nat) (pair : Bool) (ok : Nat → Bool) : List Nat :=
  if pair then
    (List.range 16).flatMap fun t =>
      let e := clu * 32 + 2 * t
      if ok e && ok (e + 1) then [e, e + 1] else []
  else ((List.range 32).map fun c => clu * 32 + c).filter ok

/-- The clusters of a package, in ascending number. -/
def State.pkgClusters (s : State) (p : Nat) : List Nat := (List.range (s.dieCount p * 16)).map fun c => p * 128 + c

/-- The first n cores of package p that `ok` allows, in clusters of open dies that may be placed; none where there are fewer. -/
def State.pickCores (s : State) (p n : Nat) (pair : Bool) (open_ ok : Nat → Bool) : Option (List Nat) :=
  let dies := ((List.range (s.dieCount p)).map fun d => p * 8 + d).filter open_
  let clus := (s.pkgClusters p).filter fun c => dies.contains (c / 16) && s.cluOpen c
  let l := (clus.flatMap fun c => cluCores c pair ok).take n
  if l.length = n then some l else none

/-- Can package p never hold n cores: with every core free, its retired clusters and failed dies leave fewer? -/
def State.neverHolds (s : State) (p n : Nat) (pair : Bool) : Bool :=
  let lost := fun (c : Nat) => (s.cluster c).retd || [0, 1, 2, 3, 4, 5, 6].any fun k => s.gone p (dieBit (c / 16) k)
  let l := ((s.pkgClusters p).filter fun c => !lost c).flatMap fun c => cluCores c pair fun _ => true
  l.length < n || (pair && n % 2 == 1)

/-! ## Candidates (R363) -/

/-- Effective priority: one step for each 4 ms, that is 250 ticks of 16 microseconds, at the head. -/
def Packet.priority (k : Packet) : Nat := min 3 (pktPrio k.words + k.ticks / 250)

/-- Of two candidates (queue and packet), is the first tried before the second? -/
def before (a b : Nat × Packet) : Bool :=
  b.2.priority < a.2.priority || (b.2.priority == a.2.priority &&
    (a.2.arrival < b.2.arrival || (a.2.arrival == b.2.arrival && a.1 < b.1)))

/-- The heads of the queues of package p that are not waiting to retry, and whose residence does not wait for a page. -/
def State.candidates (s : State) (p : Nat) : List (Nat × Packet) :=
  (List.range 16).filterMap fun q => match (s.pkg p).queue q with
    | [] => none
    | k :: _ => if s.flight.contains (.launchRetry p q) || s.isHeld (· == .residence p q) then none else some (q, k)

def firstOf (l : List (Nat × Packet)) : Option (Nat × Packet) :=
  l.foldl (fun best c => match best with
    | none => some c
    | some b => if before c b then some c else some b) none

/-- The number of a reservation at a listed package: for queue q of package `from_`. -/
def resvKey (from_ q : Nat) : Nat := from_ * 16 + q

/-- DONEV of a packet that goes without a job is stored at DONEA, and the host told (R363, R442). A page that is not there leaves
the word unstored. -/
def State.doneWithout (s : State) (p q : Nat) (k : Packet) (v : Word) : State :=
  let a := pktDonea k.words
  let s := if a = 0 then s
    else (s.hwStore (p * 128) (BitVec.ofNat 16 (pktAsid k.words)) (pktWld k.words) v.toNat (pieces a 8)).1
  match k.src with
  | .host f => s.msix p f (32 + q)
  | _ => s

/-- The launch unit of package p tries its first candidate: a packet that no package can ever hold is removed; otherwise every
listed package is asked to reserve. One candidate is tried at a time. -/
def State.considerFuel (s : State) (p : Nat) : Nat → State
  | 0 => s
  | fuel + 1 =>
    if (s.pkg p).stopped || !s.ready p 76 || s.flight.any (fun e => match e with | .residence r _ => r == p | _ => false) then s
    else match firstOf (s.candidates p) with
      | none => s
      | some (q, k) =>
        if k.list.any fun e => s.neverHolds e.1 e.2 (pktPair k.words) then
          let s := match k.resume with
            | some j => { s with jobs := Map.del s.jobs j }
            | none => s
          State.considerFuel ((s.setQueue p q (((s.pkg p).queue q).drop 1)).doneWithout p q k 0xFFFFFFFFFFFFFFFF) p fuel
        else
          (k.list.foldl (fun s e => s.later (.placementReservation e.1 p q .reserve e.2)) s).later (.residence p q)

def State.consider (s : State) (p : Nat) : State := s.considerFuel p 512

/-- Every launch unit reconsiders its queues. -/
def State.considerAll (s : State) : State := s.pkgs.foldl (fun s (p, _) => s.consider p) s

/-- PLACEMENT_TICK (R363): every 16 microseconds the queues are reconsidered. -/
def execPlacementTick (pkg : Nat) (s : State) : Res :=
  .next ((s.modPkg pkg fun k =>
    { k with clock := k.clock + 1,
             queues := k.queues.map fun e => (e.1, match e.2 with
               | [] => []
               | h :: r => { h with ticks := h.ticks + 1 } :: r) }).consider pkg)

/-- LAUNCH_RETRY (R363): a candidate whose reservation failed is tried again. -/
def execLaunchRetry (pkg q : Nat) (s : State) : Res :=
  .next (if (s.pkg pkg).queue q = [] then s else s.consider pkg)

/-- PLACEMENT_RESERVATION (R363): a listed package reserves cores for the head of queue q of package `from_`, none where it cannot;
a commit or a release ends the reservation. The launch unit holds the request until it is usable (R444). -/
def execPlacementReservation (pkg from_ q : Nat) (op : ResvOp) (cores : Nat) (s : State) : Res :=
  .next (match op with
  | .reserve =>
    if !s.ready pkg 76 && !s.gone pkg 76 then s.notYet
    else
      let pair := match (s.pkg from_).queue q with
        | k :: _ => pktPair k.words
        | [] => false
      let pick := s.pickCores pkg cores pair (fun d => s.dieOpen d [] (· == resvKey from_ q)) s.freeCore
      let l := if (s.pkg pkg).stopped || s.gone pkg 76 then [] else pick.getD []
      s.modPkg pkg fun k => { k with held := Map.put k.held (resvKey from_ q) l }
  | _ => s.modPkg pkg fun k => { k with held := Map.del k.held (resvKey from_ q) })

/-! ## Submission -/

/-- LAUNCH_PACKET_ARRIVAL (R359, R403): a packet reaches the launch unit; its status goes to the strand that waits for it, or to the
window of the host's function. Where the launch unit has failed, the strand takes ACCESS, and the window shows a refusal (R444, log entry
37). -/
def execLaunchPacketArrival (pkg q : Nat) (src : LaunchSrc) (ret : Option (Nat × Nat)) (words : List Word) (s : State) : Res :=
  .next (
    if !s.ready pkg 76 then
      (match s.gone pkg 76, ret, src with
       | true, some (sid, id), _ => (s.modStrand sid fun k => k.forget (s.cycleOf sid) id).post sid cAccess (BitVec.ofNat 64 (pkg * 4096)) none
       | true, none, .host f =>
         (s.modPkg pkg fun k => k.setWindow f q { k.window f q with st := 2, busy := false }).msix pkg f (16 + q)
       | _, _, _ => s.notYet)
    else match s.submit pkg q src words with
      | (s, none) => s.notYet
      | (s, some st) =>
        let s := match ret with
          | some (sid, id) => (s.modStrand sid fun k => k.receive (s.cycleOf sid) id fun _ => BitVec.ofNat 4096 st).poke (sid / 4)
          | none => s
        let s := match src with
          | .host f => (s.modPkg pkg fun k => k.setWindow f q { k.window f q with st := st, busy := false }).msix pkg f (16 + q)
          | _ => s
        if st = 0 then s.consider pkg else s)

/-- DOORBELL (R438, R441): the buffer is submitted; a write while BUSY = 1 is dropped. There are 64 functions with 16 windows each. -/
def execDoorbell (pkg fn q : Nat) (s : State) : Res :=
  let w := (s.pkg pkg).window fn q
  .next (if w.busy || 64 ≤ fn || 16 ≤ q then s
    else (s.modPkg pkg fun k => k.setWindow fn q { w with busy := true, nsub := w.nsub + 1 }).later
      (.launchPacketArrival pkg q (.host fn) none w.buf))

/-- LAUNCH (R362): a release at system scope; the packet is read at issue, and its status is scoreboarded. -/
def execLaunch (d a b : XReg) (s : State) : Res :=
  let x := s.rx a
  let q := field (s.rx b) 0 4
  let p := field (s.rx b) 4 10
  let own := s.eid / 4096
  .next (s.unlessAhead (s.checked (s.check [x] 128 128 false false true true) (s.release (s.withRead x 128 fun s v =>
    if p ≠ own ∧ !s.ready p 81 then s.wxs d 4 1
    else if s.cut own p then s.raise 5 cAccess (BitVec.ofNat 64 (p * 4096))
    else
      let id := s.fresh + 1
      let src := if p = own then .job s.curCore.asid.toNat else .peer own
      ({ s with fresh := id }.wlater (.x d) 0 id).later
        (.launchPacketArrival p q src (some (s.unit.sid, id)) ((List.range 16).map (wordAt v)))))))

end Sys2Proof.Machine
end

