-- ==== Sys2Proof/Machine/Preempt.lean ====
section
/-!
DEFINITION. Pre-emption (R364): the request, the forced deadline (R114), the state in which a strand is saved (R76, R161, R200),
and the save of a gang (R74, R296, R330, R339, R350); and how a job's cores become free.
-/
namespace Sys2Proof.Machine

open Sys2Proof

/-! ## What is a job's own -/

/-- Does an event belong to the cores of a job, or to the job j itself? -/
def evOf (cores : List Nat) (j : Nat) (e : Ev) : Bool :=
  let core := fun (c : Nat) => cores.contains c
  let strand := fun (k : Nat) => cores.contains (k / 4)
  match e with
  | .loadWaitSwitch k => strand k
  | .watchdog c => core c
  | .dormantDispatch c => core c
  | .delegatedDispatch k => strand k
  | .delegatedReload k => strand k
  | .exchange x => strand x.src || strand x.dst
  | .reply m => core m.dest
  | .refusal m => core m.dest
  | .engineFaultTaken k => strand k
  | .collectiveContribution b _ _ => b == j
  | .dieLanes b _ => b == j
  | .planeReduction b => b == j
  | .collectiveOutcome k => strand k
  | .heldStoreDrain k => strand k
  | .cbarComplete b _ => b == j
  | .stealProbe c => core c
  | .stealRoundTimer c => core c
  | .theft t _ _ => strand t
  | .stolenRecordStart k => strand k
  | .syncPoll k => strand k
  | .tokenPass b => b == j
  | .sideLogReplay c _ => core c
  | .accessPerformed c _ => core c
  | .preemptDeadline b => b == j
  | .contextSave b => b == j
  | .jobCompletion b => b == j
  | .kill b => b == j
  | .matrixPanelLatch t => core (2 * t + 1)
  | .matrixRowEntry t => core (2 * t + 1)
  | .matrixRowAccumulate t => core (2 * t + 1)
  | .matrixTagComplete t _ => core (2 * t + 1)
  | .ringStallStop t => core (2 * t + 1)
  | .drainRow t => core (2 * t + 1)
  | .engineCommandStart (.matrix t) => core (2 * t + 1)
  | e => (match evMsg e with
    | some m => core m.src
    | none => false)

/-- Is a step the completion of a command of these cores, or another of their steps? -/
def State.theirs (s : State) (cores : List Nat) (j : Nat) (e : Ev) : Bool :=
  match e with
  | .engineCompletion g t => (match Map.find (s.engine g).running t with
    | some m => cores.contains m.src
    | none => false)
  | e => evOf cores j e

/-- The steps of a job are gone: those set off, and those that an open fault holds, whose record stays (R406). -/
def State.dropEvents (s : State) (cores : List Nat) (j : Nat) : State :=
  { s with flight := s.flight.filter fun e => !s.theirs cores j e,
           dies := s.dies.map fun (d, k) => (d, { k with faults := (k.faults.map fun (f : OpenFault) =>
             { f with held := f.held.filter fun q => !s.theirs cores j q.2 }).filter fun f => f.num.isSome || !f.held.isEmpty }) }

def Engine.without (g : Engine) (cores : List Nat) : Engine :=
  let mine := fun (t : Nat) => match Map.find g.running t with
    | some m => cores.contains m.src
    | none => false
  { inbox := g.inbox.filter fun m => !cores.contains m.src, running := g.running.filter fun r => !cores.contains r.2.src,
    prog := g.prog.filter fun r => !mine r.1 }

/-- A job's commands, ranges and ring advances are gone from the engines and tiles (R365). -/
def State.dropEngines (s : State) (cores : List Nat) : State :=
  let ours := fun (by_ : Option Nat) => match by_ with
    | some w => cores.contains (w % 2 ^ 24 / 4)
    | none => false
  { s with
    tiles := s.tiles.map fun (t, k) => (t, { k with
      locks := k.locks.filter fun l => !cores.contains l.2.eid, copy := k.copy.without cores,
      semq := k.semq.filter fun q => !cores.contains (q.2 / 4),
      matrix := if cores.contains (2 * t + 1) then Matrix.reset else k.matrix,
      rings := k.rings.map fun r => { r with waiting := if cores.contains (2 * t) && cores.contains (2 * t + 1) then []
                                                         else r.waiting.filter fun w => !ours w } }),
    clusters := s.clusters.map fun (c, k) => (c, { k with
      gather := k.gather.without cores, sortc := k.sortc.without cores,
      charges := k.charges.filter fun q => match q.sid with
        | some sid => !cores.contains (sid / 4)
        | none => !(32 ≤ q.req && cores.contains (c * 32 + 2 * (q.req - 32) + 1)) }) }

/-- A strand without work: OFF, its guard slots FREE; words posted to it stay pending (R59, R72, R114). Its counts of exchanges start from 0
again, also where it is saved (DESIGN CHOICE, log entry 89). -/
def Strand.freed (k : Strand) : Strand :=
  { Strand.reset with arch := { k.arch with g := Vector.replicate 16 .free }, ext := k.ext, stamp := k.stamp }

/-- A core's queues and logs are empty (R332). -/
def Core.emptied (c : Core) : Core :=
  { c with accs := [], side := [], reqs := [], swq := [], steal := { queue := [], probe := 0, drawn := [], busy := false } }

/-- A core without a job: nothing queued, its boost request nominal (R26, R416). -/
def Core.freed (c : Core) : Core := { c.emptied with job := none, jobid := 0, w := 0, boost := 0, wcount := 0, dirtyN := 0 }

/-- Everything of job j that runs stops: its strands are OFF, its queues and logs empty, its steps and engine work gone (R72, R365). -/
def State.quiet (s : State) (j : Nat) (cores : List Nat) : State :=
  cores.foldl (fun s e =>
    ([0, 1, 2, 3].foldl (fun s i => s.modStrand (4 * e + i) Strand.freed) s).modCore e Core.emptied)
    ((s.dropEvents cores j).dropEngines cores)

/-- The cores of job j return to the free pool; its dies keep nothing under the promise of its invariant loads (R237). -/
def State.freeCores (s : State) (j : Nat) (cores : List Nat) : State :=
  let s := cores.foldl (fun s e => s.modCore e Core.freed) (s.quiet j cores)
  { s with dies := s.dies.map fun (d, k) => (d, { k with kept := k.kept.filter fun (q : Kept) => q.job != j }) }

/-! ## The request (R72, R364) -/

/-- Is every result that a strand waits for there, apart from those of an open collective or exchange (R161, R200)? -/
def Strand.landed (k : Strand) : Bool :=
  let open_ := fun (id : Nat) => (match k.coll with | some c => c.id == id | none => false) || k.xop.any fun (x : XOpen) => x.id == id
  k.pend.all fun p => p.due.isSome || open_ p.id

/-- Is the strand's steal engine busy for it? -/
def State.stealing (s : State) (sid : Nat) : Bool := s.flight.any fun e => match e with
  | .theft t _ _ => t == sid
  | _ => false

/-- A BLOCKED strand under a pre-empt is HELD once its results have landed; a waiter leaves its queue (R72, R109). -/
def State.holdBlocked (s : State) (sid : Nat) : State :=
  let k := s.strand sid
  if k.preempt && k.st == .blocked && !k.midUnit && k.landed && !k.owesReply && !s.stealing sid then
    (s.modStrand sid fun k => { k.halted .blocked with poll := none }).modTile
      (sid / 8) fun t => { t with semq := t.semq.filter fun q => q.2 != sid }
  else s

/-- The strands of a job. -/
def Job.sids (b : Job) : List Nat := b.cores.flatMap fun e => [4 * e, 4 * e + 1, 4 * e + 2, 4 * e + 3]

/-- A pre-emption is requested: READY strands are HELD, BLOCKED ones once they may be, ACTIVE ones at their next YIELD. -/
def State.preemptJob (s : State) (j : Nat) : State :=
  match s.job j with
  | none => s
  | some b =>
    if b.preempt || b.cores.isEmpty then s
    else
      let s := s.setJob j { b with preempt := true }
      let s := b.sids.foldl (fun s sid =>
        (s.modStrand sid fun k => let k := { k with preempt := true }; if k.st == .ready then k.halt else k).holdBlocked sid) s
      (s.later (.contextSave j)).later (.preemptDeadline j)

/-- PREEMPT_DEADLINE (R72, R114): a strand at U is HELD, one at S or M takes PREEMPT at its next boundary; one that owes a reply
runs on (R339), and one HELD for a delegated trap is HELD for the pre-empt. -/
def execPreemptDeadline (job : Nat) (s : State) : Res :=
  .next (match s.job job with
  | none => s
  | some b => if !b.preempt then s
    else b.sids.foldl (fun s sid => s.modStrand sid fun k =>
      if !k.preempt || k.owesReply then k
      else match k.st with
        | .active => if k.arch.prv != 0 then { k with forced := true } else k.halted .active
        | .ready => if k.arch.prv != 0 then { k with forced := true } else k.halt
        | .held => (match k.why with
          | .delegated _ => { k with why := .preempted }
          | _ => k)
        | _ => k) s)

/-! ## The state in which a strand is saved -/

/-- The oldest exchange of a strand without a result. -/
def Strand.oldestX (k : Strand) : Option XOpen := k.xop.foldl (fun best (x : XOpen) => match best with
  | none => some x
  | some b => if x.id < b.id then some x else some b) none

/-- A strand that ran ahead goes back to its CBR: PC names it, SENT is 1, CSEQ is from before its advance, and its slot is as at its
issue (R76). -/
def Strand.foldAhead (k : Strand) (c : Checkpoint) : Strand :=
  let pc := match k.coll with
    | some o => o.pc
    | none => k.arch.pc
  let k := k.restore c
  { k with coll := none, sent := true, arch := { k.arch with pc := pc, cseq := k.arch.cseq - 1, g := k.arch.g.set! c.slot.toNat c.was } }

/-- A strand in an unresolved CVOTE, CMEM or GBAR goes back to that unit, and one in an unresolved CBAR withdraws (R200); one with an
exchange without a result goes back to the exchange (R161), one that is not BLOCKED on it too (DESIGN CHOICE, log
entry 71). -/
def Strand.foldOpen (k : Strand) : Strand :=
  let vote := k.coll.filter fun c => c.id != 0
  let pc := match k.oldestX, vote with
    | some x, some c => if c.id < x.id then c.pc else x.pc
    | some x, none => x.pc
    | none, some c => c.pc
    | none, none => k.arch.pc
  { k with arch := { k.arch with pc := pc, cseq := if k.coll.isSome then k.arch.cseq - 1 else k.arch.cseq }, coll := none,
           xop := [], xin := [], inCbar := false, cbarN := if k.inCbar then k.cbarN - 1 else k.cbarN,
           pend := k.pend.filter fun (p : Pend) => p.due.isSome }

/-- A HELD strand in the form in which it is saved. -/
def Strand.folded (k : Strand) : Strand :=
  if k.why != .preempted then k
  else match k.ra with
    | some c => (k.foldAhead c).foldOpen
    | none => k.foldOpen

/-! ## The save -/

/-- May a strand be saved as it stands? -/
def Strand.still (k : Strand) : Bool :=
  k.landed && (match k.st with
  | .off => true
  | .dormant => true
  | .held => k.why == .preempted && !k.midUnit
  | _ => false)

/-- Is a value of an exchange kept at its gateway, since its receiver has issued none of the four before it (R160)? A save discards it
(R161). -/
def State.xchgKept (s : State) (x : Xchg) : Bool :=
  let k := s.strand x.dst
  (if x.chain then k.chainN else k.maxN) + 4 ≤ x.num

/-- The values of a job's exchanges that are kept at their gateways are discarded. -/
def State.dropKept (s : State) (cores : List Nat) : State :=
  { s with flight := s.flight.filter fun e => match e with
    | .exchange x => !(cores.contains (x.dst / 4) && s.xchgKept x)
    | _ => true }

/-- Is anything of the job on its way: messages, replies, exchanges, contributions, outcomes, thefts, accesses (R161, R339)? Its
engines are looked at for themselves. -/
def State.jobMoves (s : State) (cores : List Nat) (j : Nat) : Bool := s.flight.any fun e => match e with
  | .tokenPass _ => false
  | .preemptDeadline _ => false
  | .contextSave _ => false
  | .stealProbe _ => false
  | .stealRoundTimer _ => false
  | .cbarComplete .. => false
  | .planeReduction _ => false
  | .loadWaitSwitch _ => false
  | .watchdog _ => false
  | .syncPoll _ => false
  | .matrixPanelLatch _ => false
  | .matrixRowEntry _ => false
  | .matrixRowAccumulate _ => false
  | .matrixTagComplete .. => false
  | .ringStallStop _ => false
  | .drainRow _ => false
  | .engineCommandStart _ => false
  | .exchange x => evOf cores j e && !s.xchgKept x
  | e => evOf cores j e

/-- Has an engine a command of the job, or the job's compute core a matrix command, or is one on its way (R26, R242, R295)? -/
def State.engineWork (s : State) (cores : List Nat) : Bool :=
  let has := fun (g : Engine) => g.inbox.any (fun m => cores.contains m.src) || g.running.any fun r => cores.contains r.2.src
  s.tiles.any (fun (t, k) => has k.copy || (cores.contains (2 * t + 1) && (!k.matrix.inbox.isEmpty || !k.matrix.runs.isEmpty))) ||
  s.clusters.any (fun (_, k) => has k.gather || has k.sortc) ||
  s.flight.any fun e => match e with
    | .engineCommand m => cores.contains m.src
    | _ => false

/-- Commands that wait on a software-bound slot of a strand to be saved are discarded (R347), and matrix commands that wait on a ring
are stopped (R297). -/
def State.stopEngines (s : State) (b : Job) : State :=
  let s := b.sids.foldl (fun s sid => ((List.range 16).foldl (fun s g =>
    if (s.strand sid).arch.g.getD g .free = .soft then s.resolveSlot sid (BitVec.ofNat 4 g) false else s) s)) s
  b.cores.foldl (fun s e => if e % 2 = 1 && !(s.matrix (e / 2)).runs.isEmpty then
    s.once (.ringStallStop (e / 2)) else s) s

/-- Has a strand that is to be saved a cause pending? -/
def Strand.mustTake (k : Strand) : Bool := (k.st == .dormant || k.st == .held && k.why == .preempted) && !k.posted.isEmpty

/-- A strand takes a cause that is pending, on itself, before it is saved (R269). -/
def State.takePosted (s : State) (sid : Nat) : State :=
  if (s.strand sid).mustTake then
    match nextPosted (s.strand sid).posted with
    | none => s
    | some (p, r) => s.takeCause sid p r
  else s

/-- A number's bytes as the context lays them out: words, then further fields. -/
def packAt (l : List (Nat × Nat)) : Nat := l.foldl (fun n (o, v) => n + v * 2 ^ (8 * o)) 0

/-- The record of a strand (R74). -/
def ctxRecord (a : Arch) (info : Nat) : Nat :=
  packAt ([(0, packWords (ctxWords a info)), (0x200, packWords a.ras)] ++
    ((List.range 8).map fun i => (0x300 + 128 * i, (a.getM (BitVec.ofNat 3 i)).toNat)) ++
    (List.range 16).map fun i => (0x700 + 512 * i, (a.getV (BitVec.ofNat 4 i)).toNat))

/-- The state that CTXINFO gives for a strand (R75). -/
def Strand.savedState (k : Strand) : StrandState := if k.st = .held then k.prior else k.st

/-- A message as its eight words (R333). -/
def kindNo : MsgKind → Nat
  | .request => 0 | .reply => 1 | .refusal => 2 | .resetAgent => 3 | .reserved c => 4 + c.toNat
def msgWords (m : Msg) : List Word :=
  [BitVec.ofNat 64 (m.dest + m.src * 2 ^ 22 + m.asid.toNat * 2 ^ 44 + (boolWord m.wld).toNat * 2 ^ 60 + kindNo m.kind * 2 ^ 61),
   BitVec.ofNat 64 (m.gen.toNat + m.guard.toNat * 2 ^ 16 + m.ssn * 2 ^ 20 + m.tag.getD 0x3FF * 2 ^ 22 + m.opc.toNat * 2 ^ 32),
   m.addr, m.ha, m.a0, m.a1, m.a2, m.a3]

/-- A lane as it is saved (R330): its count and the core's CNT, then the entries, oldest first. -/
def State.laneImage (s : State) (sid : Nat) : Nat :=
  let l := ((s.strand sid).lane.map (s.laneRead sid))
  packAt [(0, l.length), (8, (BitVec.ofInt 64 (s.core (sid / 4)).cnt).toNat),
    (64, packWords (l.flatMap fun (e : LaneEntry) => [e.w0, e.fr, e.a0, e.a1]))]

/-- The rings of a tile as they are saved (R350). -/
def ringWords (r : Ring) : List Word :=
  [BitVec.ofNat 64 (r.head.toNat + r.tail.toNat * 2 ^ 16 + r.sl * 2 ^ 32 + r.sb.toNat * 2 ^ 36 + (if r.v then 2 ^ 63 else 0)),
   BitVec.ofNat 64 (r.base + r.waiting.length * 2 ^ 32)]

/-- The areas that a core's save writes beside the records: from CTXBASE of which strand, at which offset, how many bytes, what. -/
def State.saveAreas (s : State) (b : Job) (eid : Nat) : List (Nat × Nat × Nat × Nat) :=
  let t := s.tile (eid / 2)
  let whole := b.cores.contains (eid / 2 * 2) && b.cores.contains (eid / 2 * 2 + 1)
  let strands := [0, 1, 2, 3].map fun i =>
    let k := s.strand (4 * eid + i)
    (i, 0, 0x2700, ctxRecord (k.land (lastKnown (s.cycleOf eid) k.pend)).arch (ctxInfo k.sent i k.arch k.savedState))
  let lanes := ([0, 1, 2, 3].filter (· < b.w)).map fun i => (i, 0xC000, 0x8840, s.laneImage (4 * eid + i))
  let pal := t.matrix.palette
  let engine := if eid % 2 = 1 then
      [(0, 0x2800, 0x80 + (if palValid pal then panelBytes (palWf pal) (palSp pal) else 0),
        packAt ((0, pal.toNat) :: (if palValid pal then [(0x80, t.matrix.panel % 2 ^ (8 * panelBytes (palWf pal) (palSp pal)))] else [])))]
    else if whole then [(0, 0x2800, 128, packWords (t.rings.toList.flatMap ringWords))]
    else []
  let q := (s.core eid).swq
  strands ++ lanes ++ engine ++ [(0, 0x14900, 576, packAt [(0, q.length), (64, packWords (q.flatMap msgWords))])]

/-- Write pieces, but for those in the regions that the save has been refused (R269). -/
def State.saveStore (s : State) (b : Job) (eid v : Nat) : List Piece → State × Got
  | [] => (s, .value 0)
  | p :: r =>
    if b.lost.contains (regionOf p.gva) then State.saveStore s b eid (v / 2 ^ p.bits) r
    else match s.coreStore eid b.asid (pktWld b.words) v [p] with
      | (s, .value _) => State.saveStore s b eid (v / 2 ^ p.bits) r
      | g => g

/-- Write the areas of a core: what stops it, with the strand whose area it is. A strand that has not been told of the refusal of a page
of its areas stops it too. -/
def State.writeAreas (s : State) (b : Job) (eid : Nat) : List (Nat × Nat × Nat × Nat) → State × Nat × Got
  | [] => (s, 0, .value 0)
  | (i, off, n, v) :: r =>
    let sid := 4 * eid + i
    let ps := pieces ((s.strand sid).arch.ctxbase + BitVec.ofNat 64 off) n
    match ps.find? fun p => b.lost.contains (regionOf p.gva) && !b.told.contains sid with
    | some p => (s, sid, .denied p.gva)
    | none => (match s.saveStore b eid v ps with
      | (s, .value _) => State.writeAreas s b eid r
      | (s, g) => (s, sid, g))

/-- Write the areas of every core. -/
def State.writeContexts (s : State) (b : Job) : List Nat → State × Nat × Got
  | [] => (s, 0, .value 0)
  | e :: r =>
    match s.writeAreas b e (s.saveAreas b e) with
    | (s, _, .value _) => State.writeContexts s b r
    | g => g

/-- A page of a save area is refused (R269, R296): what lies in it is discarded, and the strand whose area it is takes ACCESS, once, before
it is saved. -/
def State.loseArea (s : State) (j sid : Nat) (g : Word) : State :=
  let s := s.modJob j fun b => { b with lost := if b.lost.contains (regionOf g) then b.lost else b.lost ++ [regionOf g],
                                        told := if b.told.contains sid then b.told else b.told ++ [sid] }
  if (s.strand sid).st = .off then s else s.post sid cAccess g none

/-- The lanes of an open collective as a save leaves them: each package's, those of members whose CBR has been sent, and those of members
that have departed since (R201). -/
def State.keepLanes (s : State) (b : Job) : Coll :=
  let sent := b.coll.got.filter fun g => g.1 < 2 ^ 40 && ((s.strand (b.sidOf g.1)).sent || b.departed.contains g.1)
  let of_ := fun (p : Nat) => b.coll.got.filter fun g => g.1 == keptKey p || (g.1 < 2 ^ 40 && b.sidOf g.1 / 16384 == p)
  let kept := (b.pkgs.filter fun p => !(of_ p).isEmpty).map fun p =>
    (keptKey p, (of_ p).foldl (fun l g => lanesMeet l g.2) lanesUnit)
  { got := kept.foldl (fun m e => Map.put m e.1 e.2) sent, dies := [] }

/-- The semaphores of the tiles that a job holds whole, by the LCN of the staging core. -/
def State.saveSems (s : State) (b : Job) : List (Nat × List (BitVec 16)) :=
  (List.range b.cores.length).filterMap fun l =>
    let e := b.cores.getD l 0
    if e % 2 = 0 && b.cores.contains (e + 1) then some (l, (s.tile (e / 2)).sem.toList) else none

/-- The gang has been written: its cores are free, and its resume record enters the head of its queue with its original arrival
time (R364). -/
def State.savedGang (s : State) (j : Nat) (b : Job) : State :=
  let b' : Job := { b with coll := s.keepLanes b, ctx := b.sids.map fun sid => (s.strand sid).arch.ctxbase, sems := s.saveSems b,
                           saved := b.cores, cores := [], preempt := false, token := 0, mark := false, sum := 0, lost := [], told := [],
                           parked := [] }
  let k : Packet := { words := b.words, list := b.pkgs.map fun p => (p, (b.cores.filter fun e => e / 4096 == p).length), src := b.src,
                      arrival := b.arrival, ticks := 0, resume := some j }
  (((s.freeCores j b.cores).setJob j b').setQueue b.pkg b.queue (k :: (s.pkg b.pkg).queue b.queue)).considerAll

/-- CONTEXT_SAVE (R74, R339, R364): once every strand of the gang is HELD, OFF or DORMANT, nothing of it is on its way, its engines
have finished and its side logs are empty, every context is written. An unmapped page waits for its service. -/
def execContextSave (job : Nat) (s : State) : Res :=
  .next (match s.job job with
  | none => s
  | some b =>
    if !b.preempt || b.cores.isEmpty || b.members.all b.returned.contains then s
    else
      let s := b.sids.foldl (fun s sid => s.holdBlocked sid) s
      let logs := b.cores.any fun e => !(s.core e).accs.isEmpty || !(s.core e).side.isEmpty
      if logs || !(b.sids.all fun sid => (s.strand sid).still) || s.jobMoves b.cores job || s.isHeld (evOf b.cores job) then s.notYet
      else
        let s := b.sids.foldl (fun s sid => s.modStrand sid Strand.folded) (s.dropKept b.cores)
        if s.engineWork b.cores then (s.stopEngines b).notYet
        else if b.cores.any fun e => !(s.core e).reqs.isEmpty then s.notYet
        else if b.sids.any fun sid => (s.strand sid).mustTake then
          (b.sids.foldl (fun s sid => s.takePosted sid) s).notYet
        else match s.writeContexts b b.cores with
          | (s, _, .value _) => s.savedGang job b
          | (s, sid, .unmapped g) => s.holdEv sid b.asid g .store (.contextSave job)
          | (s, sid, .denied g) => (s.loseArea job sid g).notYet
          | (s, sid, .poison g) => (s.loseArea job sid g).notYet
          | (s, _, .wait) => s.notYet)

end Sys2Proof.Machine
end

