-- ==== Sys2Proof/Machine/Residence.lean ====
section
/-!
DEFINITION. A gang becomes resident (R16, R24, R25, R62, R361, R363), or is restored (R72, R75, R77, R201, R296, R330, R350); a
candidate that cannot be placed pre-empts (R364); a job ends or is killed (R26, R72, R298).
-/
namespace Sys2Proof.Machine

open Sys2Proof

/-! ## Victims (R364) -/

/-- Resident jobs with cores on the packages of a candidate that it may pre-empt, lowest PRIO first, then latest residence first. -/
def insertVictim (c : Nat × Job) : List (Nat × Job) → List (Nat × Job)
  | [] => [c]
  | d :: r =>
    let first := pktPrio c.2.words < pktPrio d.2.words || (pktPrio c.2.words == pktPrio d.2.words && d.2.order < c.2.order)
    if first then c :: d :: r else d :: insertVictim c r

def State.victims (s : State) (k : Packet) : List (Nat × Job) :=
  (s.jobs.filter fun (b : Nat × Job) => (b.2.cores.any fun e => k.list.any fun l => l.1 == e / 4096) && !b.2.preempt &&
    !pktNp b.2.words && pktPrio b.2.words < pktPrio k.words).foldl (fun l c => insertVictim c l) []

/-- Could every listed package hold the candidate if these jobs left, with those already being saved? -/
def State.fitsWithout (s : State) (p q : Nat) (k : Packet) (gone : List Nat) : Bool :=
  let gone := gone ++ (s.jobs.filter fun b => b.2.preempt).map (·.1)
  k.list.all fun e => (s.pickCores e.1 e.2 (pktPair k.words) (fun d => s.dieOpen d gone (· == resvKey p q)) fun c =>
    (match (s.core c).job with
     | none => true
     | some j => gone.contains j || (s.job j).isNone) &&
    !((s.pkg e.1).held.any fun h => h.1 != resvKey p q && h.2.contains c)).isSome

/-- The choices of n from a list, those that take earlier ones first. -/
def choose : Nat → List Nat → List (List Nat)
  | 0, _ => [[]]
  | _ + 1, [] => []
  | n + 1, a :: r => (choose n r).map (a :: ·) ++ choose (n + 1) r

/-- The fewest victims that free enough cores, of those the first in order (log entry 43); none where all together do not. -/
def State.chooseVictims (s : State) (p q : Nat) (k : Packet) (l : List Nat) : List Nat :=
  ((((List.range (l.length + 1)).flatMap fun n => choose n l).find? fun v => s.fitsWithout p q k v)).getD []

/-- The reservations of a candidate are released, it waits to retry, and with PE it pre-empts. -/
def State.placeFails (s : State) (p q : Nat) (k : Packet) : State :=
  let s := k.list.foldl (fun s e => s.later (.placementReservation e.1 p q .release e.2)) s
  let s := s.once (.launchRetry p q)
  let s := if pktPe k.words then
      (s.chooseVictims p q k ((s.victims k).map (·.1))).foldl (fun s j => s.preemptJob j) s
    else s
  s.consider p

/-! ## The values at residence (R62, R361) -/

/-- The template's fields. -/
def tmplCtx (t : List Word) (i : Nat) : Word := (t.getD 0 0 + BitVec.ofNat 64 (i * field (t.getD 1 0) 0 32)) &&& ~~~0xFF
def tmplRsb (t : List Word) (i : Nat) : Word := (t.getD 2 0 + BitVec.ofNat 64 (i * field (t.getD 3 0) 0 32)) &&& ~~~7
def tmplRslen (t : List Word) : Word := BitVec.ofNat 64 (field (t.getD 3 0) 32 32)
def tmplDqoff (t : List Word) : Nat := field (t.getD 5 0) 0 32
/-- The ring that a ring word sets up, none where V = 0 or the word breaks the limits of RINGI (R349). -/
def tmplRing (t : List Word) (n : Nat) : Option Ring :=
  let w := t.getD (6 + n) 0
  if w.getLsbD 63 then ringOf (BitVec.ofNat 64 (field w 0 20)) (BitVec.ofNat 64 (field w 20 4 + field w 24 12 * 2 ^ 8)) else none

/-- The registers of a strand at residence; what the spec does not list keeps its value. -/
def Arch.resident (a : Arch) (b : Job) (t : List Word) (lcn sn : Nat) : Arch :=
  let i := 4 * lcn + sn
  { Arch.reset with
    cause := a.cause, epc := a.epc, eval := a.eval, mbset := b.mbset,
    mbidx := if sn < b.w then BitVec.ofNat 32 (lcn * b.w + sn) else 0xFFFFFFFF, mbcnt := BitVec.ofNat 32 (b.cores.length * b.w),
    pc := if sn < b.w then pktEntry b.words else a.pc, status := if pktWld b.words then 0x84 else 0,
    tvec := t.getD 4 0 &&& ~~~0xF2, rsbase := tmplRsb t i, rstop := tmplRsb t i, rslim := (tmplRsb t i + tmplRslen t) &&& ~~~7,
    ctxbase := tmplCtx t i }

/-- A strand at residence: a worker READY at the entry, another DORMANT. -/
def Strand.resident (k : Strand) (b : Job) (t : List Word) (lcn sn cycle : Nat) : Strand :=
  { Strand.reset with
    arch := k.arch.resident b t lcn sn, ext := k.ext, worker := sn < b.w, stamp := cycle,
    st := if sn < b.w then .ready else .dormant }

/-- What a core takes from the job it is granted to (R62, R77). -/
def Core.granted (c : Core) (b : Job) (j eid lcn : Nat) : Core :=
  { c.freed with job := some j, jobid := BitVec.ofNat 32 (pktJobid b.words), asid := b.asid, lcn := BitVec.ofNat 22 lcn, w := b.w,
                 marked := true, cnt := 0, seed := BitVec.ofNat 16 eid ||| 1 }

/-- The even cores of tiles that a job holds whole. -/
def Job.wholeTiles (b : Job) : List Nat := (b.cores.filter fun e => e % 2 == 0 && b.cores.contains (e + 1)).map (· / 2)

/-- A tile that a job comes to hold whole: semaphores zero, rings not set up (R109, R332). -/
def Tile.fresh (t : Tile) : Tile := { t with sem := Vector.replicate 8 0, semq := [], rings := Vector.replicate 8 Ring.reset }

/-- Cores are granted to job j: the core registers, their tiles and engines. -/
def State.grant (s : State) (j : Nat) (b : Job) : State :=
  let s := (List.range b.cores.length).foldl (fun s l =>
    let e := b.cores.getD l 0
    let s := s.modCore e fun c => c.granted b j e l
    if e % 2 = 1 then s.modTile (e / 2) fun t => { t with matrix := Matrix.reset } else s) s
  b.wholeTiles.foldl (fun s t => s.modTile t Tile.fresh) s

/-- A job is made resident (R62). -/
def State.makeResident (s : State) (j : Nat) (b : Job) (t : List Word) : State :=
  let s := (s.setJob j b).grant j b
  let s := (List.range b.cores.length).foldl (fun s l =>
    let e := b.cores.getD l 0
    let s := s.modCore e fun c => { c with dqbase := BitVec.ofNat 64 (tmplDqoff t + 128 * (e % 2)) &&& 0xFFFC0 }
    [0, 1, 2, 3].foldl (fun s i => s.modStrand (4 * e + i) fun k => k.resident b t l i (s.core e).cycle) s) s
  let s := b.wholeTiles.foldl (fun s n => (List.range 8).foldl (fun s r => match tmplRing t r with
    | some g => s.setRing n r g
    | none => s) s) s
  s.later (.tokenPass j)

/-! ## Restore -/

/-- Word i of a record at a byte offset. -/
def recWord (r off : Nat) : Word := BitVec.ofNat 64 (r / 2 ^ (8 * off))

/-- A guard slot from its code: a PENDING slot that was saved is bound by software. -/
def guardOf (n : Nat) : Guard := [Guard.free, .soft, .tru].getD n .fls

/-- The registers that a whole record gives (R74, R75); those of the job and CTXBASE are not in it (R77). -/
def restoreArch (a : Arch) (b : Job) (r lcn sn : Nat) (ctx : Word) : Arch :=
  let n := min 16 (recWord r 0x60).toNat
  let g := (recWord r 0xB0).toNat
  let q := reload a r
  { q with
    status := putBit q.status 9 false, ras := (List.range n).map fun i => recWord r (0x200 + 8 * i),
    depth := (recWord r 0x68).setWidth 32, cseq := (recWord r 0x78).setWidth 16,
    g := Vector.ofFn fun i => guardOf (g / 2 ^ (2 * i.val) % 4),
    m := Vector.ofFn fun i => BitVec.ofNat 1024 (r / 2 ^ (8 * (0x300 + 128 * i.val))),
    v := Vector.ofFn fun i => BitVec.ofNat 4096 (r / 2 ^ (8 * (0x700 + 512 * i.val))),
    mbset := b.mbset, mbidx := if sn < b.w then BitVec.ofNat 32 (lcn * b.w + sn) else 0xFFFFFFFF,
    mbcnt := BitVec.ofNat 32 (b.cores.length * b.w), ev := true, ctxbase := ctx }

/-- A message from its eight words, for a core. -/
def msgOf (eid : Nat) (w : List Word) : Msg :=
  let h0 := w.getD 0 0
  let h1 := w.getD 1 0
  { dest := eid, src := field h0 22 22, asid := BitVec.ofNat 16 (field h0 44 16), wld := h0.getLsbD 60, kind := .request,
    gen := BitVec.ofNat 16 (field h1 0 16), guard := BitVec.ofNat 4 (field h1 16 4), ssn := field h1 20 2,
    tag := if field h1 22 10 = 0x3FF then none else some (field h1 22 10), seq := 0, opc := BitVec.ofNat 16 (field h1 32 16),
    addr := w.getD 2 0, ha := w.getD 3 0, a0 := w.getD 4 0, a1 := w.getD 5 0, a2 := w.getD 6 0, a3 := w.getD 7 0 }

/-- A strand that is not a worker and was saved in a handler returns as one that a message without a reply dispatched. -/
def restoredOrigin (eid : Nat) (worker dormant : Bool) : Origin := if worker || dormant then .none else .message (msgOf eid [0, 0x3FF <<< 22])

/-- A restored strand (R72, R75). -/
def restoreStrand (k : Strand) (b : Job) (r eid lcn sn cycle : Nat) (ctx : Word) : Strand :=
  let info := recWord r 8
  let code := field info 0 3
  let arch := restoreArch k.arch b r lcn sn ctx
  { Strand.reset with
    arch := arch, flagSeen := arch.fmode.setWidth 5, ext := k.ext, worker := sn < b.w, stamp := cycle, sent := info.getLsbD 6,
    origin := restoredOrigin eid (sn < b.w) (code == 1 || code == 0),
    st := if code = 0 then .off else if code = 1 then .dormant else .ready }

/-- Read n bytes of a job's save areas. -/
def State.readArea (s : State) (b : Job) (eid : Nat) (g : Word) (n : Nat) : State × Got :=
  s.hwLoad (eid / 32) b.asid (pktWld b.words) (pieces g n)

/-- Read the areas of a list, or else say what the first that cannot be read meets. -/
def State.readAreas (s : State) (b : Job) (eid : Nat) : List (Word × Nat) → State × Except Got (List Nat)
  | [] => (s, .ok [])
  | (g, n) :: r => match s.readArea b eid g n with
    | (s, .value v) => (match State.readAreas s b eid r with
      | (s, .ok l) => (s, .ok (v :: l))
      | (s, .error x) => (s, .error x))
    | (s, x) => (s, .error x)

/-- The save areas of a core: four records, the area at 0x2800 (engine or rings), the queued messages, and the lanes. -/
def areaList (b : Job) (lcn : Nat) (engine : Nat) : List (Word × Nat) :=
  let c := fun (i : Nat) => b.ctx.getD (4 * lcn + i) 0
  ([0, 1, 2, 3].map fun i => (c i, 0x2700)) ++ [(c 0 + 0x2800, engine), (c 0 + 0x14900, 576)] ++
    ([0, 1, 2, 3].filter (· < b.w)).map fun i => (c i + 0xC000, 0x8840)

/-- The lane of a saved worker: entries are pushed again, oldest first, from push number 0 (R303, R330). -/
def State.restoreLane (s : State) (sid v : Nat) : State :=
  (List.range (v % 2 ^ 32)).foldl (fun s i =>
    let w := fun (n : Nat) => recWord v (64 + 32 * i + 8 * n)
    s.lanePush sid (laneEntry (w 0) (w 1) (w 2) (w 3))) s

/-- The rings of a tile from their saved words; the advances that waited wait again (R350). -/
def ringsOf (v : Nat) : Vector Ring 8 := Vector.ofFn fun n =>
  let a := recWord v (16 * n.val)
  let c := recWord v (16 * n.val + 8)
  { v := a.getLsbD 63, base := field c 0 20, sl := field a 32 4, sb := BitVec.ofNat 12 (field a 36 12),
    tail := BitVec.ofNat 16 (field a 16 16), head := BitVec.ofNat 16 (field a 0 16),
    waiting := List.replicate (field c 32 16) none }

/-- A core takes what was saved of the core of its LCN: `old` is that core's EID, `l` what its areas hold. -/
def State.restoreCore (s : State) (b : Job) (lcn old : Nat) (l : List Nat) : State :=
  let e := b.cores.getD lcn 0
  let s := [0, 1, 2, 3].foldl (fun s i => s.modStrand (4 * e + i) fun k =>
    restoreStrand k b (l.getD i 0) e lcn i (s.core e).cycle (b.ctx.getD (4 * lcn + i) 0)) s
  let a := l.getD 4 0
  let s := if e % 2 = 1 && old % 2 = 1 then
      s.modTile (e / 2) fun t => { t with matrix := { Matrix.reset with
        palette := recWord a 0, panel := if palValid (recWord a 0) then a / 2 ^ (8 * 0x80) else 0 } }
    else if b.wholeTiles.contains (e / 2) && e % 2 = 0 && b.saved.contains (old + 1) && old % 2 == 0 then
      (s.modTile (e / 2) fun t => { t with rings := ringsOf a, sem := match b.sems.find? fun q => q.1 == lcn with
        | some q => Vector.ofFn fun i => q.2.getD i.val 0
        | none => t.sem })
    else s
  let m := l.getD 5 0
  let queued := (List.range (m % 2 ^ 32)).map fun i => msgOf e ((List.range 8).map fun n => recWord m (64 + 64 * i + 8 * n))
  let s := s.modCore e fun c => { c with swq := queued, cnt := (recWord (l.getD 6 0) 8).toInt }
  (List.range b.w).foldl (fun s i => s.restoreLane (4 * e + i) (l.getD (6 + i) 0)) s

/-- Every core's areas, in LCN order. -/
def State.readSaved (s : State) (b : Job) : List Nat → State × Except Got (List (List Nat))
  | [] => (s, .ok [])
  | lcn :: r =>
    let pal := s.readArea b (b.cores.getD lcn 0) (b.ctx.getD (4 * lcn) 0 + 0x2800) 8
    let n := if b.saved.getD lcn 0 % 2 = 0 then 128
      else match pal.2 with
        | .value v => 0x80 + (if palValid (BitVec.ofNat 64 v) then panelBytes (palWf (BitVec.ofNat 64 v)) (palSp (BitVec.ofNat 64 v)) else 0)
        | _ => 8
    match pal.1.readAreas b (b.cores.getD lcn 0) (areaList b lcn n) with
    | (s, .error x) => (s, .error x)
    | (s, .ok l) => match State.readSaved s b r with
      | (s, .ok ls) => (s, .ok (l :: ls))
      | (s, .error x) => (s, .error x)

/-- A saved gang is restored on its packages: its LCNs stay, the open collective's count is set again, MARKED is 1 and the token is
at LCN 0 (R77, R201, R330). -/
def State.restoreGang (s : State) (j : Nat) (b : Job) (ls : List (List Nat)) : State :=
  let s := (s.setJob j b).grant j b
  let s := (List.range b.cores.length).foldl (fun s l => s.restoreCore b l (b.saved.getD l 0) (ls.getD l [])) s
  let s := s.setJob j { b with saved := [], ctx := [], sems := [] }
  let s := (b.cores.map (· / 512)).eraseDups.foldl (fun s d => s.dieCheck j d) s
  let s := (b.cores.map (· / 32)).eraseDups.foldl (fun s c => s.once (.cbarComplete j c)) s
  let s := b.cores.foldl (fun s e => if (s.core e).swq.isEmpty then s else s.once (.dormantDispatch e)) s
  s.later (.tokenPass j)

/-! ## RESIDENCE (R25, R363) -/

/-- The reserved cores of a list, by ascending package, and within a package as they were reserved. -/
def insertList (e : Nat × Nat) : List (Nat × Nat) → List (Nat × Nat)
  | [] => [e]
  | f :: r => if e.1 < f.1 then e :: f :: r else f :: insertList e r

def State.reservedCores (s : State) (p q : Nat) (k : Packet) : Option (List Nat) :=
  (k.list.foldl (fun l e => insertList e l) []).foldl (fun acc e => match acc, Map.find (s.pkg e.1).held (resvKey p q) with
    | some l, some m => some (l ++ m)
    | _, _ => none) (some [])

/-- Has the plane of a gang's set room for it: a gang that spans packages needs one of its 1024 sets (R437)? -/
def State.planeOpen (s : State) (b : Job) : Bool :=
  b.pkgs.length ≤ 1 || (s.jobs.filter fun (o : Nat × Job) => 1 < o.2.pkgs.length && s.gangPlane o.2 == s.gangPlane b).length < 1024

/-- The template of a packet, read with its ASID and world; words that are refused or poisoned are free values. -/
def State.template (s : State) (p : Nat) (k : Packet) : State × Except Got (List Word) :=
  match s.hwLoad (p * 128) (BitVec.ofNat 16 (pktAsid k.words)) (pktWld k.words) (pieces (pktTmpl k.words) 128) with
  | (s, .value v) => (s, .ok ((List.range 16).map (wordAt v)))
  | (s, .wait) => (s, .error .wait)
  | (s, .unmapped g) => (s, .error (.unmapped g))
  | (s, _) => (s.bump, .ok ((List.range 16).map fun i => BitVec.ofNat 64 (Config.measure i s.fresh)))

/-- A residence that could not read what it needs: an unmapped page is asked for in the name of the first core (R374, log entry 47). -/
def State.residenceWaits (s : State) (p q : Nat) (b : Job) : Got → State
  | .unmapped g => s.holdEv (4 * b.cores.headD 0) b.asid g .load (.residence p q)
  | _ => s.notYet

/-- The job of a packet that has its cores: a new one, or the saved one. MBSET is any set (log entry 14). -/
def State.jobFor (s : State) (p q : Nat) (k : Packet) (cores : List Nat) : Option (Nat × Job) :=
  match k.resume with
  | some j => (s.job j).map fun b => (j, { b with cores := cores, order := s.fresh })
  | none =>
    let b : Job :=
      { words := k.words, list := k.list, pkg := p, queue := q, src := k.src, arrival := k.arrival, cores := cores,
        mbset := BitVec.ofNat 16 (Config.choice s.fresh), coll := { got := [], dies := [] }, results := [], departed := [],
        returned := [], token := 0, mark := false, sum := 0, detections := 0, preempt := false, saved := [], ctx := [], sems := [],
        order := s.fresh, lost := [], told := [], parked := [] }
    some (s.fresh + 1, b)

/-- The packet leaves its queue, and its cores their reservation. -/
def State.placed (s : State) (p q : Nat) (k : Packet) : State :=
  (k.list.foldl (fun s e => s.modPkg e.1 fun g => { g with held := Map.del g.held (resvKey p q) }) s).setQueue p q
    (((s.pkg p).queue q).drop 1)

/-- RESIDENCE (R25, R62, R363): when every listed package has answered, all commit at once, or all are released. A gated cluster wakes
first (R421). -/
def execResidence (pkg q : Nat) (s : State) : Res :=
  .next (match (s.pkg pkg).queue q with
  | [] => s
  | k :: _ =>
    match s.reservedCores pkg q k with
    | none => s.notYet
    | some cores =>
      match s.jobFor pkg q k cores with
      | none => ((s.placed pkg q k).bump).consider pkg
      | some (j, b) =>
        if cores.length ≠ pktN k.words || !s.planeOpen b || (s.pkg pkg).stopped ||
            (cores.any fun e => 256 < s.setsOn (e / 512) [] fun _ => false) then s.placeFails pkg q k
        else
          let gated := (cores.map (· / 32)).eraseDups.filter fun c => (s.cluster c).gated
          if !gated.isEmpty then (gated.foldl (fun s c => s.once (.clusterWake c)) s).notYet
          else match k.resume with
            | some _ => (match s.readSaved b (List.range cores.length) with
              | (s, .ok ls) => (((s.placed pkg q k).bump).restoreGang j b ls).consider pkg
              | (s, .error x) => s.residenceWaits pkg q b x)
            | none => (match s.template pkg k with
              | (s, .ok t) => ((({ s.placed pkg q k with fresh := s.fresh + 1 } : State).makeResident j b t).consider pkg)
              | (s, .error x) => s.residenceWaits pkg q b x))

/-! ## The end of a job (R26) -/

/-- Before a job's completion signal the objects that it has declared are freed, and the Catalogue cache entries of its ASID go (R399). -/
def State.dropObjects (s : State) (j : Nat) (asid : BitVec 16) : State :=
  s.dies.foldl (fun s (d, k) =>
    let s := k.objs.foldl (fun s (i, o) => if o.live && o.job == some j then s.dropObj d i o else s) s
    s.modDie d fun k => { k with cat := k.cat.filter fun c => c.asid != asid }) s

/-- The job is over: its cores are free, the host is told, and the queues are reconsidered. -/
def State.endJob (s : State) (j : Nat) (b : Job) : State :=
  let s := (s.freeCores j b.cores)
  let s := { s with jobs := Map.del s.jobs j }
  let s := s.setQueue b.pkg b.queue (((s.pkg b.pkg).queue b.queue).filter fun k => k.resume != some j)
  let s := match b.src with
    | .host f => s.msix b.pkg f (32 + b.queue)
    | _ => s
  s.considerAll

/-- Store DONEV at DONEA; `f` goes on. A page that is not mapped holds the step `e`. -/
def State.storeDone (s : State) (b : Job) (e : Ev) (f : State → State) : State :=
  let a := pktDonea b.words
  let core := b.cores.headD (b.pkg * 4096)
  if a = 0 then f s
  else match s.hwStore (core / 32) b.asid (pktWld b.words) (pktDonev b.words).toNat (pieces a 8) with
    | (s, .value _) => f s
    | (s, .unmapped g) => if b.cores.isEmpty then f s else s.holdEv (4 * core) b.asid g .store e
    | (s, .wait) => s.notYet
    | (s, _) => f s

/-- JOB_COMPLETION (R26, R363): every worker has returned, and every access and engine command of the job is performed: DONEV is
stored and the cores are free. -/
def execJobCompletion (job : Nat) (s : State) : Res :=
  .next (match s.job job with
  | none => s
  | some b =>
    if b.cores.isEmpty || !b.members.all b.returned.contains then s
    else if s.engineWork b.cores || b.cores.any fun e => !(s.core e).accs.isEmpty || !(s.core e).side.isEmpty then s.notYet
    else (s.dropObjects job b.asid).storeDone b (.jobCompletion job) fun s => s.endJob job b)

/-- KILL (R72, R298, R365): every strand is OFF; queues, logs and engine work of the job are discarded, a matrix command at its next
row boundary; then DONEV is stored. -/
def execKill (job : Nat) (s : State) : Res :=
  .next (match s.job job with
  | none => s
  | some b =>
    if b.cores.any fun e => e % 2 == 1 && ((s.matrix (e / 2)).worker.any fun r => r.row.isSome) then s.notYet
    else ((s.quiet job b.cores).dropObjects job b.asid).storeDone b (.kill job) fun s => s.endJob job b)

end Sys2Proof.Machine
end

