-- ==== Sys2Proof/Machine/Power.lean ====
section
/-!
DEFINITION. Boost permits (R416-R418), ETQ (R413, R414), HOT and OVER (R415), clock changes (R419, R420), gating (R421), the Almanac
and the Vernier monitors (R425-R427), patrol scrubbing (R426), and the power limit (R451).
-/
namespace Sys2Proof.Machine

open Sys2Proof

/-! ## Requests (R416) -/

/-- BOOST: the core's request; it waits under run-ahead. -/
def execBoost (a : XReg) (s : State) : Res :=
  let n := field (s.rx a) 0 2
  let r := if n = 3 then (if (s.cluster (s.eid / 32)).vlim then 1 else 2) else n
  .next (s.unlessAhead (s.modCore s.eid fun c => { c with boost := r }))

/-- The cores of a cluster. -/
def cluEids (clu : Nat) : List Nat := (List.range 32).map fun c => clu * 32 + c

/-- The highest request among the granted cores of a cluster. -/
def State.rawRequest (s : State) (clu : Nat) : Nat :=
  (cluEids clu).foldl (fun m e => if (s.core e).job.isSome then max m (s.core e).boost else m) 0

/-- The request of a cluster: B1 at most with VLIM, nominal with RETD. -/
def State.request_ (s : State) (clu : Nat) : Nat :=
  let k := s.cluster clu
  if k.retd then 0 else if k.vlim then min 1 (s.rawRequest clu) else s.rawRequest clu

/-- The priority of a cluster's claim: the highest PRIO among the jobs whose cores' requests come to its own. -/
def State.claimPrio (s : State) (clu : Nat) : Nat :=
  let r := s.request_ clu
  (cluEids clu).foldl (fun m e => match s.jobOf e with
    | some b => if r ≤ (s.core e).boost then max m (pktPrio b.words) else m
    | none => m) 0

/-! ## ETQ (R413, R414) -/

/-- The status word. -/
def State.boostStatus (s : State) (clu : Nat) : Word :=
  let k := s.cluster clu
  let bit := fun (n : Nat) (b : Bool) => if b then 2 ^ n else 0
  BitVec.ofNat 64 (k.refill + bit 8 k.hot + bit 9 k.overBit + k.level * 2 ^ 10 + s.rawRequest clu * 2 ^ 12 + bit 14 k.retd + bit 15 k.vlim +
    clu % 128 * 2 ^ 16)

/-- The balance of the issuing core's cluster, sign-extended. -/
def State.balance (s : State) : Word := BitVec.ofInt 64 (s.cluster (s.eid / 32)).tokens

/-- ETQ (R413): reads the balance, the status word or the pool, or charges xa[31:16] tokens. -/
def execEtq (d a : XReg) (s : State) : Res :=
  let clu := s.eid / 32
  let x := s.rx a
  let p := s.pkg (s.eid / 4096)
  let now := s.modCluster clu fun k => k.runTo s.unit.now
  .next (match field x 0 4 with
  | 0 => now.wxs d now.balance 1
  | 1 => s.wxs d (s.boostStatus clu) 1
  | 2 => s.wxs d (BitVec.ofNat 64 (p.pool + p.pcap * 2 ^ 32)) 1
  | 3 => if field x 16 16 = 0 then now.wxs d now.balance 1 else s.spendFor (field x 16 16) fun s b => s.wxs d (BitVec.ofInt 64 b) 1
  | _ => s.wxs d 0 1)

/-! ## The Almanac's records (R425) -/

/-- The numbers of the Almanac's records: the time of a cluster in a temperature and a voltage bin and at B1 and B2, in interval boundaries of
4.096 µs, of which an hour has 878906250; correctable errors of a die by memory (0 HBM, 1 tile SRAM, 2 slices), uncorrectable ones, and link
retries of a port. -/
def almHours (clu t v : Nat) : Nat := 2 ^ 20 + clu % 128 * 64 + t % 8 * 8 + v % 8
def almBoost (clu level : Nat) : Nat := 2 ^ 21 + clu % 128 * 2 + level - 1
def almSoft (die kind : Nat) : Nat := 2 ^ 22 + die % 8 * 4 + kind
def almHard : Nat := 2 ^ 23
def almRetry (port : Nat) : Nat := 2 ^ 24 + port

def State.tally (s : State) (p n : Nat) : State :=
  s.modPkg p fun k => { k with counts := Map.put k.counts n (Map.get 0 k.counts n + 1) }

/-! ## The interval boundary (R415, R417) -/

/-- OVER at a boundary: set when charges waited in more than 3/4 of the interval's cycles, cleared when in fewer than 1/4. -/
def Cluster.boundary (k : Cluster) (t : Nat) : Cluster :=
  let k := k.runTo t
  let n := k.time - k.since
  { k with overBit := if 3 * n < 4 * k.waitN then true else if 4 * k.waitN < n then false else k.overBit, waitN := 0, since := k.time }

/-- Put a cluster in the order of charges: descending priority, then ascending number. -/
def State.insertClu (s : State) (c : Nat) : List Nat → List Nat
  | [] => [c]
  | d :: r => if s.claimPrio d < s.claimPrio c then c :: d :: r else d :: State.insertClu s c r
def State.chargeOrder (s : State) (p : Nat) : List Nat := (s.pkgClusters p).foldl (fun l c => s.insertClu c l) []

/-- What an interval at a level costs. -/
def permits (level : Nat) : Nat := if 2 ≤ level then 2 else level

/-- Step 2: a cluster above nominal is charged, or falls one step; from B2 into a grace interval, unless VLIM takes B2 from it.
A cluster that is HOT, or retired, is at nominal, uncharged (R427; of a retired cluster above nominal the rule says only that it stays at
nominal then: log entry 54). -/
def State.chargeClu (s : State) (p clu : Nat) : State :=
  let k := s.cluster clu
  let lv := if k.vlim then min 1 k.level else k.level
  if k.hot || k.retd || k.gated then s.setCluster clu { k with level := 0, grace := false }
  else if lv = 0 then s
  else if permits lv ≤ (s.pkg p).pool then
    (s.modPkg p fun g => { g with pool := g.pool - permits lv }).setCluster clu { k with level := lv, grace := false }
  else s.setCluster clu { k with level := lv - 1, grace := 2 ≤ lv }

/-- Step 3: a cluster whose request is above its level claims it, or B1; one whose request is below its level falls to it. -/
def State.claimClu (s : State) (p clu : Nat) : State :=
  let k := s.cluster clu
  let r := s.request_ clu
  let grant := fun (lv : Nat) => (s.modPkg p fun g => { g with pool := g.pool - permits lv }).setCluster clu
    { k with level := lv, grace := false, below := false }
  if k.hot || k.gated then s
  else if r < k.level then s.setCluster clu { k with level := r, grace := false }
  else if k.level < r && !(s.pkg p).limited then
    (if permits r ≤ (s.pkg p).pool then grant r
     else if k.level = 0 && 1 ≤ (s.pkg p).pool then grant 1
     else s)
  else s

/-- The clock that a cluster is to run at: that of its level, or 3 where it is set below nominal (R418). -/
def Cluster.target (k : Cluster) : Nat := if k.below && k.level == 0 then 3 else k.level

/-- Is a clock above nominal? -/
def boosted (clk : Nat) : Bool := clk == 1 || clk == 2

/-- A cluster whose clock differs from its target starts a transition: what copy engines and its gateway begin from now on is held (R419,
R420). -/
def State.transition (s : State) (clu : Nat) : State :=
  let k := s.cluster clu
  if k.target = k.clk then s.setCluster clu { k with hold := none }
  else ((s.setCluster clu { k with hold := some s.fresh }).once (.clockSwitch clu)).once (.quiesceTimeout clu)

/-- The counts of the Almanac's volatile store (R425): the interval just ended is counted for a cluster, in the bins measured, and at the
level it ran at. -/
def State.countInterval (s : State) (pkg clu : Nat) : State :=
  let bin := fun (n : Nat) => Config.measure n (s.fresh * 128 + clu % 128)
  let s := s.tally pkg (almHours clu (bin 31) (bin 32))
  let lv := (s.cluster clu).clk
  if boosted lv then s.tally pkg (almBoost clu lv) else s

/-- Was the cluster above nominal in the interval that ends: it is above it, or awaits a fall from there (R417, R420)? -/
def Pkg.wasRaised (g : Pkg) (clks : List Nat) : Bool := g.raised || clks.any boosted

/-- BOOST_BOUNDARY (R417): refill, charges, claims. A cluster that falls is at nominal for the coming interval unless its transition is
abandoned (R420). -/
def execBoostBoundary (pkg : Nat) (s : State) : Res :=
  let clus := s.pkgClusters pkg
  let s := (clus.foldl (fun s c => s.countInterval pkg c) s).bump
  let s := clus.foldl (fun s c => s.modCluster c fun k => k.boundary (s.clusterTime c)) s
  let raised := (s.pkg pkg).wasRaised (clus.map fun c => (s.cluster c).clk)
  let s := s.modPkg pkg fun g => if raised then g else { g with pool := min g.pcap (g.pool + g.rf) }
  let order := s.chargeOrder pkg
  let s := order.foldl (fun s c => s.chargeClu pkg c) s
  let s := order.foldl (fun s c => s.claimClu pkg c) s
  let s := clus.foldl (fun s c => s.transition c) s
  .next (s.modPkg pkg fun g => { g with raised := clus.any fun c => boosted (s.cluster c).clk && 0 < (s.cluster c).level })

/-- HOT_MARK (R415). -/
def execHotMark (cluster : Nat) (on : Bool) (s : State) : Res := .next (s.modCluster cluster fun k => { k with hot := on })

/-! ## Clock changes (R419, R420) -/

/-- Is no request that was under way when the transition began crossing the cluster's boundary? A copy engine's line requests are made and
served within one step of it. -/
def State.quiesced (s : State) (clu : Nat) : Bool :=
  let from_ := (s.cluster clu).hold.getD s.fresh
  !(s.flight.any fun e => match evMsg e with
    | some m => m.src / 32 != m.dest / 32 && (m.src / 32 == clu || m.dest / 32 == clu) && m.seq ≤ from_
    | none => false)

/-- CLOCK_SWITCH: at a quiesce point the cluster's units change to the level's clock together. -/
def execClockSwitch (cluster : Nat) (s : State) : Res :=
  let k := s.cluster cluster
  .next (if k.target = k.clk then s.setCluster cluster { k with hold := none }
    else if !s.quiesced cluster then s.notYet
    else
      let s := { s with flight := s.flight.filter fun (e : Ev) => e != Ev.quiesceTimeout cluster }
      let s := s.setCluster cluster { (k.runTo (s.clusterTime cluster)) with clk := k.target, hold := none }
      if boosted k.target then s.modPkg (cluster / 128) fun g => { g with raised := true } else s)

/-- QUIESCE_TIMEOUT: the transition is abandoned, counted, and tried again at the next boundary; what was held goes on, and the interval of an
abandoned fall is none at nominal. -/
def execQuiesceTimeout (cluster : Nat) (s : State) : Res :=
  let k := s.cluster cluster
  .next (if k.target = k.clk || !s.flight.contains (.clockSwitch cluster) then s
    else
      let s := { s with flight := s.flight.filter fun (e : Ev) => e != Ev.clockSwitch cluster }
      let s := s.setCluster cluster { k with hold := none }
      let s := if boosted k.clk then s.modPkg (cluster / 128) fun g => { g with raised := true } else s
      (cluEids cluster).foldl (fun s e => s.count e 0x0E 1 none) s)

/-! ## Gating (R421) -/

/-- CLUSTER_GATE: only a cluster without granted cores, queued or running commands, and dirty lines is gated. -/
def execClusterGate (cluster : Nat) (s : State) : Res :=
  let k := s.cluster cluster
  let idle := fun (g : Engine) => g.inbox.isEmpty && g.running.isEmpty
  let tiles := (List.range 16).all fun t =>
    let m := (s.tile (cluster * 16 + t)).matrix
    idle (s.tile (cluster * 16 + t)).copy && m.inbox.isEmpty && m.runs.isEmpty
  let dirty := (s.die (cluster / 16)).lines.any fun l => l.dirty == some (cluster % 16)
  .next (if (cluEids cluster).any (fun e => (s.core e).job.isSome) || !tiles || !idle k.gather || !idle k.sortc || dirty then s
    else s.setCluster cluster
      { (k.runTo (s.clusterTime cluster)) with gated := true, level := 0, clk := 0, grace := false, below := false, hold := none })

/-- CLUSTER_WAKE: the wake completes, and what was held at the gateway goes on in its order. -/
def execClusterWake (cluster : Nat) (s : State) : Res := .next (s.modCluster cluster fun k => { k with gated := false })

/-! ## The power manager (R409, R418, R451) -/

/-- REFILL changes from the cluster's present cycle on. -/
def State.setRefill (s : State) (clu : Nat) (f : Cluster → Cluster) : State :=
  s.modCluster clu fun k => f (k.runTo (s.clusterTime clu))

/-- POWER_MANAGER_SETTING (R407, R418). A cluster that is set below nominal changes its clock as any other transition does (R420). -/
def execPowerManagerSetting (pkg : Nat) (what : PmSetting) (val : Nat) (s : State) : Res :=
  .next (match what with
  | .pool => s.modPkg pkg fun g => { g with pool := min g.pcap val }
  | .pcap => s.modPkg pkg fun g => { g with pcap := val % 2 ^ 32, pool := min g.pool (val % 2 ^ 32) }
  | .rf => s.modPkg pkg fun g => { g with rf := val }
  | .refill c => s.setRefill c fun k => { k with refill := min 64 val, cut := 0 }
  | .belowNominal c => (s.setRefill c fun k => { k with below := true, level := 0, grace := false }).transition c)

/-- POWER_LIMIT_CROSSING (R451): above the limit every REFILL falls by one equal step and no claim is granted; 5 % below it both are
restored. The size of the step is a free value. -/
def execPowerLimitCrossing (pkg : Nat) (above : Bool) (s : State) : Res :=
  let step := Config.measure 30 s.fresh
  let s := (s.modPkg pkg fun g => { g with limited := above }).bump
  .next ((s.pkgClusters pkg).foldl (fun s c => s.setRefill c fun k =>
    if above then { k with refill := k.refill - min step k.refill, cut := k.cut + min step k.refill }
    else { k with refill := min 64 (k.refill + k.cut), cut := 0 }) s)

/-! ## The Almanac (R425-R427) -/

/-- ALMANAC_WRITE (R425): once an hour, and at an orderly shutdown, the counts go to the nonvolatile store. -/
def execAlmanacWrite (pkg : Nat) (s : State) : Res :=
  .next (s.modPkg pkg fun k => { k with almanac := k.counts })

/-- VERNIER_MEASURE (R427): a predicted life below 8760 hours withdraws B2, one below 2000 retires the cluster; the marks stay. -/
def execVernierMeasure (cluster hours : Nat) (s : State) : Res :=
  .next (s.modCluster cluster fun k => { k with vlim := k.vlim || hours < 8760, retd := k.retd || hours < 2000 })

/-- PATROL_SCRUB (R204, R426): a correctable error of a granule is corrected and counted; an uncorrectable one poisons it, and the
host is told (R442). A granule is numbered as the key of its first byte, divided by 8. -/
def execPatrolScrub (granule : Nat) (uncorrectable : Bool) (s : State) : Res :=
  let die := granule * 8 / 2 ^ 44
  .next (if uncorrectable then
      let s := if s.poison.contains granule then s else { s with poison := s.poison ++ [granule] }
      (s.tally (die / 8) almHard).msix (die / 8) 0 2
    else s.tally (die / 8) (almSoft die (granule * 8 / 2 ^ 42 % 4)))

end Sys2Proof.Machine
end

