-- ==== Sys2Proof/Machine/Links.lean ====
section
/-!
DEFINITION. The Blutas ports: flits and their counters (R424, R429-R431), the retry layer (R432), retraining, rekeying, and a port that
is down (R433). Port j of die d is number 9 (d mod 8) + j of its package (R434).
-/
namespace Sys2Proof.Machine

open Sys2Proof

/-- A port at power-up: the next SEQ is 0, so the last one in order is 4095. -/
def Port.reset : Port where
  tx := 0
  rx := 0
  txKey := 0
  rxKey := 0
  marker := false
  out := []
  gone := 0
  loaded := []
  replay := []
  resend := []
  seq := 4095
  last := 4095
  inbox := []
  nak := false
  nakSent := false
  tries := 0
  state := 0
  sent := []

def State.port (s : State) (p n : Nat) : Port := Map.get Port.reset (s.pkg p).ports n
def State.setPort (s : State) (p n : Nat) (k : Port) : State := s.modPkg p fun g => { g with ports := Map.put g.ports n k }

/-- Has the package this port, and is it up: its die's gateway usable (R443) and the port neither retraining nor down? -/
def State.portUp (s : State) (p n : Nat) : Bool :=
  n < s.planesOf p && s.ready p (64 + n / 9) && (s.port p n).state == 0

/-- Where a counter stands under a new key: below 2^95, and otherwise a free value. -/
def freshCounter (n : Nat) : Nat := Config.measure 40 n % 2 ^ 95

/-- The bytes of a request's header and arguments (R333). -/
def msgBytes (m : Msg) : List Byte := (msgWords m).flatMap fun (w : Word) => (List.range 8).map fun i => BitVec.ofNat 8 (w.toNat / 256 ^ i)

/-- The bytes of n requests of an access's piece, one for each 16 bytes of it (R33, R335); DEST names a core of the owning die (DESIGN
CHOICE, log entry 72). -/
def pieceMsgs (m : Msg) (p : Piece) (ha : Nat) (opc : Nat → Nat) (data : Nat → Nat) : List Msg :=
  (List.range ((p.len + 15) / 16)).map fun i =>
    let v := data i
    { m with dest := gvaDie p.gva * 512, addr := p.gva + BitVec.ofNat 64 (16 * i), ha := intrinsic ha,
             opc := BitVec.ofNat 16 (opc (min 16 (p.len - 16 * i))), a0 := BitVec.ofNat 64 v, a1 := BitVec.ofNat 64 (v / 2 ^ 64) }

/-- The size code of the load and store handlers (R335). -/
def sizeCode (n : Nat) : Nat := if n ≤ 1 then 0 else if n = 2 then 1 else if n ≤ 4 then 2 else if n ≤ 8 then 3 else 4

/-- The requests that carry a remote load, store or atomic (R33, R335). -/
def State.accMsgs (s : State) (eid : Nat) (a : Acc) : List Msg :=
  let m : Msg := { dest := 0, src := eid, asid := a.asid, wld := a.wld, kind := .request, gen := s.ownGen (eid / 512) (coreAgent eid),
                   guard := 0, ssn := a.snum, tag := none, seq := a.id, opc := 0, addr := 0, ha := 0, a0 := 0, a1 := 0, a2 := 0, a3 := 0 }
  let ord := if a.acq then 8 else if a.rel then 16 else 0
  let fn := fun (op : AmoOp) (n : Nat) => (((List.range 10).find? fun i => amoOfFn (8 * i) == some op).getD 0) * 8 +
    (if n = 8 then 4 else 0) + (if a.rel then 2 else 0) + (if a.acq then 1 else 0)
  match a.op with
  | .load _ => a.pieces.flatMap fun p => pieceMsgs m p 0 (fun n => sizeCode n + ord) fun _ => 0
  | .store d => (a.pieces.foldl (fun (r : Nat × List Msg) (p : Piece) => (r.1 + p.bits, r.2 ++
      (match p.nib with
      | none => pieceMsgs m p 0x100 (fun n => sizeCode n + ord) fun i => d / 2 ^ (r.1 + 128 * i)
      | some up => pieceMsgs m p 0x900 (fun _ => 0) fun _ =>
          let v := d / 2 ^ r.1 % 16
          if up then 16 * v + 0xF0 * 2 ^ 64 else v + 0x0F * 2 ^ 64))) (0, [])).2
  | .amo (.cas old) y _ _ => a.pieces.map fun p =>
      { m with dest := gvaDie p.gva * 512, addr := p.gva, ha := intrinsic 0x300,
               opc := BitVec.ofNat 16 ((if p.len = 16 then 88 else 80) + fn .add p.len), a0 := BitVec.ofNat 64 old,
               a1 := BitVec.ofNat 64 (old / 2 ^ 64), a2 := BitVec.ofNat 64 y, a3 := BitVec.ofNat 64 (y / 2 ^ 64) }
  | .amo op y _ _ => a.pieces.flatMap fun p => pieceMsgs m p 0x200 (fun n => fn op n) fun _ => y
  | .fence .. => []
  | .flush => []

/-- Does a message from core `src` to core `dest` leave package p on plane n? -/
def State.leaves (s : State) (p n src dest : Nat) : Bool :=
  src / 4096 == p && dest / 4096 != p && s.planeTo p (dest / 4096) == n

/-- The messages that a step on its way stands for, with the core that set it off and its number there; a reply counts from 2^22 up. -/
def State.carried (s : State) (e : Ev) : (Nat × Nat) × List Msg :=
  match e with
  | .reply m => ((m.dest + 2 ^ 22, m.seq), [m])
  | .refusal m => ((m.dest + 2 ^ 22, m.seq), [m])
  | .accessPerformed eid id => ((eid, id), match (s.core eid).accs.find? fun (a : Acc) => a.id == id with
      | some a => s.accMsgs eid a
      | none => [])
  | e => (match evMsg e with
      | some m => ((m.src, m.seq), [m])
      | none => ((0, 0), []))

/-- A step's messages join a port's stream of bytes. -/
def Port.load (k : Port) (key : Nat × Nat) (l : List Msg) : Port :=
  let out := k.out ++ l.flatMap msgBytes
  { k with out := out, loaded := k.loaded ++ [(key, k.gone + out.length)] }

/-- The messages that have been set off and leave through the port join its stream of bytes (R33, R430). Launch packets, thefts, reservations
and package lanes, for which the spec gives no message, do not (log entry 72). -/
def State.loadPort (s : State) (p n : Nat) (k : Port) : Port :=
  let l := (s.flight.map s.carried).map fun c => (c.1, c.2.filter fun (m : Msg) => s.leaves p n m.src m.dest)
  let l := l.filter fun c => !c.2.isEmpty
  let k := { k with loaded := k.loaded.filter fun q => l.any fun c => c.1 == q.1 }
  l.foldl (fun (k : Port) c => if k.loaded.any fun q => q.1 == c.1 then k else k.load c.1 c.2) k

/-- The bytes of a flit's body as a number. -/
def bodyOf (l : List Byte) : Nat := l.foldr (fun b n => b.toNat + 256 * n) 0

/-- A flit is sent: under the counter's present value, which then advances. -/
def Port.send (k : Port) (f : Flit) : Port := { k with tx := k.tx + 1, nak := false, sent := (k.tx, f) :: k.sent }

/-- The credits that a header returns: the spec gives the receiver's buffers no size, so a free value (log entry 72). -/
def freeCredit (p n tx : Nat) : BitVec 35 := BitVec.ofNat 35 (Config.measure 46 ((p * 128 + n) * 2 ^ 97 + tx))

/-- The flit of a slot with credits c (R429, R430, R432): the marker of a new key (log entry 72), a replay, a message, or an idle flit. -/
def Port.slot (k : Port) (c : BitVec 35) : Port :=
  let head := fun (typ : BitVec 4) (q : BitVec 12) (b : Nat) =>
    ({ intact := true, typ := typ, seq := q, ack := k.last, nak := k.nak, cred := c, body := b } : Flit)
  if k.marker then { (k.send (head 2 0 0)) with marker := false }
  else match k.resend with
  | (q, b) :: r => { (k.send (head 1 q b)) with resend := r }
  | [] =>
    if k.out.isEmpty || 512 ≤ k.replay.length then k.send (head 0 0 0)
    else
      let b := bodyOf (k.out.take 232)
      { (k.send (head 1 (k.seq + 1) b)) with out := k.out.drop 232, gone := k.gone + 232, seq := k.seq + 1,
                                             replay := k.replay ++ [(k.seq + 1, b)] }

/-- The edge gateway of a port of package p: its die, and its index among the die's agents (R383, R434). -/
def gateOf (p n : Nat) : Nat × Nat := (p * 8 + n / 9, 0x430 + n % 9)

/-- FLIT_SLOT (R429-R431): every slot carries a flit; a counter at 2^95 waits for its rekey (R424). What a gateway of a stale generation sends
is dropped (R382). -/
def execFlitSlot (pkg port : Nat) (s : State) : Res :=
  .next (if !s.portUp pkg port then s
    else if 2 ^ 95 ≤ (s.port pkg port).tx then (s.once (.rekey pkg port true)).notYet
    else s.speaks (gateOf pkg port).1 (gateOf pkg port).2 fun s =>
      let k := s.port pkg port
      s.setPort pkg port ((s.loadPort pkg port k).slot (freeCredit pkg port k.tx)))

/-- Every unacknowledged flit is sent again, oldest first, counted once (R432); after 8 resends without progress the port retrains. -/
def State.resendAll (s : State) (p n : Nat) : State :=
  let k := s.port p n
  if k.replay.isEmpty then s
  else if 8 ≤ k.tries then s.once (.retrain p n)
  else (s.setPort p n { k with resend := k.replay, tries := k.tries + 1 }).tally p (almRetry n)

/-- ACK covers the flits up to one in the replay buffer. -/
def Port.acked (k : Port) (a : BitVec 12) : Port :=
  if k.replay.any fun f => f.1 == a then
    let gone := (k.replay.takeWhile fun f => f.1 != a).map (·.1) ++ [a]
    { k with replay := k.replay.drop gone.length, resend := k.resend.filter fun f => !gone.contains f.1, tries := 0 }
  else k

/-- The first flit that is not accepted since the last that was makes the next header carry NAK. -/
def Port.refuseFlit (k : Port) : Port := if k.nakSent then k else { k with nak := true, nakSent := true }

/-- A message flit is accepted in order, or dropped. -/
def Port.accept (k : Port) (f : Flit) : Port :=
  if f.typ ≠ 1 then k
  else if f.seq = k.last + 1 then { k with last := f.seq, inbox := k.inbox ++ [f.body], nakSent := false }
  else k.refuseFlit

/-- A flit whose tag fails, or whose TYPE is reserved, is corrupt (R430). -/
def corrupt (f : Flit) : Bool := !f.intact || 2 < f.typ.toNat

/-- FLIT_RECEIVE (R431, R432): the receive counter advances for every slot, corrupt or not. -/
def execFlitReceive (pkg port : Nat) (f : Flit) (s : State) : Res :=
  let k := s.port pkg port
  .next (if !s.portUp pkg port then s
    else if 2 ^ 95 ≤ k.rx then (s.once (.rekey pkg port false)).notYet
    else
      let k := { k with rx := k.rx + 1 }
      if corrupt f then s.setPort pkg port k.refuseFlit
      else
        let s := s.setPort pkg port ((k.acked f.ack).accept f)
        if f.nak then s.resendAll pkg port else s)

/-- REPLAY_TIMEOUT (R432): 1 microsecond without ACK progress. -/
def execReplayTimeout (pkg port : Nat) (s : State) : Res :=
  .next (if s.portUp pkg port then s.resendAll pkg port else s)

/-- RETRAIN (R433): the port retrains and rekeys in both directions. -/
def execRetrain (pkg port : Nat) (s : State) : Res :=
  let k := s.port pkg port
  .next (if k.state != 0 then s
    else
      let k := { k with state := 1, txKey := k.txKey + 1, rxKey := k.rxKey + 1, tx := freshCounter s.fresh,
                        rx := freshCounter (s.fresh + 1), marker := true }
      ((({ s with fresh := s.fresh + 2 } : State).setPort pkg port k).once (.retrainDone pkg port)).once (.portDown pkg port))

/-- RETRAIN_DONE (R433): the port returns, and the flits in the replay buffer are sent again. -/
def execRetrainDone (pkg port : Nat) (s : State) : Res :=
  let k := s.port pkg port
  .next (if k.state != 1 then s
    else
      let s := { s with flight := s.flight.filter fun (e : Ev) => e != Ev.portDown pkg port }
      s.setPort pkg port { k with state := 0, resend := k.replay, tries := 0 })

/-- REKEY (R424): a counter that has reached 2^95 goes on under the next key. -/
def execRekey (pkg port : Nat) (transmit : Bool) (s : State) : Res :=
  let k := s.port pkg port
  .next (if (if transmit then k.tx else k.rx) < 2 ^ 95 then s
    else (s.setPort pkg port (if transmit then { k with tx := freshCounter s.fresh, txKey := k.txKey + 1, marker := true }
      else { k with rx := freshCounter s.fresh, rxKey := k.rxKey + 1 })).bump)

/-! ## A port that is down (R433) -/

/-- The packages that a step on its way goes from and to. -/
def State.ends (s : State) (e : Ev) : List (Nat × Nat) :=
  match e with
  | .reply m => [(m.src / 4096, m.dest / 4096)]
  | .refusal m => [(m.src / 4096, m.dest / 4096)]
  | .accessPerformed eid id => match (s.core eid).accs.find? fun (a : Acc) => a.id == id with
    | some a => a.pieces.map fun (p : Piece) => (eid / 4096, gvaPkg p.gva)
    | none => []
  | .theft t v _ => [(t / 16384, v / 4096)]
  | .launchPacketArrival p _ (.peer q) _ _ => [(q, p)]
  | e => match evMsg e with
    | some m => [(m.src / 4096, m.dest / 4096)]
    | none => []

/-- The package from which a step on its way uses plane n of package p. -/
def State.usedFrom (s : State) (p n : Nat) (e : Ev) : Option Nat :=
  ((s.ends e).find? fun q => q.1 != q.2 && (q.1 == p || q.2 == p) && s.planeTo q.1 q.2 == n).map (·.1)

/-- Have all the flits of a step been acknowledged: those up to its last byte's, of the bytes in flits less those in the replay buffer? -/
def Port.passed (k : Port) (key : Nat × Nat) : Bool := match k.loaded.find? fun q => q.1 == key with
  | some q => q.2 + 232 * k.replay.length ≤ k.gone
  | none => false

/-- A request without its reply. -/
def mute (m : Msg) : Msg := { m with tag := none }
def muteEv : Ev → Option Ev
  | .loadHandler m => some (.loadHandler (mute m))
  | .storeHandler m => some (.storeHandler (mute m))
  | .atomicHandler m => some (.atomicHandler (mute m))
  | .casHandler m => some (.casHandler (mute m))
  | .mailboxInsert m => some (.mailboxInsert (mute m))
  | .ringAdvance m => some (.ringAdvance (mute m))
  | .semaphoreSignal m => some (.semaphoreSignal (mute m))
  | .subByteStore m => some (.subByteStore (mute m))
  | .softwareMessage m => some (.softwareMessage (mute m))
  | _ => none

/-- A request completes at its requester as refused with ACCESS; `done` says that it is performed at its destination all the same. -/
def State.cutRequest (s : State) (e : Ev) (done : Bool) : State :=
  match e with
  | .reply m => s.later (.reply { m with opc := BitVec.ofNat 16 cAccess })
  | .refusal m => s.later (.refusal m)
  | .joinDecrement m => s.answers m cAccess 0
  | .theft t _ p => s.abandonTheft t p
  | .launchPacketArrival p q src ret w =>
    let s := match ret with
      | some (sid, id) => ((s.modStrand sid fun k => k.forget (s.cycleOf sid) id).post sid cAccess (BitVec.ofNat 64 (p * 4096)) none).poke
          (sid / 4)
      | none => s
    if done then s.later (.launchPacketArrival p q src none w) else s
  | .accessPerformed eid id =>
    (match (s.core eid).accs.find? fun (a : Acc) => a.id == id with
    | none => s
    | some a =>
      let g := (a.pieces.head?.map fun (p : Piece) => p.gva).getD 0
      if !done then s.refuseAcc eid a cAccess g
      else match a.op with
        | .store _ => (s.post (4 * eid + a.snum) cAccess g none).later e
        | .amo op y _ r =>
          let s := s.modStrand (4 * eid + a.snum) fun k => k.forget (s.cycleOf (4 * eid + a.snum)) a.id
          let s := s.modCore eid fun c => { c with accs := c.accs.map fun (b : Acc) =>
            if b.id = id then { b with op := .amo op y .none r } else b }
          (s.postAcc (4 * eid + a.snum) cAccess g none a.id).later e
        | _ => s.refuseAcc eid a cAccess g)
  | e =>
    let s := match evMsg e with
      | some m => s.refuse m
      | none => s
    match done, muteEv e with
    | true, some f => s.later f
    | _, _ => s

/-- Each step on its way over the plane goes on where its flits have been acknowledged; another is refused, and is performed or not as a free
value says (R433). `port` gives the ports as they were. -/
def State.cutAll (s : State) (p n : Nat) (port : Nat → Port) : List Ev → State
  | [] => s
  | e :: r => match s.usedFrom p n e with
    | none => State.cutAll (s.later e) p n port r
    | some q =>
      if (port q).passed (s.carried e).1 then State.cutAll (s.later e) p n port r
      else State.cutAll (s.bump.cutRequest e (Config.choice s.fresh % 2 == 0)) p n port r

/-- PORT_DOWN (R433, R442): the port is down, the host is told, and requests whose flits were unacknowledged are refused. -/
def execPortDown (pkg port : Nat) (s : State) : Res :=
  let k := s.port pkg port
  .next (if k.state != 1 then s
    else
      let was := fun (q : Nat) => s.port q port
      let s := s.setPort pkg port { k with state := 2, out := [], loaded := [], replay := [], resend := [] }
      let s := (s.modPkg pkg fun g => { g with down := if g.down.contains port then g.down else g.down ++ [port] }).msix pkg 0 2
      let l := s.flight.filter fun (e : Ev) => e != Ev.retrainDone pkg port
      ({ s with flight := [] } : State).cutAll pkg port was l)

end Sys2Proof.Machine
end

