-- ==== Sys2Proof/Machine/Host.lean ====
section
/-!
DEFINITION. The host's memory window (R238, R439), the commands of the management mailbox (R445-R447), checkpoint and restore
(R448-R450), power-up (R203, R445) and readiness (R443, R444).
-/
namespace Sys2Proof.Machine

open Sys2Proof

/-! ## The HDM window (R439) -/

/-- The die and DPA of a host offset, none outside the window. -/
def State.hdm (s : State) (p h size : Nat) : Option (Nat × Nat) :=
  if h + size ≤ s.dieCount p * 0x1800000000 then some (p * 8 + h / 0x1800000000, h % 0x1800000000) else none

/-- May the host reach n bytes at a DPA: below the table area, and not secure? -/
def State.hostReach (s : State) (d a n : Nat) : Bool :=
  a + n ≤ TA && !s.secure (.hbm d a true) && !s.secure (.hbm d (a + n - 1) true)

/-- The functions that a host access to die d needs: CXL.mem, and the die's HBM and slices. -/
def State.hostBits (d : Nat) : List Nat := [75, dieBit d rHbm, dieBit d rSlc]

/-- A move of a page whose DPA range at its present home a host write reaches cannot be committed (R377). -/
def State.markMoves (s : State) (d a n : Nat) : State :=
  let hit := fun (m : Mig) => match (s.findPage m.asid m.gva).2 with
    | some p => (match s.pagePlace p m.gva with
      | some (.hbm e b _) => e == d && meet b (2 ^ m.size) a n
      | _ => false)
    | none => false
  { s with dies := s.dies.map fun (e, k) => if e / 8 = d / 8 then
      (e, { k with migs := k.migs.map fun (m : Mig) => if hit m then { m with host := true } else m }) else (e, k) }

/-- The host owns, or owns no more, sectors of a line that is present (R238). -/
def State.hostOwns (s : State) (d a : Nat) (f : BitVec 2 → BitVec 2) : State :=
  s.modDie d fun k => { k with lines := k.lines.map fun (l : Line) => if l.line = a / 128 then { l with host := f l.host } else l }

/-- HOST_ACCESS (R439): a read is answered, with poison where it may not reach; a write there is dropped. The home slice performs it
(R238), and a read makes the host the owner of its sectors. -/
def execHostAccess (pkg h size : Nat) (wr : Option Nat) (s : State) : Res :=
  let answer_ := fun (s : State) (poison : Bool) (v : Nat) => s.modPkg pkg fun k => { k with hostData := some (poison, v) }
  .next (match s.hdm pkg h size with
  | none => s
  | some (d, a) =>
    let no := fun (s : State) => if wr.isSome then s else answer_ s true 0
    if (State.hostBits d).any fun b => s.gone pkg b then no s
    else if !((State.hostBits d).all fun b => s.ready pkg b) then s.notYet
    else if size = 0 then s
    else if !s.hostReach d a size then no s
    else
      let p := Place.hbm d a true
      match wr with
      | some v => (((s.touch (2 ^ 20) p true).writeAt p size (v % 256 ^ size)).dropLine d a).markMoves d a size
      | none =>
        if s.poisoned p size then answer_ s true 0
        else answer_ ((s.touch (2 ^ 20) p false).hostOwns d a fun b => b ||| sectors a size) false (s.readAt p size))

/-- Does the home record that the host owns the sector at a DPA (R238)? -/
def State.hostOwned (s : State) (d a : Nat) : Bool :=
  (s.die d).lines.any fun (l : Line) => l.line == a / 128 && l.host &&& sectors a 64 != 0

/-- HOST_SECTOR_WRITEBACK (R238): the home merges a sector's bytes by mask, and the host owns the sector no more. One of a sector that the
host does not own, which it cannot send, is ignored. -/
def execHostSectorWriteback (pkg h : Nat) (mask : BitVec 64) (data : BitVec 512) (s : State) : Res :=
  .next (match s.hdm pkg (h / 64 * 64) 64 with
  | none => s
  | some (d, a) =>
    if !s.hostReach d a 64 || !s.hostOwned d a then s
    else if mask = 0 then s.hostOwns d a fun b => b &&& ~~~sectors a 64
    else
      let p := Place.hbm d a true
      let at_ := (List.range 64).filter fun i => mask.getLsbD i
      let s := s.touch (2 ^ 20) p true
      let mem := at_.foldl (fun m i => Mem.set m (p.key i) (nthByte data.toNat i)) s.mem
      (({ s with mem := mem, poison := clearPoison s.poison (at_.map p.key) } : State).hostOwns d a fun b =>
        b &&& ~~~sectors a 64).dropLine d a |>.markMoves d a 64)

/-! ## Commands of the mailbox (R446) -/

/-- The answer's words take the place of the data. -/
def State.mboxAnswer (s : State) (p : Nat) (f : Nat → Word) : State :=
  s.modPkg p fun k => { k with mdata := (List.range 504).map fun i => (8 + i, f i) }

/-- READ_ALMANAC (R425, R446). -/
def execReadAlmanac (pkg : Nat) (s : State) : Res :=
  let l := (s.pkg pkg).almanac
  .next ((s.mboxAnswer pkg (Config.almanacWord l)).mboxDone pkg 1)

/-- SET_PLIM (R451): the limit in watts, from 1.0 to 4.6 kW. -/
def execSetPlim (pkg : Nat) (s : State) : Res :=
  let w := Config.argument 4 (s.pkg pkg).mboxData
  .next (if 1000 ≤ w ∧ w ≤ 4600 then (s.modPkg pkg fun k => { k with plim := w }).mboxDone pkg 1 else s.mboxDone pkg 4)

/-- SPDM (R447): one message each way. -/
def execSpdm (pkg : Nat) (s : State) : Res :=
  let r := s.attest pkg (s.pkg pkg).mboxData
  .next (if s.ready pkg 78 then (r.1.mboxAnswer pkg r.2).mboxDone pkg 1
    else if s.gone pkg 78 then s.mboxDone pkg 2
    else s.notYet)

/-- SET_PLANE (R433, R435): every package of the list takes the plane given with it, which lies below the numbers of planes
of both. -/
def execSetPlane (pkg : Nat) (s : State) : Res :=
  let data := (s.pkg pkg).mboxData
  let l := (List.range (Config.argument 6 data % 505)).map fun i => (Config.argument (16 + 2 * i) data, Config.argument (17 + 2 * i) data)
  .next (if l.all fun e => e.2 < min (s.planesOf pkg) (s.planesOf e.1) then
      (s.modPkg pkg fun k => { k with route := l.foldl (fun r e => Map.put r e.1 e.2) k.route }).mboxDone pkg 1
    else s.mboxDone pkg 2)

/-- May a package run a firmware image: its body has the header's digest, its signature verifies under a root key whose digest is in a fuse
slot that is not revoked, and its SVN is not below the fuse SVN (R445)? -/
def mayRun (pkg : Nat) (f : Config.Firmware) : Bool :=
  f.digest == Config.sha384 f.body && Config.verifies f.key f.svn f.digest f.sig && Config.fuseSvn pkg ≤ f.svn &&
    [0, 1, 2, 3].any fun i => !(Config.fuseSlot pkg i).2 && (Config.fuseSlot pkg i).1 == Config.sha384 f.key

/-- The image in a slot: the one that has been loaded there, or the factory's. -/
def Pkg.imageAt (k : Pkg) (p i : Nat) : Config.Firmware := Map.get (Config.factoryImage p i) k.images i

/-- The ROM runs an image: it derives the alias key from the identity key and what it has measured. -/
def Pkg.runs (k : Pkg) (p : Nat) (f : Config.Firmware) : Pkg :=
  { k with recovery := false, alias_ := Config.alias_ (Config.identity p) (Config.sha384 f.body) }

/-- LOAD_IMAGE (R445): an image that verifies takes the first slot and runs; another is refused. -/
def execLoadImage (pkg : Nat) (s : State) : Res :=
  let f := Config.imageIn (s.pkg pkg).mboxData
  .next (if mayRun pkg f then (s.modPkg pkg fun k => { k with images := Map.put k.images 0 f }.runs pkg f).mboxDone pkg 1
    else s.mboxDone pkg 2)

/-! ## Checkpoint and restore (R448-R450) -/

/-- Has a job cores on package p? -/
def Job.on (b : Job) (p : Nat) : Bool := b.cores.any fun e => e / 4096 == p

/-- A checkpoint starts: placement stops, and every resident job is pre-empted. -/
def State.startCheckpoint (s : State) (p : Nat) : State :=
  let s := s.modPkg p fun k => { k with stopped := true, killed := [] }
  let l := (s.jobs.filter fun (b : Nat × Job) => b.2.on p).map (·.1)
  (l.foldl (fun s j => (s.preemptJob j).once (.checkpointKillTimeout p j)) s).once (.checkpointComplete p)

/-- Is a descriptor well formed: at most 16 ranges, of whole 64 KiB units on other packages (R448)? -/
def tierFormed (p : Nat) (t : Config.Tier) : Bool :=
  t.ranges.length ≤ 16 && t.ranges.all fun r => gvaPkg r.gva != p && r.gva.toNat % 65536 == 0 && r.len % 65536 == 0

/-- A mailbox command ends with the end of a checkpoint or restore (R442). -/
def State.ckptEnd (s : State) (p st : Nat) : State := (s.mboxDone p st).msix p 0 3

/-- CHECKPOINT (R448, R449): its arm flag says whether the descriptor stays armed. -/
def execCheckpoint (pkg : Nat) (s : State) : Res :=
  let t := (s.pkg pkg).tier
  .next (if s.gone pkg 77 then s.ckptEnd pkg 2
    else if !s.ready pkg 77 then s.notYet
    else if !tierFormed pkg t then s.ckptEnd pkg 4
    else if (s.pkg pkg).stopped then s.ckptEnd pkg 2
    else (s.modPkg pkg fun k => { k with armed := if t.arm then some t else none }).startCheckpoint pkg)

/-- CHECKPOINT_KILL_TIMEOUT (R449): a job that is not saved is killed, and listed. -/
def execCheckpointKillTimeout (pkg job : Nat) (s : State) : Res :=
  .next (match s.job job with
  | none => s
  | some b => if (s.pkg pkg).stopped && b.on pkg then
      (s.modPkg pkg fun k => { k with killed := k.killed ++ [job] }).once (.kill job)
    else s)

/-- A mailbox command that has not ended ends. -/
def State.mboxEnd (s : State) (p op st : Nat) : State :=
  if field (s.pkg p).mbox 0 8 = op ∧ field (s.pkg p).mbox 8 8 = 0 then s.mboxDone p st else s

/-- A change of every die of a package. -/
def State.mapDies (s : State) (p : Nat) (f : Die → Die) : State :=
  { s with dies := s.dies.map fun e => if e.1 / 8 = p then (e.1, f e.2) else e }

/-- What of a package's image has no bytes (R448). -/
def State.imageOf (s : State) (p : Nat) : Image :=
  { poison := s.poison.filter fun g => 8 * g / 2 ^ 47 == p,
    queues := (s.pkg p).queues, jobs := s.jobs.filter fun b => b.2.saved.any fun e => e / 4096 == p, killed := (s.pkg p).killed }

/-- Is a memory key one of package p's? -/
def keyOf (p k : Nat) : Bool := k / 2 ^ 47 == p

/-- 64 KiB units of an image in a die: HBM, tile SRAM and slices. -/
def hbmUnits : Nat := 0x180000
def tileUnits : Nat := 4096
def sliceUnits : Nat := 1024

/-- The place of unit i of a package's image (R448): every die's HBM, then all tile SRAM, then the slice areas. -/
def imageUnit (dies p i : Nat) : Option Place :=
  let j := i - dies * hbmUnits
  let k := j - dies * tileUnits
  if i < dies * hbmUnits then some (.hbm (p * 8 + i / hbmUnits) (i % hbmUnits * 65536) true)
  else if j < dies * tileUnits then some (.tile (p * 8 + j / tileUnits) (j / 256 % 16) (j / 16 % 16) (j % 16 * 65536) 6)
  else if k < dies * sliceUnits then some (.slice (p * 8 + k / sliceUnits) (k / 64 % 16) (k % 64 * 65536))
  else none

/-- How many there are. -/
def imageUnits (dies : Nat) : Nat := dies * (hbmUnits + tileUnits + sliceUnits)

/-- The launch queues as a unit: 16 queues of 32 packets of 128 bytes (log entry 57). -/
def Pkg.queueUnit (k : Pkg) : Nat :=
  (List.range 16).foldl (fun n q => (List.range (k.queue q).length).foldl (fun n i =>
    n + packWords (((k.queue q).map fun (h : Packet) => h.words).getD i []) * 2 ^ (8 * (4096 * q + 128 * i))) n) 0

/-- Unit i of the stream of an image: memory, the queues, and the manifest. -/
def State.streamUnit (s : State) (p man i : Nat) : Option Nat :=
  let n := imageUnits (s.dieCount p)
  if i = n then some (s.pkg p).queueUnit
  else if i = n + 1 then some man
  else (imageUnit (s.dieCount p) p i).map fun q => s.readAt q 65536

/-- The units of ranges, in order. -/
def tierUnits (l : List Config.TierRange) : List (Config.TierRange × Word) :=
  l.flatMap fun r => (List.range (r.len / 65536)).map fun i => (r, r.gva + BitVec.ofNat 64 (65536 * i))

/-- The manifest of a package's image (R448). -/
def State.manifestOf (s : State) (p : Nat) : Nat :=
  let n := imageUnits (s.dieCount p)
  Config.manifest (s.pkg p).alias_ (Config.imageDigest ((List.range (n + 1)).map fun i => (s.streamUnit p 0 i).getD 0)) (s.pkg p).killed %
    2 ^ (8 * 4096)

/-- Stream the units of an image, from unit i on, to units of the ranges, as far as both reach (R449). -/
def State.stream (s : State) (p man : Nat) : List (Config.TierRange × Word) → Nat → State × Got
  | [], _ => (s, .value 0)
  | (r, g) :: l, i => match s.streamUnit p man i with
    | none => (s, .value 0)
    | some v => match s.hwStore (p * 128) r.asid r.wld v (pieces g 65536) with
      | (s, .value _) => State.stream s p man l (i + 1)
      | (s, e) => (s, e)

/-- Placement goes on after a checkpoint, which ends with a status. -/
def State.endCheckpoint (s : State) (p st : Nat) : State :=
  (((s.modPkg p fun k => { k with stopped := false }).mboxEnd p 2 st).msix p 0 3).consider p

/-- CHECKPOINT_COMPLETE (R448, R449): dirty lines are written back, and the image is streamed to the ranges; placement goes on. Where the ranges
cannot be written, or are too short, it ends refused (log entry 57). -/
def execCheckpointComplete (pkg : Nat) (s : State) : Res :=
  .next (if !(s.pkg pkg).stopped then s
    else if s.jobs.any fun b => b.2.on pkg then s.notYet
    else
      let s := s.mapDies pkg fun k => { k with lines := k.lines.map fun (l : Line) => { l with dirty := none } }
      let l := tierUnits (s.pkg pkg).tier.ranges
      if l.length < imageUnits (s.dieCount pkg) + 2 then s.endCheckpoint pkg 2
      else match s.stream pkg (s.manifestOf pkg) l 0 with
        | (t, .value _) => (t.modPkg pkg fun k => { k with image := some (t.imageOf pkg) }).endCheckpoint pkg 1
        | (t, .wait) => t.notYet
        | (t, _) => t.endCheckpoint pkg 2)

/-- INPUT_POWER_LOSS (R449): a checkpoint starts if a descriptor is armed. -/
def execInputPowerLoss (pkg : Nat) (s : State) : Res :=
  .next (match (s.pkg pkg).armed with
    | some t => if (s.pkg pkg).stopped then s else (s.modPkg pkg fun k => { k with tier := t }).startCheckpoint pkg
    | none => s)

/-- Units of memory are written back, from unit i on. -/
def writeUnits (dies p : Nat) (m : List Host.Cell) : List Nat → Nat → List Host.Cell
  | [], _ => m
  | v :: l, i => match imageUnit dies p i with
    | some q => writeUnits dies p (Mem.write m (q.keys 65536) v) l (i + 1)
    | none => m

/-- The image is written back: memory, queues ahead of what has come since, saved jobs; nothing of the memory is cached. -/
def State.writeImage (s : State) (p : Nat) (units : List Nat) (img : Image) : State :=
  let mem := writeUnits (s.dieCount p) p (s.mem.filter fun c => !keyOf p c.1) units 0
  let poison := (s.poison.filter fun g => !keyOf p (8 * g)) ++ img.poison
  let jobs := img.jobs.foldl (fun (m : Map Job) (b : Nat × Job) => Map.put m b.1 b.2) s.jobs
  let s := ({ s with mem := mem, poison := poison, jobs := jobs } : State).mapDies p fun k =>
    { k with lines := [], tlb := [], cat := [], copies := [], kept := [] }
  let queues := fun (old : Map (List Packet)) =>
    img.queues.foldl (fun (m : Map (List Packet)) (q : Nat × List Packet) => Map.put m q.1 (q.2 ++ Map.get [] m q.1)) old
  s.modPkg p fun k => { k with killed := img.killed, ready := k.ready ||| (1#128 <<< 77), queues := queues k.queues }

/-- Read the units of ranges. -/
def State.readTier (s : State) (p : Nat) : List (Config.TierRange × Word) → State × Except Got (List Nat)
  | [] => (s, .ok [])
  | (r, g) :: l => match s.hwLoad (p * 128) r.asid r.wld (pieces g 65536) with
    | (s, .value v) => (match State.readTier s p l with
      | (s, .ok vs) => (s, .ok (v :: vs))
      | (s, .error e) => (s, .error e))
    | (s, e) => (s, .error e)

/-- Does what has been read hold a manifest whose digest is that of the image before it, with a signature that verifies (R450)? -/
def State.imageVerifies (s : State) (p : Nat) (l : List Nat) : Bool :=
  let n := imageUnits (s.dieCount p) + 1
  Config.manifestOk (s.pkg p).alias_ (l.getD n 0 % 2 ^ (8 * 4096)) (Config.imageDigest (l.take n))

/-- What of the image in hand has no bytes. -/
def Pkg.imageOr (k : Pkg) : Image := k.image.getD { poison := [], queues := [], jobs := [], killed := [] }

/-- RESTORE (R450): an image that cannot be read, or does not verify, is refused before anything is written; else the image is
written back and the saved jobs resume before any new placement. -/
def execRestore (pkg : Nat) (s : State) : Res :=
  .next (match s.readTier pkg ((tierUnits (s.pkg pkg).tier.ranges).take (imageUnits (s.dieCount pkg) + 2)) with
  | (t, .error .wait) => t.notYet
  | (t, .error _) => (t.mboxEnd pkg 3 2).msix pkg 0 3
  | (t, .ok l) =>
    if !t.imageVerifies pkg l then (t.mboxEnd pkg 3 2).msix pkg 0 3
    else ((((t.writeImage pkg l (t.pkg pkg).imageOr).mboxEnd pkg 3 1).msix pkg 0 3).msix pkg 0 1).consider pkg)

/-! ## Power-up and readiness -/

/-- The packages that a step on its way concerns, by its core, tile, cluster, die or package. -/
def evPkgs (e : Ev) : List Nat :=
  let strand := fun (k : Nat) => [k / 16384]
  let core := fun (c : Nat) => [c / 4096]
  let tile := fun (t : Nat) => [t / 2048]
  let clu := fun (c : Nat) => [c / 128]
  let die := fun (d : Nat) => [d / 8]
  let eng := fun (r : EngRef) => match r with
    | .copy t => tile t
    | .matrix t => tile t
    | .gather c => clu c
    | .sortc c => clu c
  match e with
  | .loadWaitSwitch k => strand k
  | .watchdog c => core c
  | .external p => strand p.sid
  | .dormantDispatch c => core c
  | .delegatedDispatch k => strand k
  | .delegatedReload k => strand k
  | .exchange x => strand x.src ++ strand x.dst
  | .ringAdvanceDeferred t _ => tile t
  | .reply m => core m.dest
  | .refusal m => core m.dest
  | .resetAgent d _ => die d
  | .engineCommandStart r => eng r
  | .engineCompletion r _ => eng r
  | .matrixPanelLatch t => tile t
  | .matrixRowEntry t => tile t
  | .matrixRowAccumulate t => tile t
  | .matrixTagComplete t _ => tile t
  | .engineFaultTaken k => strand k
  | .ringStallStop t => tile t
  | .drainRow t => tile t
  | .collectiveOutcome k => strand k
  | .heldStoreDrain k => strand k
  | .departureApplied c => clu c
  | .mdepWrite c _ => clu c
  | .cfsumWrite c _ => clu c
  | .slcfgWrite c _ => clu c
  | .slcfgDone c => clu c
  | .stealProbe c => core c
  | .stealRoundTimer c => core c
  | .theft t v _ => strand t ++ core v
  | .stolenRecordStart k => strand k
  | .syncPoll k => strand k
  | .sideLogReplay c _ => core c
  | .faultOpen k g _ => strand k ++ [gvaPkg g]
  | .tlbWalk _ g => [gvaPkg g]
  | .dirtyLogMerge c => core c
  | .inval d => die d
  | .resolve d => die d
  | .migrate d => die d
  | .migrateCommit d _ => die d
  | .scrub d => die d
  | .wsync d => die d
  | .doorbell p _ _ => [p]
  | .launchPacketArrival p _ _ r _ => p :: (match r with
    | some (k, _) => strand k
    | none => [])
  | .placementTick p => [p]
  | .launchRetry p _ => [p]
  | .placementReservation p f _ _ _ => [p, f]
  | .residence p _ => [p]
  | .energyCharge c => clu c
  | .headCharge c => clu c
  | .boostBoundary p => [p]
  | .clockSwitch c => clu c
  | .quiesceTimeout c => clu c
  | .clusterWake c => clu c
  | .retrain p _ => [p]
  | .retrainDone p _ => [p]
  | .portDown p _ => [p]
  | .rekey p _ _ => [p]
  | .readAlmanac p => [p]
  | .checkpoint p => [p]
  | .checkpointKillTimeout p _ => [p]
  | .checkpointComplete p => [p]
  | .restore p => [p]
  | .setPlim p => [p]
  | .spdm p => [p]
  | .setPlane p => [p]
  | .loadImage p => [p]
  | .bringupFailureTimeout p _ => [p]
  | .accessPerformed c _ => core c
  | .reservedEncoding (.tableCmd d) => die d
  | e => (match evMsg e with
    | some m => core m.src ++ core m.dest
    | none => [])

/-- What a package keeps without power: which product it is (R1), the marks and counts of the Almanac (R425, R427), its firmware images, and what
belongs to the image made of it, which lies on other packages. -/
def Cluster.kept (k : Cluster) : Cluster := { Cluster.reset with vlim := k.vlim, retd := k.retd }
def Pkg.kept (k : Pkg) : Pkg :=
  { Pkg.reset with half := k.half, almanac := k.almanac, counts := k.almanac, image := k.image, images := k.images }

/-- The ROM runs the first image slot that verifies; where neither does, only recovery is left (R445). -/
def Pkg.boot (k : Pkg) (p : Nat) : Pkg :=
  match [0, 1].find? fun i => mayRun p (k.imageAt p i) with
  | some i => k.runs p (k.imageAt p i)
  | none => { k with recovery := true }

/-- POWER_UP (R203, R445): every memory of the package is zero, every register at its reset value, no function usable. -/
def execPowerUp (pkg : Nat) (s : State) : Res :=
  let l := s.jobs.filter fun (b : Nat × Job) => b.2.on pkg || b.2.pkg == pkg || b.2.saved.any fun e => e / 4096 == pkg
  let s := l.foldl (fun s b => { (s.freeCores b.1 b.2.cores) with jobs := Map.del s.jobs b.1 }) s
  .next { s with
    strands := s.strands.filter fun e => e.1 / 16384 != pkg,
    cores := s.cores.filter fun e => e.1 / 4096 != pkg,
    tiles := s.tiles.filter fun e => e.1 / 2048 != pkg,
    clusters := s.clusters.map fun e => if e.1 / 128 = pkg then (e.1, e.2.kept) else e,
    dies := s.dies.filter fun e => e.1 / 8 != pkg,
    flight := s.flight.filter fun (e : Ev) => !(evPkgs e).contains pkg,
    mem := s.mem.filter fun c => !keyOf pkg c.1,
    poison := s.poison.filter fun g => !keyOf pkg (8 * g),
    pkgs := Map.put s.pkgs pkg ((s.pkg pkg).kept.boot pkg) }

/-- Is a bit of READY0 and READY1 one of a function of the package (R443)? -/
def State.readyBit (s : State) (p b : Nat) : Bool :=
  if b < 64 then b % 8 != 7 && b / 8 < s.dieCount p else if b < 72 then b - 64 < s.dieCount p else b < 82

/-- May a bit be set: the package has a number (R436), its function has not failed, no agent of its kind is scrubbed, and in recovery it is MGMT
(R444, R445)? -/
def State.maySet (s : State) (p b : Nat) : Bool :=
  p < 512 && s.readyBit p b && !(s.pkg p).failed.contains b && (!(s.pkg p).recovery || b == 79) &&
    !((List.range 8).any fun i => (s.die (p * 8 + i)).dead.any fun a => agentBit (p * 8 + i) a == b)

/-- READY_SET (R444): the bit of a function that has become usable is set, the host told, and queues reconsidered. -/
def execReadySet (pkg bit : Nat) (s : State) : Res :=
  .next (if s.maySet pkg bit && !s.ready pkg bit then
      ((s.modPkg pkg fun k => { k with ready := k.ready ||| (1#128 <<< bit) }).msix pkg 0 1).consider pkg
    else s)

/-- BRINGUP_FAILURE (R444): the bit stays 0. -/
def execBringupFailure (pkg bit : Nat) (s : State) : Res :=
  .next (if s.readyBit pkg bit && !s.ready pkg bit && !(s.pkg pkg).failed.contains bit then
      (s.modPkg pkg fun k => { k with failed := k.failed ++ [bit] }).once (.bringupFailureTimeout pkg bit)
    else s)

/-- BRINGUP_FAILURE_TIMEOUT (R442, R444): requests held for the function are refused from now on, and the failure is reported. -/
def execBringupFailureTimeout (pkg bit : Nat) (s : State) : Res :=
  .next (if (s.pkg pkg).failed.contains bit && !(s.pkg pkg).refused.contains bit then
      (s.modPkg pkg fun k => { k with refused := k.refused ++ [bit], reports := k.reports ++ [bit] }).msix pkg 0 1
    else s)

end Sys2Proof.Machine
end

