-- ==== Sys2Proof/Machine/Dispatch.lean ====
section
/-!
DEFINITION. One arm for each step of the machine: a direct call of its meaning.
-/
namespace Sys2Proof.Machine

open Sys2Proof

/-- What a step of the machine does. -/
def exec (i : Instr) (s : State) : Host.Outcome State Fault Refusal :=
  match i with
  | .nop => Sys2Proof.Machine.execNop s
  | .nopA => Sys2Proof.Machine.execNopA s
  | .yield => Sys2Proof.Machine.execYield s
  | .wfe => Sys2Proof.Machine.execWfe s
  | .eret => Sys2Proof.Machine.execEret s
  | .lexit lv => Sys2Proof.Machine.execLexit lv s
  | .trap imm => Sys2Proof.Machine.execTrap imm s
  | .srd d n => Sys2Proof.Machine.execSrd d n s
  | .swr n a => Sys2Proof.Machine.execSwr n a s
  | .semsig s0 a => Sys2Proof.Machine.execSemsig s0 a s
  | .semwait s0 => Sys2Proof.Machine.execSemwait s0 s
  | .vxp mk mz rmo vce vc => Sys2Proof.Machine.execVxp mk mz rmo vce vc s
  | .add d a b => Sys2Proof.Machine.execAdd d a b s
  | .sub d a b => Sys2Proof.Machine.execSub d a b s
  | .and d a b => Sys2Proof.Machine.execAnd d a b s
  | .or d a b => Sys2Proof.Machine.execOr d a b s
  | .xor d a b => Sys2Proof.Machine.execXor d a b s
  | .sll d a b => Sys2Proof.Machine.execSll d a b s
  | .srl d a b => Sys2Proof.Machine.execSrl d a b s
  | .sra d a b => Sys2Proof.Machine.execSra d a b s
  | .slt d a b => Sys2Proof.Machine.execSlt d a b s
  | .sltu d a b => Sys2Proof.Machine.execSltu d a b s
  | .min d a b => Sys2Proof.Machine.execMin d a b s
  | .max d a b => Sys2Proof.Machine.execMax d a b s
  | .minu d a b => Sys2Proof.Machine.execMinu d a b s
  | .maxu d a b => Sys2Proof.Machine.execMaxu d a b s
  | .mul d a b => Sys2Proof.Machine.execMul d a b s
  | .mulh d a b => Sys2Proof.Machine.execMulh d a b s
  | .mulhu d a b => Sys2Proof.Machine.execMulhu d a b s
  | .div d a b => Sys2Proof.Machine.execDiv d a b s
  | .divu d a b => Sys2Proof.Machine.execDivu d a b s
  | .rem d a b => Sys2Proof.Machine.execRem d a b s
  | .remu d a b => Sys2Proof.Machine.execRemu d a b s
  | .gaddr d a b => Sys2Proof.Machine.execGaddr d a b s
  | .clz d a => Sys2Proof.Machine.execClz d a s
  | .popc d a => Sys2Proof.Machine.execPopc d a s
  | .bswap d a => Sys2Proof.Machine.execBswap d a s
  | .sext8 d a => Sys2Proof.Machine.execSext8 d a s
  | .sext16 d a => Sys2Proof.Machine.execSext16 d a s
  | .sext32 d a => Sys2Proof.Machine.execSext32 d a s
  | .zext8 d a => Sys2Proof.Machine.execZext8 d a s
  | .zext16 d a => Sys2Proof.Machine.execZext16 d a s
  | .zext32 d a => Sys2Proof.Machine.execZext32 d a s
  | .adds d a b sh => Sys2Proof.Machine.execAdds d a b sh s
  | .addi d a imm => Sys2Proof.Machine.execAddi d a imm s
  | .andi d a imm => Sys2Proof.Machine.execAndi d a imm s
  | .ori d a imm => Sys2Proof.Machine.execOri d a imm s
  | .xori d a imm => Sys2Proof.Machine.execXori d a imm s
  | .slti d a imm => Sys2Proof.Machine.execSlti d a imm s
  | .slli d a n => Sys2Proof.Machine.execSlli d a n s
  | .srli d a n => Sys2Proof.Machine.execSrli d a n s
  | .srai d a n => Sys2Proof.Machine.execSrai d a n s
  | .lui d imm => Sys2Proof.Machine.execLui d imm s
  | .beq a b off => Sys2Proof.Machine.execBeq a b off s
  | .bne a b off => Sys2Proof.Machine.execBne a b off s
  | .blt a b off => Sys2Proof.Machine.execBlt a b off s
  | .bge a b off => Sys2Proof.Machine.execBge a b off s
  | .bltu a b off => Sys2Proof.Machine.execBltu a b off s
  | .bgeu a b off => Sys2Proof.Machine.execBgeu a b off s
  | .j off => Sys2Proof.Machine.execJ off s
  | .call off => Sys2Proof.Machine.execCall off s
  | .jr a => Sys2Proof.Machine.execJr a s
  | .callr a => Sys2Proof.Machine.execCallr a s
  | .ret => Sys2Proof.Machine.execRet s
  | .loop lv cnt len => Sys2Proof.Machine.execLoop lv cnt len s
  | .loopr lv a len => Sys2Proof.Machine.execLoopr lv a len s
  | .cbr a g tag off => Sys2Proof.Machine.execCbr a g tag off s
  | .cvoteAnd d a tag => Sys2Proof.Machine.execCvoteAnd d a tag s
  | .cvoteOr d a tag => Sys2Proof.Machine.execCvoteOr d a tag s
  | .cmem d a => Sys2Proof.Machine.execCmem d a s
  | .gbar => Sys2Proof.Machine.execGbar s
  | .cbar => Sys2Proof.Machine.execCbar s
  | .galloc g => Sys2Proof.Machine.execGalloc g s
  | .gset g a => Sys2Proof.Machine.execGset g a s
  | .gres g => Sys2Proof.Machine.execGres g s
  | .spawn off => Sys2Proof.Machine.execSpawn off s
  | .pubf a => Sys2Proof.Machine.execPubf a s
  | .tend => Sys2Proof.Machine.execTend s
  | .sync => Sys2Proof.Machine.execSync s
  | .wpush a b => Sys2Proof.Machine.execWpush a b s
  | .wpop d => Sys2Proof.Machine.execWpop d s
  | .donate a b => Sys2Proof.Machine.execDonate a b s
  | .dpull d a => Sys2Proof.Machine.execDpull d a s
  | .quiet d => Sys2Proof.Machine.execQuiet d s
  | .ld t b sz ord off => Sys2Proof.Machine.execLd t b sz ord off s
  | .st t b sz ord off => Sys2Proof.Machine.execSt t b sz ord off s
  | .ldq t b ord off => Sys2Proof.Machine.execLdq t b ord off s
  | .stq t b ord off => Sys2Proof.Machine.execStq t b ord off s
  | .ldv d a b ord => Sys2Proof.Machine.execLdv d a b ord s
  | .stv d a b ord => Sys2Proof.Machine.execStv d a b ord s
  | .ldm d a ord => Sys2Proof.Machine.execLdm d a ord s
  | .stm d a ord => Sys2Proof.Machine.execStm d a ord s
  | .amoAdd d a b dbl ord => Sys2Proof.Machine.execAmoAdd d a b dbl ord s
  | .amoAnd d a b dbl ord => Sys2Proof.Machine.execAmoAnd d a b dbl ord s
  | .amoOr d a b dbl ord => Sys2Proof.Machine.execAmoOr d a b dbl ord s
  | .amoXor d a b dbl ord => Sys2Proof.Machine.execAmoXor d a b dbl ord s
  | .amoMin d a b dbl ord => Sys2Proof.Machine.execAmoMin d a b dbl ord s
  | .amoMax d a b dbl ord => Sys2Proof.Machine.execAmoMax d a b dbl ord s
  | .amoMinu d a b dbl ord => Sys2Proof.Machine.execAmoMinu d a b dbl ord s
  | .amoMaxu d a b dbl ord => Sys2Proof.Machine.execAmoMaxu d a b dbl ord s
  | .amoSwap d a b dbl ord => Sys2Proof.Machine.execAmoSwap d a b dbl ord s
  | .amoFadd d a b dbl ord => Sys2Proof.Machine.execAmoFadd d a b dbl ord s
  | .cas d a b dbl ord => Sys2Proof.Machine.execCas d a b dbl ord s
  | .casq d a b ord => Sys2Proof.Machine.execCasq d a b ord s
  | .fence sc k => Sys2Proof.Machine.execFence sc k s
  | .pf a w => Sys2Proof.Machine.execPf a w s
  | .cfl a => Sys2Proof.Machine.execCfl a s
  | .czero a => Sys2Proof.Machine.execCzero a s
  | .sld d a e => Sys2Proof.Machine.execSld d a e s
  | .sst d a e => Sys2Proof.Machine.execSst d a e s
  | .sldv d a e => Sys2Proof.Machine.execSldv d a e s
  | .shloc d a e => Sys2Proof.Machine.execShloc d a e s
  | .shwr a e => Sys2Proof.Machine.execShwr a e s
  | .shswap e => Sys2Proof.Machine.execShswap e s
  | .objdef d a => Sys2Proof.Machine.execObjdef d a s
  | .objdrop a => Sys2Proof.Machine.execObjdrop a s
  | .mapq d a => Sys2Proof.Machine.execMapq d a s
  | .rlq d a => Sys2Proof.Machine.execRlq d a s
  | .amsend d a b => Sys2Proof.Machine.execAmsend d a b s
  | .amret a => Sys2Proof.Machine.execAmret a s
  | .launch d a b => Sys2Proof.Machine.execLaunch d a b s
  | .eng d a g => Sys2Proof.Machine.execEng d a g s
  | .copy d a b g => Sys2Proof.Machine.execCopy d a b g s
  | .gath d a b g => Sys2Proof.Machine.execGath d a b g s
  | .scat d a b g => Sys2Proof.Machine.execScat d a b g s
  | .mcast d a b g => Sys2Proof.Machine.execMcast d a b g s
  | .sortc d a b g => Sys2Proof.Machine.execSortc d a b g s
  | .ringi n a b => Sys2Proof.Machine.execRingi n a b s
  | .ringa n a => Sys2Proof.Machine.execRinga n a s
  | .ringq d n => Sys2Proof.Machine.execRingq d n s
  | .mbxpost a b => Sys2Proof.Machine.execMbxpost a b s
  | .mbxread d a => Sys2Proof.Machine.execMbxread d a s
  | .mbxclr a => Sys2Proof.Machine.execMbxclr a s
  | .cbpost d a b => Sys2Proof.Machine.execCbpost d a b s
  | .cbtake d a => Sys2Proof.Machine.execCbtake d a s
  | .mwl d a b g => Sys2Proof.Machine.execMwl d a b g s
  | .mwls d a b g => Sys2Proof.Machine.execMwls d a b g s
  | .mma d a b g => Sys2Proof.Machine.execMma d a b g s
  | .mgrp d a b g => Sys2Proof.Machine.execMgrp d a b g s
  | .macz d a b g => Sys2Proof.Machine.execMacz d a b g s
  | .mdrain d a b g => Sys2Proof.Machine.execMdrain d a b g s
  | .mwait a => Sys2Proof.Machine.execMwait a s
  | .jdec d a => Sys2Proof.Machine.execJdec d a s
  | .boost a => Sys2Proof.Machine.execBoost a s
  | .etq d a => Sys2Proof.Machine.execEtq d a s
  | .fadd d a b rm fs => Sys2Proof.Machine.execFadd d a b rm fs s
  | .fsub d a b rm fs => Sys2Proof.Machine.execFsub d a b rm fs s
  | .fmul d a b rm fs => Sys2Proof.Machine.execFmul d a b rm fs s
  | .fdiv d a b rm fs => Sys2Proof.Machine.execFdiv d a b rm fs s
  | .fmin d a b fs => Sys2Proof.Machine.execFmin d a b fs s
  | .fmax d a b fs => Sys2Proof.Machine.execFmax d a b fs s
  | .fsqrt d a rm fs => Sys2Proof.Machine.execFsqrt d a rm fs s
  | .fclass d a fs => Sys2Proof.Machine.execFclass d a fs s
  | .ffma d a b c rm single => Sys2Proof.Machine.execFfma d a b c rm single s
  | .fcmp cc d a b fs => Sys2Proof.Machine.execFcmp cc d a b fs s
  | .fcvt d a dt st rm => Sys2Proof.Machine.execFcvt d a dt st rm s
  | .fsin d a single => Sys2Proof.Machine.execFsin d a single s
  | .fcos d a single => Sys2Proof.Machine.execFcos d a single s
  | .fexp2 d a single => Sys2Proof.Machine.execFexp2 d a single s
  | .flog2 d a single => Sys2Proof.Machine.execFlog2 d a single s
  | .frcp d a single => Sys2Proof.Machine.execFrcp d a single s
  | .frsq d a single => Sys2Proof.Machine.execFrsq d a single s
  | .vadd d a b et => Sys2Proof.Machine.execVadd d a b et s
  | .vsub d a b et => Sys2Proof.Machine.execVsub d a b et s
  | .vmul d a b et => Sys2Proof.Machine.execVmul d a b et s
  | .vfma d a b et => Sys2Proof.Machine.execVfma d a b et s
  | .vfms d a b et => Sys2Proof.Machine.execVfms d a b et s
  | .vmin d a b et => Sys2Proof.Machine.execVmin d a b et s
  | .vmax d a b et => Sys2Proof.Machine.execVmax d a b et s
  | .vabs d a et => Sys2Proof.Machine.execVabs d a et s
  | .vneg d a et => Sys2Proof.Machine.execVneg d a et s
  | .vdiv d a b et => Sys2Proof.Machine.execVdiv d a b et s
  | .vsqrt d a et => Sys2Proof.Machine.execVsqrt d a et s
  | .vand d a b et => Sys2Proof.Machine.execVand d a b et s
  | .vor d a b et => Sys2Proof.Machine.execVor d a b et s
  | .vxor d a b et => Sys2Proof.Machine.execVxor d a b et s
  | .vnot d a et => Sys2Proof.Machine.execVnot d a et s
  | .vshl d a b et => Sys2Proof.Machine.execVshl d a b et s
  | .vshr d a b et => Sys2Proof.Machine.execVshr d a b et s
  | .vsra d a b et => Sys2Proof.Machine.execVsra d a b et s
  | .vcmp cc d a b et => Sys2Proof.Machine.execVcmp cc d a b et s
  | .vsel d a b n et => Sys2Proof.Machine.execVsel d a b n et s
  | .vmov d a et => Sys2Proof.Machine.execVmov d a et s
  | .vbcast d a et => Sys2Proof.Machine.execVbcast d a et s
  | .vextr d a b => Sys2Proof.Machine.execVextr d a b s
  | .viota d et => Sys2Proof.Machine.execViota d et s
  | .vtrn d a et => Sys2Proof.Machine.execVtrn d a et s
  | .vredr op d a et => Sys2Proof.Machine.execVredr op d a et s
  | .vredc op d a et => Sys2Proof.Machine.execVredc op d a et s
  | .vchain d a b et => Sys2Proof.Machine.execVchain d a b et s
  | .vcvt d a et => Sys2Proof.Machine.execVcvt d a et s
  | .vqnt d a b et => Sys2Proof.Machine.execVqnt d a b et s
  | .vdqnt d a b et => Sys2Proof.Machine.execVdqnt d a b et s
  | .vxmax d a et => Sys2Proof.Machine.execVxmax d a et s
  | .vexp2 d a et => Sys2Proof.Machine.execVexp2 d a et s
  | .vlog2 d a et => Sys2Proof.Machine.execVlog2 d a et s
  | .vrcp d a et => Sys2Proof.Machine.execVrcp d a et s
  | .vrsq d a et => Sys2Proof.Machine.execVrsq d a et s
  | .vsin d a et => Sys2Proof.Machine.execVsin d a et s
  | .vcos d a et => Sys2Proof.Machine.execVcos d a et s
  | .mand d a b => Sys2Proof.Machine.execMand d a b s
  | .mor d a b => Sys2Proof.Machine.execMor d a b s
  | .mxor d a b => Sys2Proof.Machine.execMxor d a b s
  | .mnot d a => Sys2Proof.Machine.execMnot d a s
  | .mpopc d a => Sys2Proof.Machine.execMpopc d a s
  | .mfirst d a => Sys2Proof.Machine.execMfirst d a s
  | .loadWaitSwitch sid => Sys2Proof.Machine.execLoadWaitSwitch sid s
  | .watchdog eid => Sys2Proof.Machine.execWatchdog eid s
  | .external p => Sys2Proof.Machine.execExternal p s
  | .preemptDeadline job => Sys2Proof.Machine.execPreemptDeadline job s
  | .dormantDispatch eid => Sys2Proof.Machine.execDormantDispatch eid s
  | .delegatedDispatch sid => Sys2Proof.Machine.execDelegatedDispatch sid s
  | .delegatedReload sid => Sys2Proof.Machine.execDelegatedReload sid s
  | .loadHandler m => Sys2Proof.Machine.execLoadHandler m s
  | .storeHandler m => Sys2Proof.Machine.execStoreHandler m s
  | .atomicHandler m => Sys2Proof.Machine.execAtomicHandler m s
  | .casHandler m => Sys2Proof.Machine.execCasHandler m s
  | .joinDecrement m => Sys2Proof.Machine.execJoinDecrement m s
  | .mailboxInsert m => Sys2Proof.Machine.execMailboxInsert m s
  | .ringAdvance m => Sys2Proof.Machine.execRingAdvance m s
  | .ringAdvanceDeferred tile ring => Sys2Proof.Machine.execRingAdvanceDeferred tile ring s
  | .semaphoreSignal m => Sys2Proof.Machine.execSemaphoreSignal m s
  | .exchange x => Sys2Proof.Machine.execExchange x s
  | .subByteStore m => Sys2Proof.Machine.execSubByteStore m s
  | .softwareMessage m => Sys2Proof.Machine.execSoftwareMessage m s
  | .reply m => Sys2Proof.Machine.execReply m s
  | .refusal m => Sys2Proof.Machine.execRefusal m s
  | .resetAgent die agent => Sys2Proof.Machine.execResetAgent die agent s
  | .engineCommand m => Sys2Proof.Machine.execEngineCommand m s
  | .engineCommandStart e => Sys2Proof.Machine.execEngineCommandStart e s
  | .engineCompletion e tag => Sys2Proof.Machine.execEngineCompletion e tag s
  | .matrixPanelLatch tile => Sys2Proof.Machine.execMatrixPanelLatch tile s
  | .matrixRowEntry tile => Sys2Proof.Machine.execMatrixRowEntry tile s
  | .matrixRowAccumulate tile => Sys2Proof.Machine.execMatrixRowAccumulate tile s
  | .matrixTagComplete tile tag => Sys2Proof.Machine.execMatrixTagComplete tile tag s
  | .engineFaultTaken sid => Sys2Proof.Machine.execEngineFaultTaken sid s
  | .ringStallStop tile => Sys2Proof.Machine.execRingStallStop tile s
  | .drainRow tile => Sys2Proof.Machine.execDrainRow tile s
  | .collectiveContribution job member l => Sys2Proof.Machine.execCollectiveContribution job member l s
  | .dieLanes job die => Sys2Proof.Machine.execDieLanes job die s
  | .planeReduction job => Sys2Proof.Machine.execPlaneReduction job s
  | .collectiveOutcome sid => Sys2Proof.Machine.execCollectiveOutcome sid s
  | .heldStoreDrain sid => Sys2Proof.Machine.execHeldStoreDrain sid s
  | .cbarComplete job cluster => Sys2Proof.Machine.execCbarComplete job cluster s
  | .departureApplied cluster => Sys2Proof.Machine.execDepartureApplied cluster s
  | .mdepWrite cluster val => Sys2Proof.Machine.execMdepWrite cluster val s
  | .cfsumWrite cluster val => Sys2Proof.Machine.execCfsumWrite cluster val s
  | .slcfgWrite cluster val => Sys2Proof.Machine.execSlcfgWrite cluster val s
  | .slcfgDone cluster => Sys2Proof.Machine.execSlcfgDone cluster s
  | .registerWrite r val => Sys2Proof.Machine.execRegisterWrite r val s
  | .stealProbe eid => Sys2Proof.Machine.execStealProbe eid s
  | .stealRoundTimer eid => Sys2Proof.Machine.execStealRoundTimer eid s
  | .theft thief victim probe => Sys2Proof.Machine.execTheft thief victim probe s
  | .stolenRecordStart sid => Sys2Proof.Machine.execStolenRecordStart sid s
  | .syncPoll sid => Sys2Proof.Machine.execSyncPoll sid s
  | .tokenPass job => Sys2Proof.Machine.execTokenPass job s
  | .sideLogRetire sid gva size data rel => Sys2Proof.Machine.execSideLogRetire sid gva size data rel s
  | .sideLogReplay eid region => Sys2Proof.Machine.execSideLogReplay eid region s
  | .faultOpen sid gva k => Sys2Proof.Machine.execFaultOpen sid gva k s
  | .tlbWalk asid gva => Sys2Proof.Machine.execTlbWalk asid gva s
  | .dirtyLogMerge eid => Sys2Proof.Machine.execDirtyLogMerge eid s
  | .inval die => Sys2Proof.Machine.execInval die s
  | .resolve die => Sys2Proof.Machine.execResolve die s
  | .migrate die => Sys2Proof.Machine.execMigrate die s
  | .migrateCommit die slot => Sys2Proof.Machine.execMigrateCommit die slot s
  | .scrub die => Sys2Proof.Machine.execScrub die s
  | .wsync die => Sys2Proof.Machine.execWsync die s
  | .doorbell pkg fn q => Sys2Proof.Machine.execDoorbell pkg fn q s
  | .launchPacketArrival pkg q src ret words => Sys2Proof.Machine.execLaunchPacketArrival pkg q src ret words s
  | .placementTick pkg => Sys2Proof.Machine.execPlacementTick pkg s
  | .launchRetry pkg q => Sys2Proof.Machine.execLaunchRetry pkg q s
  | .placementReservation pkg from_ q op cores => Sys2Proof.Machine.execPlacementReservation pkg from_ q op cores s
  | .residence pkg q => Sys2Proof.Machine.execResidence pkg q s
  | .contextSave job => Sys2Proof.Machine.execContextSave job s
  | .jobCompletion job => Sys2Proof.Machine.execJobCompletion job s
  | .kill job => Sys2Proof.Machine.execKill job s
  | .energyRefill cluster => Sys2Proof.Machine.execEnergyRefill cluster s
  | .energyCharge cluster => Sys2Proof.Machine.execEnergyCharge cluster s
  | .headCharge cluster => Sys2Proof.Machine.execHeadCharge cluster s
  | .boostBoundary pkg => Sys2Proof.Machine.execBoostBoundary pkg s
  | .hotMark cluster on => Sys2Proof.Machine.execHotMark cluster on s
  | .clockSwitch cluster => Sys2Proof.Machine.execClockSwitch cluster s
  | .quiesceTimeout cluster => Sys2Proof.Machine.execQuiesceTimeout cluster s
  | .clusterGate cluster => Sys2Proof.Machine.execClusterGate cluster s
  | .clusterWake cluster => Sys2Proof.Machine.execClusterWake cluster s
  | .vernierMeasure cluster hours => Sys2Proof.Machine.execVernierMeasure cluster hours s
  | .almanacWrite pkg => Sys2Proof.Machine.execAlmanacWrite pkg s
  | .patrolScrub granule uncorrectable => Sys2Proof.Machine.execPatrolScrub granule uncorrectable s
  | .powerLimitCrossing pkg above => Sys2Proof.Machine.execPowerLimitCrossing pkg above s
  | .powerManagerSetting pkg what val => Sys2Proof.Machine.execPowerManagerSetting pkg what val s
  | .flitSlot pkg port => Sys2Proof.Machine.execFlitSlot pkg port s
  | .flitReceive pkg port f => Sys2Proof.Machine.execFlitReceive pkg port f s
  | .replayTimeout pkg port => Sys2Proof.Machine.execReplayTimeout pkg port s
  | .retrain pkg port => Sys2Proof.Machine.execRetrain pkg port s
  | .retrainDone pkg port => Sys2Proof.Machine.execRetrainDone pkg port s
  | .portDown pkg port => Sys2Proof.Machine.execPortDown pkg port s
  | .rekey pkg port transmit => Sys2Proof.Machine.execRekey pkg port transmit s
  | .hostAccess pkg h size wr => Sys2Proof.Machine.execHostAccess pkg h size wr s
  | .hostSectorWriteback pkg h mask data => Sys2Proof.Machine.execHostSectorWriteback pkg h mask data s
  | .xword pkg fn val => Sys2Proof.Machine.execXword pkg fn val s
  | .msixUnmask pkg fn vec => Sys2Proof.Machine.execMsixUnmask pkg fn vec s
  | .readAlmanac pkg => Sys2Proof.Machine.execReadAlmanac pkg s
  | .checkpoint pkg => Sys2Proof.Machine.execCheckpoint pkg s
  | .checkpointKillTimeout pkg job => Sys2Proof.Machine.execCheckpointKillTimeout pkg job s
  | .checkpointComplete pkg => Sys2Proof.Machine.execCheckpointComplete pkg s
  | .inputPowerLoss pkg => Sys2Proof.Machine.execInputPowerLoss pkg s
  | .restore pkg => Sys2Proof.Machine.execRestore pkg s
  | .setPlim pkg => Sys2Proof.Machine.execSetPlim pkg s
  | .spdm pkg => Sys2Proof.Machine.execSpdm pkg s
  | .setPlane pkg => Sys2Proof.Machine.execSetPlane pkg s
  | .loadImage pkg => Sys2Proof.Machine.execLoadImage pkg s
  | .powerUp pkg => Sys2Proof.Machine.execPowerUp pkg s
  | .readySet pkg bit => Sys2Proof.Machine.execReadySet pkg bit s
  | .bringupFailure pkg bit => Sys2Proof.Machine.execBringupFailure pkg bit s
  | .bringupFailureTimeout pkg bit => Sys2Proof.Machine.execBringupFailureTimeout pkg bit s
  | .accessPerformed eid acc => Sys2Proof.Machine.execAccessPerformed eid acc s
  | .reservedEncoding why => Sys2Proof.Machine.execReservedEncoding why s

end Sys2Proof.Machine
end

