-- ==== Sys2Proof/Machine/Run.lean ====
section
/-!
DEFINITION. An event that has been set off, or that the agenda brings, comes about: the meaning of its row.
-/
namespace Sys2Proof.Machine

open Sys2Proof

/-- The meaning of an event: that of the constructor of `Instr` of its name. -/
def Ev.run (e : Ev) (s : State) : Host.Outcome State Fault Refusal :=
  match e with
  | .loadWaitSwitch sid => Sys2Proof.Machine.execLoadWaitSwitch sid s
  | .watchdog eid => Sys2Proof.Machine.execWatchdog eid s
  | .external p => Sys2Proof.Machine.execExternal p s
  | .preemptDeadline job => Sys2Proof.Machine.execPreemptDeadline job s
  | .dormantDispatch eid => Sys2Proof.Machine.execDormantDispatch eid s
  | .delegatedDispatch sid => Sys2Proof.Machine.execDelegatedDispatch sid s
  | .delegatedReload sid => Sys2Proof.Machine.execDelegatedReload sid s
  | .loadHandler m => Sys2Proof.Machine.execLoadHandler m s
  | .storeHandler m => Sys2Proof.Machine.execStoreHandler m s
  | .atomicHandler m => Sys2Proof.Machine.execAtomicHandler m s
  | .casHandler m => Sys2Proof.Machine.execCasHandler m s
  | .joinDecrement m => Sys2Proof.Machine.execJoinDecrement m s
  | .mailboxInsert m => Sys2Proof.Machine.execMailboxInsert m s
  | .ringAdvance m => Sys2Proof.Machine.execRingAdvance m s
  | .ringAdvanceDeferred tile ring => Sys2Proof.Machine.execRingAdvanceDeferred tile ring s
  | .semaphoreSignal m => Sys2Proof.Machine.execSemaphoreSignal m s
  | .exchange x => Sys2Proof.Machine.execExchange x s
  | .subByteStore m => Sys2Proof.Machine.execSubByteStore m s
  | .softwareMessage m => Sys2Proof.Machine.execSoftwareMessage m s
  | .reply m => Sys2Proof.Machine.execReply m s
  | .refusal m => Sys2Proof.Machine.execRefusal m s
  | .resetAgent die agent => Sys2Proof.Machine.execResetAgent die agent s
  | .engineCommand m => Sys2Proof.Machine.execEngineCommand m s
  | .engineCommandStart e0 => Sys2Proof.Machine.execEngineCommandStart e0 s
  | .engineCompletion e0 tag => Sys2Proof.Machine.execEngineCompletion e0 tag s
  | .matrixPanelLatch tile => Sys2Proof.Machine.execMatrixPanelLatch tile s
  | .matrixRowEntry tile => Sys2Proof.Machine.execMatrixRowEntry tile s
  | .matrixRowAccumulate tile => Sys2Proof.Machine.execMatrixRowAccumulate tile s
  | .matrixTagComplete tile tag => Sys2Proof.Machine.execMatrixTagComplete tile tag s
  | .engineFaultTaken sid => Sys2Proof.Machine.execEngineFaultTaken sid s
  | .ringStallStop tile => Sys2Proof.Machine.execRingStallStop tile s
  | .drainRow tile => Sys2Proof.Machine.execDrainRow tile s
  | .collectiveContribution job member l => Sys2Proof.Machine.execCollectiveContribution job member l s
  | .dieLanes job die => Sys2Proof.Machine.execDieLanes job die s
  | .planeReduction job => Sys2Proof.Machine.execPlaneReduction job s
  | .collectiveOutcome sid => Sys2Proof.Machine.execCollectiveOutcome sid s
  | .heldStoreDrain sid => Sys2Proof.Machine.execHeldStoreDrain sid s
  | .cbarComplete job cluster => Sys2Proof.Machine.execCbarComplete job cluster s
  | .departureApplied cluster => Sys2Proof.Machine.execDepartureApplied cluster s
  | .mdepWrite cluster val => Sys2Proof.Machine.execMdepWrite cluster val s
  | .cfsumWrite cluster val => Sys2Proof.Machine.execCfsumWrite cluster val s
  | .slcfgWrite cluster val => Sys2Proof.Machine.execSlcfgWrite cluster val s
  | .slcfgDone cluster => Sys2Proof.Machine.execSlcfgDone cluster s
  | .registerWrite r val => Sys2Proof.Machine.execRegisterWrite r val s
  | .stealProbe eid => Sys2Proof.Machine.execStealProbe eid s
  | .stealRoundTimer eid => Sys2Proof.Machine.execStealRoundTimer eid s
  | .theft thief victim probe => Sys2Proof.Machine.execTheft thief victim probe s
  | .stolenRecordStart sid => Sys2Proof.Machine.execStolenRecordStart sid s
  | .syncPoll sid => Sys2Proof.Machine.execSyncPoll sid s
  | .tokenPass job => Sys2Proof.Machine.execTokenPass job s
  | .sideLogRetire sid gva size data rel => Sys2Proof.Machine.execSideLogRetire sid gva size data rel s
  | .sideLogReplay eid region => Sys2Proof.Machine.execSideLogReplay eid region s
  | .faultOpen sid gva k => Sys2Proof.Machine.execFaultOpen sid gva k s
  | .tlbWalk asid gva => Sys2Proof.Machine.execTlbWalk asid gva s
  | .dirtyLogMerge eid => Sys2Proof.Machine.execDirtyLogMerge eid s
  | .inval die => Sys2Proof.Machine.execInval die s
  | .resolve die => Sys2Proof.Machine.execResolve die s
  | .migrate die => Sys2Proof.Machine.execMigrate die s
  | .migrateCommit die slot => Sys2Proof.Machine.execMigrateCommit die slot s
  | .scrub die => Sys2Proof.Machine.execScrub die s
  | .wsync die => Sys2Proof.Machine.execWsync die s
  | .doorbell pkg fn q => Sys2Proof.Machine.execDoorbell pkg fn q s
  | .launchPacketArrival pkg q src ret words => Sys2Proof.Machine.execLaunchPacketArrival pkg q src ret words s
  | .placementTick pkg => Sys2Proof.Machine.execPlacementTick pkg s
  | .launchRetry pkg q => Sys2Proof.Machine.execLaunchRetry pkg q s
  | .placementReservation pkg from_ q op cores => Sys2Proof.Machine.execPlacementReservation pkg from_ q op cores s
  | .residence pkg q => Sys2Proof.Machine.execResidence pkg q s
  | .contextSave job => Sys2Proof.Machine.execContextSave job s
  | .jobCompletion job => Sys2Proof.Machine.execJobCompletion job s
  | .kill job => Sys2Proof.Machine.execKill job s
  | .energyRefill cluster => Sys2Proof.Machine.execEnergyRefill cluster s
  | .energyCharge cluster => Sys2Proof.Machine.execEnergyCharge cluster s
  | .headCharge cluster => Sys2Proof.Machine.execHeadCharge cluster s
  | .boostBoundary pkg => Sys2Proof.Machine.execBoostBoundary pkg s
  | .hotMark cluster on => Sys2Proof.Machine.execHotMark cluster on s
  | .clockSwitch cluster => Sys2Proof.Machine.execClockSwitch cluster s
  | .quiesceTimeout cluster => Sys2Proof.Machine.execQuiesceTimeout cluster s
  | .clusterGate cluster => Sys2Proof.Machine.execClusterGate cluster s
  | .clusterWake cluster => Sys2Proof.Machine.execClusterWake cluster s
  | .vernierMeasure cluster hours => Sys2Proof.Machine.execVernierMeasure cluster hours s
  | .almanacWrite pkg => Sys2Proof.Machine.execAlmanacWrite pkg s
  | .patrolScrub granule uncorrectable => Sys2Proof.Machine.execPatrolScrub granule uncorrectable s
  | .powerLimitCrossing pkg above => Sys2Proof.Machine.execPowerLimitCrossing pkg above s
  | .powerManagerSetting pkg what val => Sys2Proof.Machine.execPowerManagerSetting pkg what val s
  | .flitSlot pkg port => Sys2Proof.Machine.execFlitSlot pkg port s
  | .flitReceive pkg port f => Sys2Proof.Machine.execFlitReceive pkg port f s
  | .replayTimeout pkg port => Sys2Proof.Machine.execReplayTimeout pkg port s
  | .retrain pkg port => Sys2Proof.Machine.execRetrain pkg port s
  | .retrainDone pkg port => Sys2Proof.Machine.execRetrainDone pkg port s
  | .portDown pkg port => Sys2Proof.Machine.execPortDown pkg port s
  | .rekey pkg port transmit => Sys2Proof.Machine.execRekey pkg port transmit s
  | .hostAccess pkg h size wr => Sys2Proof.Machine.execHostAccess pkg h size wr s
  | .hostSectorWriteback pkg h mask data => Sys2Proof.Machine.execHostSectorWriteback pkg h mask data s
  | .xword pkg fn val => Sys2Proof.Machine.execXword pkg fn val s
  | .msixUnmask pkg fn vec => Sys2Proof.Machine.execMsixUnmask pkg fn vec s
  | .readAlmanac pkg => Sys2Proof.Machine.execReadAlmanac pkg s
  | .checkpoint pkg => Sys2Proof.Machine.execCheckpoint pkg s
  | .checkpointKillTimeout pkg job => Sys2Proof.Machine.execCheckpointKillTimeout pkg job s
  | .checkpointComplete pkg => Sys2Proof.Machine.execCheckpointComplete pkg s
  | .inputPowerLoss pkg => Sys2Proof.Machine.execInputPowerLoss pkg s
  | .restore pkg => Sys2Proof.Machine.execRestore pkg s
  | .setPlim pkg => Sys2Proof.Machine.execSetPlim pkg s
  | .spdm pkg => Sys2Proof.Machine.execSpdm pkg s
  | .setPlane pkg => Sys2Proof.Machine.execSetPlane pkg s
  | .loadImage pkg => Sys2Proof.Machine.execLoadImage pkg s
  | .powerUp pkg => Sys2Proof.Machine.execPowerUp pkg s
  | .readySet pkg bit => Sys2Proof.Machine.execReadySet pkg bit s
  | .bringupFailure pkg bit => Sys2Proof.Machine.execBringupFailure pkg bit s
  | .bringupFailureTimeout pkg bit => Sys2Proof.Machine.execBringupFailureTimeout pkg bit s
  | .accessPerformed eid acc => Sys2Proof.Machine.execAccessPerformed eid acc s
  | .reservedEncoding why => Sys2Proof.Machine.execReservedEncoding why s

end Sys2Proof.Machine
end

