-- ==== Sys2Proof/Machine/Issue.lean ====
section
/-!
DEFINITION. Issuing a unit: selection of a strand (R73), the boundary between units (R114, R264), the fetch (R38, R459), the
cycle of issue (R41-R44), the unit itself (R39, R40), and the loop-end event (R103, R104).
-/
namespace Sys2Proof.Machine

open Sys2Proof

/-! ## Events and steps set off -/

/-- Run an event: one that cannot come about yet stays set off. -/
def State.runEvent (s : State) (e : Ev) : Res :=
  match e.run { s with unit := { s.unit with status := .running } } with
  | .next t => .next (if t.unit.status = .waiting then t.later e else t)
  | r => r

/-- The n-th step that has been set off comes about. -/
def State.deliver (s : State) (n : Nat) : Res :=
  match s.flight[n]? with
  | none => .next s
  | some e => { s with flight := s.flight.eraseIdx n }.runEvent e

/-- Is the result numbered `id` that of an engine command (R341)? A reader of it waits on the command's tag, and the strand is BLOCKED
at once (R17, R72). -/
def State.engineTag (s : State) (eid id : Nat) : Bool := (s.core eid).reqs.any fun (_, r) => r.cmd && r.id == id

/-- Is a strand BLOCKED on a load wait (R17)? -/
def State.loadBlocked (s : State) (eid : Nat) (k : Strand) : Bool :=
  k.st == .blocked && (match k.wait with
    | .result id => !s.engineTag eid id
    | .outcome => true
    | .charge => true
    | .reply => true
    | w => w.again)

/-- A core's clock passes n cycles: those of R422 that are counted by the cycle. -/
def State.elapse (s : State) (eid n : Nat) : State :=
  let on := fun (p : Strand → Bool) => some (([0, 1, 2, 3].map (4 * eid + ·)).filter fun sid => p (s.strand sid))
  let load := on (s.loadBlocked eid)
  let s := s.countFor eid 0x01 n none
  let lv := (s.cluster (eid / 32)).clk
  let s := if lv = 1 then s.countFor eid 0x0C n none else if lv = 2 then s.countFor eid 0x0D n none else s
  let s := (s.countFor eid 0x04 n load).countFor eid 0x05 n (on fun k => k.wait == .miss)
  (s.countFor eid 0x0A n (on fun k => k.wait == .full)).countFor eid 0x0B n (on fun k => k.wait == .charge)

/-! ## Selection (R73) -/

/-- Of two READY strands the one selected first: a dispatched one before others, then the earlier stamp, then the lower number; but one
that has yielded comes after one that became READY in the cycle of its YIELD (R19). -/
def better (s : State) (a b : Nat) : Nat :=
  let x := s.strand a
  let y := s.strand b
  if x.dispatched != y.dispatched then (if x.dispatched then a else b)
  else if x.dispatched then a
  else if x.stamp = y.stamp && x.yielded && !y.yielded then b
  else if x.stamp ≤ y.stamp then a else b

/-- The strand that core eid selects. -/
def State.selected (s : State) (eid : Nat) : Option Nat :=
  ([0, 1, 2, 3].map (4 * eid + ·)).foldl (fun best sid =>
    if (s.strand sid).st = .ready then (match best with | none => some sid | some b => some (better s b sid)) else best) none

/-- The strand that holds the issue slot. -/
def State.active (s : State) (eid : Nat) : Option Nat :=
  ([0, 1, 2, 3].map (4 * eid + ·)).find? fun sid => (s.strand sid).st == .active

/-- Switch to a strand: 2 cycles in which the core issues nothing (R18). A dispatch that this selection passes over is no longer one
made since the last selection (R73). -/
def State.switchTo (s : State) (eid sid : Nat) : State :=
  let s := [0, 1, 2, 3].foldl (fun s i => s.modStrand (4 * eid + i) fun k => { k with dispatched := false }) (s.count eid 0x03 1 (some sid))
  (s.modStrand sid fun k => { k with st := .active, wait := .none, waited := 0 }).modCore eid
    fun c => { c with free := max c.free (c.cycle + 2), wcount := 0 }

/-! ## The boundary between units -/

/-- Does another strand of the core wait for the issue slot (R20)? -/
def State.rival (s : State) (sid : Nat) : Bool :=
  ([0, 1, 2, 3].map (sid / 4 * 4 + ·)).any fun o => o != sid && (s.strand o).st == .ready

/-- A core's clock passes n cycles (R422); the watchdog counts those in which a strand keeps the issue slot while another waits for it
(R20), while WDOG is not 0. -/
def State.pass (s : State) (eid n : Nat) : State :=
  let on := match s.active eid with
    | some sid => s.rival sid && (s.core eid).wdog != 0
    | none => false
  (s.elapse eid n).modCore eid fun c => { c with cycle := c.cycle + n, wcount := if on then c.wcount + n else c.wcount }

/-- How many cycles may pass before the watchdog's count reaches WDOG; none where it does not run (R20). -/
def State.watchRoom (s : State) (eid : Nat) : Option Nat :=
  match s.active eid with
  | some sid =>
    let c := s.core eid
    if s.rival sid && c.wdog != 0 then some (c.wdog.toNat - c.wcount) else none
  | none => none

/-- A core passes a cycle without issuing, and what was set off longest ago comes about. -/
def State.idle (s : State) (eid : Nat) : Res := ((s.pass eid 1).watch eid).deliver 0

/-- Was a strand of the core dispatched since the last selection (R17, R73)? -/
def State.dispatchPending (s : State) (sid : Nat) : Bool :=
  ([0, 1, 2, 3].map (sid / 4 * 4 + ·)).any fun o => o != sid && (s.strand o).st == .ready && (s.strand o).dispatched

/-- What a strand does at its unit boundary instead of issuing: a posted cause (R264-R268), WATCHDOG, PREEMPT, EXTERNAL
(R114). Under run-ahead they stay pending (R194), and so they do while a unit that has done part of its work waits. -/
def State.boundary (s : State) (sid : Nat) : Option State :=
  let k := s.strand sid
  let a := k.arch
  let own := match k.coll with
    | some c => c.kind == .gbar && c.pc == a.pc
    | none => false
  let held := (s.core (sid / 4)).accs.find? fun (c : Acc) => c.snum == sid % 4 && c.held
  match held with
  | some c =>
    if k.progress.isSome || k.ask.isSome then none
    else some (s.modStrand sid fun k => { k with st := .held, prior := .active, why := .access c.id, wait := .none, waited := 0 })
  | none =>
  if a.ahead || k.ask.isSome || k.progress.isSome || k.granted || k.inCbar || own then none
  else match nextPosted k.posted with
    | some (p, r) => some (s.takeCause sid p r)
    | none =>
      if k.wdog then
        some ((s.modStrand sid fun k => { k with wdog := false }).trapEntry sid true cWatchdog a.pc
          ((s.core (sid / 4)).wdog.zeroExtend 64))
      else if k.forced && a.prv != 0 then
        some ((s.modStrand sid fun k => { k with forced := false }).trapEntry sid true cPreempt a.pc 0)
      else match k.ext with
        | some w =>
          if a.ie then some ((s.modStrand sid fun k => { k with ext := none }).trapEntry sid true cExternal a.pc w) else none
        | none => none

/-! ## The fetch (R459) -/

/-- What the fetch at a strand's PC gives. -/
inductive Fetch where
  | words (w0 w1 : Nat)
  | held
  | later
  | cause (code : Nat)
  | refused (code : Nat)
  deriving DecidableEq, Repr

def State.fetch (s : State) (sid : Nat) : State × Fetch :=
  let a := (s.strand sid).arch
  if isDevice a.pc || s.barred (sid / 4 / 4096) (gvaDie a.pc) then (s, .cause cAccess)
  else if (s.strand sid).refused.any fun r => regionOf r == regionOf a.pc then (s, .refused cLoadFault)
  else if s.heldAt (sid / 128) (s.core (sid / 4)).asid a.pc then (s.rouse (sid / 128) (s.core (sid / 4)).asid a.pc, .later)
  else
    match s.resolve (sid / 128) (s.core (sid / 4)).asid a.wld false a.pc with
    | (s, _, .at_ p) =>
      if s.hostHas p 8 false then (s, .later)
      else
        let view := fun (n : Nat) => s.viewAt (sid / 128) p n
        let two := field a.pc 0 3 = 0 ∧ view 4 / 2 ^ 31 = 0
        let n := if two then 8 else 4
        if s.poisoned p n then (s, .refused cLoadFault)
        else (s.reach (sid / 128) (s.core (sid / 4)).asid a.pc p false, .words (view 4) (if two then view 8 / 2 ^ 32 else 0))
    | (s, _, .unmapped) => (s, .held)
    | (s, _, .poison) => (s, .refused cLoadFault)
    | (s, _, _) => (s, .refused cAccess)

/-! ## The cycle of issue (R41-R44, R143) -/

/-- The registers and words of a unit. -/
def unitSrcs : IssueUnit → List Reg
  | .lone _ c => instrSrcs c
  | .pair _ c a => vxpSrcs c a

def unitInstrs : IssueUnit → List Instr
  | .lone _ c => [c]
  | .pair _ c a => [c, a]

def unitWait : IssueUnit → Nat
  | .lone w _ => w.toNat
  | .pair w _ _ => w.toNat

/-- The numbers of the results that the unit must wait for at cycle t, as for a load: those it reads or would overtake (R44), and those that
may raise a flag, as those of an exchange, before SRD or SWR of FMODE (R90). They are not there, or are those of an exchange, whose cycle may
be known (R144). -/
def waitsOn (l : List Pend) (x : List XOpen) (t : Nat) (u : IssueUnit) : List Nat :=
  let r := unitSrcs u
  let d := (unitInstrs u).flatMap allDests
  let fm := (unitInstrs u).any touchesFmode
  (l.filter fun p =>
    let known := p.due.isSome && p.id != 0 && !p.ready t
    (p.due.isNone && p.reg.any d.contains) || ((p.due.isNone || known) && (p.reg.any r.contains ||
      (fm && (p.flags != 0 || x.any fun (o : XOpen) => o.id == p.id))))).map (·.id)

/-- The earliest cycle at which the unit may issue, from `t` on, as far as it reads: the scoreboarded results it reads have landed (R42). -/
def readyAt (l : List Pend) (u : IssueUnit) (t : Nat) : Nat :=
  let fm := (unitInstrs u).any touchesFmode
  l.foldl (fun m p => match p.due, p.reg with
    | some d, some r => if !p.fixed && (unitSrcs u).contains r then max m d else m
    | some d, none => if fm && p.flags != 0 then max m d else m
    | _, _ => m) t

/-- A register's number for STALL_CHECK (R43). -/
def stallNo : Reg → Nat
  | .x n => n.toNat
  | .v n => 256 + n.toNat
  | .m n => 512 + n.toNat

/-- The lowest register that the unit reads uncovered at cycle t (R43). -/
def uncovered (l : List Pend) (u : IssueUnit) (t : Nat) : Option Nat :=
  l.foldl (fun best p => match p.due, p.reg with
    | some d, some r =>
      if p.fixed && t < d && (unitSrcs u).contains r then
        (match best with | none => some (stallNo r) | some b => some (min b (stallNo r))) else best
    | _, _ => best) none

/-! ## Running a unit -/

/-- The address after a unit (R38). -/
def unitSize : IssueUnit → Nat
  | .lone .. => 4
  | .pair .. => 8

/-- Set the unit in hand. -/
def State.begin (s : State) (sid : Nat) (lone : Bool) (size now : Nat) : State :=
  let p := (s.strand sid).arch.pc
  { s with unit := { sid := sid, pc := p, next := p + BitVec.ofNat 64 size, lone := lone, now := now, vxp := Vxp.none,
                     status := .running } }

def rankOf : UnitStatus → Option Nat
  | .trapped r => some r
  | _ => none

/-- The A word after the C word of its pair, an ETQ that charges (R413), under the registers at the pair's issue (R39), which it does not
change. Where the A word's charge then waits, the unit waits, without an effect but that the ETQ's charge has been taken (R411). -/
def runAfter (a : Instr) (s sc : State) (cost : Nat) : Res :=
  let arch := sc.arch
  match exec a ({ sc with unit := s.unit }.modArch fun _ => s.arch) with
  | .next t =>
    if t.unit.status = .waiting then
      .next ({ s with clusters := t.clusters, flight := t.flight, unit := t.unit }.waits.keepCharge cost (sc.cluster (s.eid / 32)).tokens
        |>.modCur fun k => { k with wait := .charge })
    else
      let status := if t.unit.status = .running then sc.unit.status else t.unit.status
      .next { (t.modArch fun _ => arch) with unit := { sc.unit with status := status } }
  | r => r

/-- The tokens that a C word charges (R413). -/
def chargeOf (c : Instr) (s : State) : Nat := match c with
  | .etq _ x => field (s.rx x) 16 16
  | _ => 0

/-- The two words of a pair: VXP first and the A word under it; otherwise each word is tried by itself. If either traps, the first
cause of R40 is taken, the C word's before the A word's; else if either waits, the unit waits, and neither has an effect. When both run,
the A word, whose results all land later, goes first, so that a CBR's checkpoint has them (R39); where its own charge alone would make
the C word wait, it goes second. -/
def runPair (c a : Instr) (s : State) : Res :=
  match c with
  | .vxp .. =>
    match exec c s with
    | .next t => exec a t
    | r => r
  | _ =>
    match exec a s, exec c s with
    | .next sa, .next sc =>
      match rankOf sc.unit.status, rankOf sa.unit.status with
      | some rc, some ra => .next (if rc ≤ ra then sc else sa)
      | some _, none => .next sc
      | none, some _ => .next sa
      | none, none =>
        if sa.unit.status = .waiting then .next sa
        else if sc.unit.status = .waiting then .next sc
        else
          match exec c sa with
          | .next t => if t.unit.status = .running ∨ t.unit.status = .jumped then .next t else runAfter a s sc (chargeOf c s)
          | r => r
    | .next _, r => r
    | r, _ => r

def runUnit (u : IssueUnit) (s : State) : Res :=
  match u with
  | .lone _ c => exec c s
  | .pair _ c a => runPair c a s

/-- Close a unit that was issued at cycle t: time passes, and loop ends, waits and the watchdog are seen to. The loop's end is judged with
the loop registers as the unit has left them (R103; DESIGN CHOICE for an SWR of one of them, log entry 73). -/
def State.finish (s : State) (sid t : Nat) : Res :=
  let eid := sid / 4
  let s := s.pass eid (t + 1 - (s.core eid).cycle)
  let s := match s.unit.status with
    | .running => s.count eid 0x02 1 (some sid)
    | .jumped => s.count eid 0x02 1 (some sid)
    | _ => s
  let s : State := match s.unit.status with
    | .running => s.modStrand sid fun k =>
        { k with arch := loopEnd s.unit.next k.arch, lastIssue := some t, wait := .none, waited := 0, granted := false }
    | .jumped => s.modStrand sid fun k => { k with lastIssue := some t, wait := .none, waited := 0, granted := false }
    | .trapped _ => s.modStrand sid fun k => { k with lastIssue := some t, wait := .none, waited := 0, granted := false }
    | .waiting => s.modStrand sid fun k => { k with waited := k.waited + 1 }
  let s := if s.unit.status = .waiting ∧ 24 < (s.strand sid).waited ∧ (s.strand sid).st = .active then
      s.later (.loadWaitSwitch sid) else s
  let s := (s.modStrand sid (Strand.noteFlags t)).watch eid
  if s.unit.status = .waiting ∨ (s.strand sid).st ≠ .active then s.deliver 0 else .next s

/-- The cycle by which the older writes have landed that a unit's new results would overtake (R44). -/
def overtaken (old new : List Pend) : Option Nat :=
  old.foldl (fun m p => match p.due, p.reg with
    | some d, some r => if new.any (fun (q : Pend) => q.reg == some r && q.due.any (· < d)) then some (max d (m.getD d)) else m
    | _, _ => m) none

/-- The results that a unit would set off if it issued at cycle t. -/
def State.tried (s : State) (sid : Nat) (u : IssueUnit) (t : Nat) : List Pend :=
  let s := (s.modStrand sid fun k => k.land t).begin sid ((unitSize u) == 4) (unitSize u) t
  match runUnit u (s.modArch fun a => { a with pc := s.unit.next }) with
  | .next r => if r.unit.status = .running ∨ r.unit.status = .jumped then (r.strand sid).pend.drop (s.strand sid).pend.length else []
  | _ => []

/-- The cycle of issue, from t on: while the unit would write a register whose older write is still due later than its own, its issue is
delayed until that write lands (R44); `fuel` bounds the delays. -/
def State.issueTime (s : State) (sid : Nat) (u : IssueUnit) : Nat → Nat → Nat
  | 0, t => t
  | fuel + 1, t =>
    match overtaken (((s.strand sid).land t).pend) (s.tried sid u t) with
    | some d => State.issueTime s sid u fuel (max t d)
    | none => t

/-- Issue a unit at cycle t: results due have landed; STALL_CHECK ranks after PRIVILEGE (R40). -/
def State.issueAt (s : State) (sid : Nat) (u : IssueUnit) (t : Nat) : Res :=
  let k := s.strand sid
  let stall := if k.arch.chk then uncovered k.pend u t else none
  let s := s.modStrand sid fun k => k.land t
  let s := s.pass (sid / 4) (t - s.cycleOf sid)
  let s := s.begin sid ((unitSize u) == 4) (unitSize u) t
  let go := s.modArch fun a => { a with pc := s.unit.next }
  match runUnit u go with
  | .next r =>
    let r := match stall with
      | none => r
      | some n =>
        match rankOf r.unit.status with
        | some k => if k ≤ 3 then r else s.raise 4 cStall (BitVec.ofNat 64 n)
        | none => s.raise 4 cStall (BitVec.ofNat 64 n)
    r.finish sid t
  | r => r

/-- The strand waits until cycle t for its unit's issue; where the watchdog's count reaches WDOG before that, it is raised and the unit
waits for the boundary that takes it (R20, R114). -/
def State.waitFor (s : State) (sid t : Nat) (f : State → Res) : Res :=
  match s.watchRoom (sid / 4) with
  | some n => if n ≤ t - s.cycleOf sid && !(s.strand sid).arch.ahead then .next ((s.pass (sid / 4) (max 1 n)).watch (sid / 4)) else f s
  | none => f s

/-- A pair that breaks the rules of R39 and R51 as it stands, or an A word whose element type VSHAPE does not allow, which comes before
them (R40, R141). -/
def State.pairFault (s : State) (sid : Nat) (e : EncFault) (w1 : Nat) : EncFault :=
  match e, decodeA w1 with
  | .pair, some a =>
    let s := s.begin sid false 8 (s.cycleOf sid)
    match exec a { s with unit := { s.unit with status := .running } } with
    | .next t => if t.unit.status = .trapped 2 then .aWord else .pair
    | _ => .pair
  | _, _ => e

/-- The issue of the active strand's next unit. -/
def State.issueStrand (s : State) (eid sid : Nat) : Res :=
  match s.fetch sid with
  | (s, .held) =>
    let s := s.modStrand sid fun k => { k with st := .held, prior := .active, why := .fetch }
    (s.once (.faultOpen sid (s.strand sid).arch.pc .load)).idle eid
  | (s, .later) => s.idle eid
  | (s, .cause code) =>
    let k := s.strand sid
    let s := s.begin sid true 4 (s.core eid).cycle
    (s.raise 1 code k.arch.pc).finish sid (max (s.core eid).cycle (s.core eid).free)
  | (s, .refused code) =>
    let k := s.strand sid
    let s := s.begin sid true 4 (s.core eid).cycle
    (s.refusal code k.arch.pc).finish sid (max (s.core eid).cycle (s.core eid).free)
  | (s, .words w0 w1) =>
    let k := s.strand sid
    let c := s.core eid
    let base := max c.cycle c.free
    match decodeUnit (field k.arch.pc 0 3 == 4) w0 w1 with
    | .error e =>
      let e := if fnat w0 31 1 = 1 then e else s.pairFault sid e w1
      let s := s.begin sid true 4 base
      match (Ev.reservedEncoding e).run s with
      | .next r => r.finish sid base
      | r => r
    | .ok u =>
      let t0 := match k.lastIssue with
        | some l => max base (l + unitWait u + 1)
        | none => base
      let t0 := if (unitInstrs u).any isVector then max t0 c.vfree else t0
      match waitsOn k.pend k.xop c.cycle u with
      | id :: ids =>
        let s := s.begin sid true 4 t0
        (match (id :: ids).find? (s.engineTag eid) with
        | some e => s.block (.result e)
        | none => s.waits.modCur fun k => { k with wait := .result id }).finish sid c.cycle
      | [] =>
        let t := s.issueTime sid u k.pend.length (readyAt k.pend u t0)
        s.waitFor sid t fun s => s.issueAt sid u t

/-- A strand of the core that is HELD for a pre-empt in the middle of a unit. -/
def State.ending (s : State) (eid : Nat) : Option Nat :=
  ([0, 1, 2, 3].map (4 * eid + ·)).find? fun sid => let k := s.strand sid; k.st == .held && k.why == .preempted && k.midUnit

/-- A HELD strand ends the unit it is in the middle of; it stays HELD (R72). -/
def State.endUnit (s : State) (eid sid : Nat) : Res :=
  match s.issueStrand eid sid with
  | .next t => .next (t.modStrand sid fun k => if k.st = .blocked then { k with st := .held, why := .preempted } else k)
  | r => r

/-- One step of a core: select a strand, or attend to its boundary, or issue its next unit. -/
def State.issue (s : State) (eid : Nat) : Res :=
  let s := s.lockTurn eid
  match s.active eid with
  | none =>
    match s.selected eid, s.ending eid with
    | none, none => s.idle eid
    | none, some sid => s.endUnit eid sid
    | some sid, _ => .next (s.switchTo eid sid)
  | some sid =>
    if s.dispatchPending sid then
      .next (s.modStrand sid fun k => { k with st := .ready, stamp := s.cycleOf sid, yielded := false, waited := 0 })
    else
      match s.boundary sid with
      | some t => .next t
      | none => s.issueStrand eid sid

/-- READY0 and READY1 with every function of the package usable (R443). -/
def readyAll : BitVec 128 := 0x3FFFF7F7F7F7F7F7F7F7F

/-- Stand an instruction of `nbits` bits where the focus core's strand 0 fetches next: its words at the PC, the page readable
in the TLB of the PC's die at the same DPA, the packages of the core and the PC brought up, the strand ACTIVE with nothing pending, and no agenda. -/
def State.placeWord (s : State) (nbits w : Nat) : State :=
  let eid := s.focus
  let sid := 4 * eid
  let s := [0, 1, 2, 3].foldl (fun s i => s.modStrand (4 * eid + i) fun k =>
    if i = 0 then { k with st := .active, posted := [], pend := [], ext := none, wdog := false, forced := false }
    else { k with st := .off }) s
  let pc := (s.strand sid).arch.pc
  let d := gvaDie pc
  let off := gvaOff pc
  let leaf := putField (BitVec.ofNat 64 0x13) 16 24 (off / 2 ^ 16 % 2 ^ 20)
  let e : TlbEntry := { asid := (s.core eid).asid, size := 16, page := off / 2 ^ 16, leaf := leaf, loaded := leaf, at_ := 0 }
  let p := Place.hbm d (off % 2 ^ 36) true
  let bytes := if nbits ≤ 32 then 4 else 8
  let up := fun (s : State) (p : Nat) => s.modPkg p fun k => { k with ready := readyAll }
  let s := up (up s (eid / 4096)) (d / 8)
  let s := s.modDie d fun k => { k with tlb := e :: k.tlb.filter fun f => !f.hits e.asid off }
  { s with mem := Mem.write s.mem (p.keys bytes) w, agenda := [] }

end Sys2Proof.Machine
end

