-- ==== Sys2Proof/Machine/Step.lean ====
section
/-!
DEFINITION. One step of the machine: what the agenda says, or else the focus core issues; and the placing of an instruction
where the next step fetches it.
-/
namespace Sys2Proof.Machine

open Sys2Proof

/-- One step. -/
def step (s : State) : Host.Outcome State Fault Refusal :=
  match s.agenda with
  | [] => s.issue s.focus
  | .event e :: r => { s with agenda := r }.runEvent e
  | .issue e :: r => { s with agenda := r }.issue e
  | .deliver n :: r => { s with agenda := r }.deliver n

/-- The state with an instruction's words at the focus core's strand 0, which is about to fetch them: the strand is ACTIVE,
its page is in the TLB of its die, and nothing else is in the way. -/
def State.withFetchWord (s : State) (nbits w : Nat) : State := s.placeWord nbits w

end Sys2Proof.Machine
end

