-- ==== Sys2Proof/Safety.lean ====
section
/-!
DEFINITION. The words that claims are stated in: what a register reads at a cycle, what a unit sets off, and what it leaves alone.
A run is safe as long as every step answers a next state.
-/
namespace Sys2Proof.Machine

open Sys2Proof

/-! ## Registers as time passes (R42-R44) -/

/-- What a register reads. -/
def Arch.read (a : Arch) : Reg → VecVal
  | .x r => (a.getX r).setWidth 4096
  | .v r => a.getV r
  | .m r => (a.getM r).setWidth 4096

/-- The registers of the unit's strand once the results due by cycle c have landed. -/
def State.archAt (s : State) (c : Nat) : Arch := (s.cur.land c).arch

/-- Is every earlier result of register r due by cycle c, as the issue of a unit sees to (R44)? -/
def State.settled (s : State) (r : Reg) (c : Nat) : Prop := ∀ p ∈ s.cur.pend, p.reg = some r → p.ready c = true

/-- The registers that results never change: all but x, v, m and FMODE. -/
def Arch.fixedPart (a : Arch) : Arch :=
  { a with x := Arch.reset.x, v := Arch.reset.v, m := Arch.reset.m, fmode := 0 }

/-- What a unit that only sets off results leaves alone: all of the machine but its own strand, all of that strand but its
results to come, every byte of memory, every register but those of `rs` at every cycle, and, where it raises no flag, FMODE. -/
structure OnlyResults (s t : State) (rs : List Reg) (fl : Fl) : Prop where
  rest : t = { s with strands := t.strands }
  others : ∀ sid, sid ≠ s.unit.sid → t.strand sid = s.strand sid
  own : t.cur = { s.cur with pend := t.cur.pend }
  bytes : ∀ k, Mem.byte t.mem k = Mem.byte s.mem k
  reads : ∀ c r, r ∉ rs → (t.archAt c).read r = (s.archAt c).read r
  special : ∀ c, (t.archAt c).fixedPart = (s.archAt c).fixedPart
  flags : fl = 0 → ∀ c, (t.archAt c).fmode = (s.archAt c).fmode

/-- The instruction completes with one result of an x register, which lands `lat` cycles after the issue and not before, and raises
the flags `fl` with it; x0 discards the result (R45). -/
def GivesX (i : Instr) (s : State) (d : XReg) (v : Word) (fl : Fl) (lat : Nat) : Prop :=
  ∃ t, exec i s = .next t ∧
    (t.archAt (s.unit.now + lat)).getX d = (if d = 0 then 0 else v) ∧
    (∀ c, c < s.unit.now + lat → (t.archAt c).getX d = (s.archAt c).getX d) ∧
    (t.archAt (s.unit.now + lat)).fmode = (s.archAt (s.unit.now + lat)).fmode ||| fl.zeroExtend 64 ∧
    OnlyResults s t [.x d] fl

/-- The same for a mask register; m0 discards the result (R45). -/
def GivesM (i : Instr) (s : State) (d : MReg) (v : MaskVal) (fl : Fl) (lat : Nat) : Prop :=
  ∃ t, exec i s = .next t ∧
    (d ≠ 0 → (t.archAt (s.unit.now + lat)).getM d = v) ∧
    (∀ c, c < s.unit.now + lat → (t.archAt c).getM d = (s.archAt c).getM d) ∧
    (t.archAt (s.unit.now + lat)).fmode = (s.archAt (s.unit.now + lat)).fmode ||| fl.zeroExtend 64 ∧
    OnlyResults s t [.m d] fl

/-! ## Vector instructions (R141-R147, R410, R411) -/

/-- The bucket of the strand's cluster as it stands at the unit's cycle (R409). -/
def State.bucket (s : State) : Cluster := (s.cluster (s.eid / 32)).runTo s.unit.now

/-- No charge waits at the bucket and its balance covers the cost (R411). -/
def State.canPay (s : State) (cost : Nat) : Prop :=
  (s.cluster (s.eid / 32)).charges = [] ∧ covers s.bucket.tokens cost = true

/-- The tokens are charged, and the core's vector datapath is occupied for `occ` cycles (R143, R411). -/
def State.paid (s : State) (cost occ : Nat) : State :=
  (s.setCluster (s.eid / 32) { s.bucket with tokens := s.bucket.tokens - cost }).modCore s.eid fun c =>
    { c with vfree := s.unit.now + occ }

/-- The flags of the selected elements (R146). -/
def State.elemFlags (s : State) (n : Nat) (e : Nat → FRes) : Fl :=
  (List.range n).foldl (fun f j => if s.sel j then f ||| (e j).2 else f) 0

/-- The instruction completes, is charged `cost` tokens, and writes n elements of width w of vd when its result lands: a selected
element becomes e j; one that is masked off becomes zero or keeps its value; the elements beyond keep theirs (R142, R146). -/
def GivesElems (i : Instr) (s : State) (d : VReg) (w n : Nat) (e : Nat → FRes) (cost occ lat : Nat) : Prop :=
  ∃ t, exec i s = .next t ∧
    (∀ j, elem ((t.archAt (s.unit.now + lat)).getV d) w j =
      if j < n then (if s.sel j then (e j).1 % 2 ^ w else if s.unit.vxp.mz then 0
        else elem ((s.archAt (s.unit.now + lat)).getV d) w j)
      else elem ((s.archAt (s.unit.now + lat)).getV d) w j) ∧
    (∀ c, c < s.unit.now + lat → (t.archAt c).getV d = (s.archAt c).getV d) ∧
    (t.archAt (s.unit.now + lat)).fmode = (s.archAt (s.unit.now + lat)).fmode ||| (s.elemFlags n e).zeroExtend 64 ∧
    OnlyResults (s.paid cost occ) t [.v d] (s.elemFlags n e)

/-- A legal shape (R70): its elements fill at most a vector register. -/
def Arch.shapeOk (a : Arch) : Prop := a.shape.n * a.shape.w ≤ 4096

/-- The shape in force is legal and its element type is et, the charge is covered, and vd is free to take its result (R141). -/
def State.vectorReady (s : State) (et : Et) (d : VReg) (cost lat : Nat) : Prop :=
  et = s.arch.shapeEt ∧ s.arch.shapeOk ∧ s.settled (.v d) (s.unit.now + lat) ∧ s.canPay cost

/-! ## Control, traps and accesses -/

/-- The instruction completes with control at t: the PC is all that changes. -/
def Jumps (i : Instr) (s : State) (t : Word) : Prop :=
  exec i s = .next { (s.modArch fun a => { a with pc := t }) with unit := { s.unit with status := .jumped } }

/-- The instruction completes and changes registers of its own strand only, as f says. -/
def SetsArch (i : Instr) (s : State) (f : Arch → Arch) : Prop := exec i s = .next (s.modArch f)

/-- The instruction traps on its own strand (R112): its fixed-latency results land, CAUSE, EPC and EVAL name the unit, IE and PRV and WLD
are kept in STATUS, a strand at U goes to S, and the handler at TVEC[63:8] is next. No byte of memory and no other strand changes. -/
def Traps (i : Instr) (s : State) (code : Nat) (eval : Word) : Prop :=
  s.arch.ahead = false → s.delegate s.unit.sid = none →
  ∃ t a, exec i s = .next t ∧ a = (s.cur.landFixed (s.cycleOf s.unit.sid)).arch ∧
    t.arch = { a with cause := BitVec.ofNat 64 code, epc := s.unit.pc, eval := eval, status := statusOnTrap a.status,
                      pc := a.tvec &&& ~~~(0xFF : Word) } ∧
    (∃ r, t.unit = { s.unit with status := .trapped r }) ∧
    (∀ sid, sid ≠ s.unit.sid → t.strand sid = s.strand sid) ∧ (∀ k, Mem.byte t.mem k = Mem.byte s.mem k)

/-- The unit may send a load (`ld`), a store (`wr`) or an atomic (both) to these pieces: no fence of its strand holds it back (R260),
no held store that it comes after drains (R195), and a miss register is free (R220). -/
structure State.maySend (s : State) (ps : List Piece) (ld wr : Bool) : Prop where
  load : ld = true → s.fenced true = false
  store : wr = true → s.fenced false = false
  drained : s.draining = false ∨ wr = false ∧ overAll (s.fromHeld ps) ps = true
  miss : s.missFree s.unit.sid (s.linesOf s.eid s.curCore.asid ps) = true

/-- The level and the routes admit each of these rows of rlen bytes; it is aligned to al and lies in one die (R248). -/
structure State.admits (s : State) (rows : List Word) (rlen al : Nat) (reg : Bool) : Prop where
  level : ∀ g ∈ rows, ∀ h ∈ [g, lastByte g rlen], gvaAllowed (s.arch.prv == 0) reg h = true ∧ s.barred (s.eid / 4096) (gvaDie h) = false
  aligned : ∀ g ∈ rows, g.toNat % al = 0 ∧ gvaDie g = gvaDie (lastByte g rlen)

/-- None of the causes that R248 has checked at issue is present for rows of rlen bytes: they are admitted, and no byte of them is
range-locked. -/
structure State.mayAccess (s : State) (rows : List Word) (rlen al : Nat) (wr reg : Bool) : Prop extends s.admits rows rlen al reg where
  unlocked : ∀ g ∈ rows, ∀ i, i < rlen → ∀ q ∈ (s.tile (s.eid / 2)).locks, wr = true ∨ q.2.dst = true →
    ¬ (q.2.first.toNat ≤ (g + BitVec.ofNat 64 i).toNat ∧ (g + BitVec.ofNat 64 i).toNat ≤ q.2.last.toNat)

/-- Is a load or a store one of a control register, and ordered strongly (R246)? -/
def strongOp (op : AccOp) (ps : List Piece) : Bool := match op with
  | .load _ => strongAccess ps
  | .store _ => strongAccess ps
  | _ => false

/-- Is an access a release fence, which its strand keeps for those that observe what it had written (R231)? -/
def AccOp.releases : AccOp → Bool
  | .fence _ .rel => true
  | .fence _ .ar => true
  | _ => false

/-- The instruction completes by sending one access: it joins the core's accesses and will be performed; the registers of `waits`
await its result; no byte of memory, no register and no other strand changes. An invariant load's promise begins at its die (R237). -/
def SendsAccess (i : Instr) (s : State) (op : AccOp) (ps : List Piece) (acq rel inv : Bool) (overlay : List (Nat × Part))
    (waits : List Reg) (keep : VecVal) : Prop :=
  ∃ t, exec i s = .next t ∧
    t = { s with fresh := s.fresh + 1, cores := t.cores, strands := t.strands, dies := t.dies,
                 flight := s.flight ++ [.accessPerformed s.eid (s.fresh + 1)] } ∧
    (inv = false → t.dies = s.dies) ∧
    (∀ e, e ≠ s.eid → t.core e = s.core e) ∧
    t.core s.eid = { s.core s.eid with accs := (s.core s.eid).accs ++
      [{ id := s.fresh + 1, snum := s.unit.sid % 4, op := op, pieces := ps, asid := (s.core s.eid).asid, wld := s.arch.wld,
         user := s.arch.prv == 0, acq := acq, rel := rel, strong := strongOp op ps,
         lines := s.linesOf s.eid (s.core s.eid).asid ps, held := false, overlay := overlay, bad := none, inv := inv, drops := [] }] } ∧
    (∀ sid, sid ≠ s.unit.sid → t.strand sid = s.strand sid) ∧
    t.cur = { s.cur with
      pend := s.cur.pend ++ (waits.filter fun r => r != .x 0 && r != .m 0).map fun r =>
        { reg := some r, val := 0, keep := keep, flags := 0, due := none, fixed := false, id := s.fresh + 1 },
      fences := t.cur.fences } ∧
    (op.releases = false → t.cur.fences = s.cur.fences) ∧ (op.releases = true → s.fresh + 1 ∈ t.cur.fences) ∧
    (∀ k, Mem.byte t.mem k = Mem.byte s.mem k)

/-- Under run-ahead a store enters the holding buffer, whole, and nothing else changes (R190). -/
def HoldsStore (i : Instr) (s : State) (ps : List Piece) (data : Nat) (rel : Bool) : Prop :=
  exec i s = .next (s.modCur fun k => { k with hold := k.hold ++ heldOf ps data rel (s.core s.eid).asid s.arch.wld })

/-! ## Messages, engines, collectives -/

/-- Has the memory agent of a core the generation of its entry, or does its access go to no other agent (R382)? -/
def State.inDate (s : State) (eid : Nat) (a : Acc) : Prop :=
  s.remote eid a = false ∨ s.genTable (eid / 512) (coreAgent eid) = s.ownGen (eid / 512) (coreAgent eid)

/-- A request is served on arrival (R31, R32, R244, R334, R420, R443): the functions on its way are usable and its cluster awake, nothing that
it must stay behind is on its way, no gateway holds it, its KIND is known and its generation that of the table, its destination's job owns it,
and the world table lets it in. -/
structure State.accepts (s : State) (m : Msg) (rel : Bool) : Prop where
  usable : ∀ q ∈ (m.dest / 4096, msgBit m) :: s.way (m.src / 512) (m.dest / 512), s.ready q.1 q.2 = true ∧ s.gone q.1 q.2 = false
  awake : (s.cluster (m.dest / 32)).gated = false
  order : s.overtakes m = false ∧ s.msgAcquires m = false ∧ (rel = true → s.msgOwes m = false) ∧ s.gateHeld m = false
  generation : s.genTable (m.src / 512) (coreAgent m.src) = m.gen
  kind : ∀ c, m.kind ≠ .reserved c
  owner : s.owned m = true ∧ s.worldBars m = false

/-- A register that waits for the result numbered id; x0 waits for none. -/
def waitsFor (d : XReg) (id : Nat) : List Pend :=
  if d = 0 then [] else [{ reg := some (.x d), val := 0, keep := 0, flags := 0, due := none, fixed := false, id := id }]

/-- A scoreboarded result of an x register that lands at cycle c; x0 takes none. -/
def landsAt (d : XReg) (v : Word) (c : Nat) : List Pend :=
  if d = 0 then [] else [{ reg := some (.x d), val := v.setWidth 4096, keep := 0, flags := 0, due := some c, fixed := false, id := 0 }]

/-- The n bytes that an engine's command names from g lie in one line of a tile's window, which its world may read and write, and whose
die is usable: their place. -/
structure State.window (s : State) (from_ : Nat) (m : Msg) (g : Word) (n : Nat) (p : Place) : Prop where
  line : 0 < n ∧ field g 0 7 + n ≤ 128
  up : s.heldAt from_ m.asid g = false
  here : ∀ wr, s.resolve from_ m.asid m.wld wr g = (s, none, .at_ p)
  clean : s.poisoned p n = false

/-- The bucket of a tile's cluster covers a charge of its matrix engine, and no charge waits there (R293, R411). -/
def State.enginePays (s : State) (tile cost : Nat) : Prop :=
  (s.cluster (tile / 16)).charges = [] ∧
  covers ((s.cluster (tile / 16)).runTo (s.clusterTime (tile / 16))).tokens cost = true

/-- The instruction completes by ending the command of slot n of a die's table agent, which it has carried out as w: the status is written
beside the operation, the service is notified where the command asks for it, and the agent is free for the next command (R369). -/
def EndsCommand (i : Instr) (s w : State) (d n st : Nat) : Prop :=
  ∃ t, exec i s = .next t ∧ Mem.byte t.mem ((Place.hbm d (slotAt n + 1) false).key 0) = BitVec.ofNat 8 st ∧
    (∀ k, k ≠ (Place.hbm d (slotAt n + 1) false).key 0 → Mem.byte t.mem k = Mem.byte w.mem k) ∧
    t = { w with mem := t.mem, poison := t.poison, dies := t.dies, strands := t.strands, flight := t.flight } ∧
    t.die d = { w.die d with cmd := none } ∧ (∀ e, e ≠ d → t.die e = w.die e) ∧
    ((w.cmdWord d n 0).getLsbD 32 = false → t.strands = w.strands)

/-- A write needs no log entry and no HOME entry (R357, R379): its page is none, or one that is neither tracked nor moved. -/
def State.plainPage (s : State) (asid : BitVec 16) (pg : Option Page) : Prop :=
  ∀ g, pg = some g → g.home = none ∧ s.dirtyNeeded asid g = false

/-- A collective unit may issue (R180, R189, R230): depth 0, a worker at U, no collective open, no run-ahead, and no fence that its
contribution must follow. -/
structure State.mayOpen (s : State) : Prop where
  depth : s.arch.depth = 0
  worker : s.cur.worker = true
  user : s.arch.prv = 0
  free : s.arch.ahead = false ∧ s.cur.coll = none
  order : s.fenced false = false

/-- A run is safe for k steps: none of them stops the machine. -/
def SafeRun (k : Nat) (s : State) : Prop := ∃ t, core.run k s = .next t

end Sys2Proof.Machine
end

