-- ==== Sys2Proof/Certificates/Slice0/Obligations.lean ====
section
/-!
DEFINITION. The statements for the provers. Each says what the machine does by the rules it cites; a statement that an instruction
completes says which next state it answers, or what that state holds, for all states and operands that meet its hypotheses.
-/
open Sys2Proof Sys2Proof.Machine

/-! ## Integer and address instructions (R79-R86) -/

/-- R79, R82-R84, R86: sums, differences, products and composed addresses, as numbers modulo 2^64. -/
def Obligations.IntegerArithmeticResults : Prop :=
  ∀ (s : State) (d a b : XReg), s.settled (.x d) (s.unit.now + 1) →
    GivesX (.add d a b) s d (BitVec.ofNat 64 ((s.rx a).toNat + (s.rx b).toNat)) 0 1 ∧
    GivesX (.sub d a b) s d (BitVec.ofInt 64 ((s.rx a).toInt - (s.rx b).toInt)) 0 1 ∧
    (∀ sh : BitVec 3, GivesX (.adds d a b sh) s d (BitVec.ofNat 64 ((s.rx a).toNat + (s.rx b).toNat * 2 ^ sh.toNat)) 0 1) ∧
    (∀ imm : BitVec 12, GivesX (.addi d a imm) s d (BitVec.ofInt 64 ((s.rx a).toInt + imm.toInt)) 0 1) ∧
    (∀ imm : BitVec 17, GivesX (.lui d imm) s d (BitVec.ofInt 64 (imm.toInt * 2 ^ 12)) 0 1) ∧
    GivesX (.gaddr d a b) s d
      (BitVec.ofNat 64 ((s.rx a).toNat / 2 ^ 9 % 2 ^ 13 * 2 ^ 51 + (s.rx b).toNat % 2 ^ 51)) 0 1 ∧
    GivesX (.mul d a b) s d (BitVec.ofNat 64 ((s.rx a).toNat * (s.rx b).toNat)) 0 3 ∧
    GivesX (.mulh d a b) s d (BitVec.ofInt 64 ((s.rx a).toInt * (s.rx b).toInt / 2 ^ 64)) 0 3 ∧
    GivesX (.mulhu d a b) s d (BitVec.ofNat 64 ((s.rx a).toNat * (s.rx b).toNat / 2 ^ 64)) 0 3

/-- R79, R84, R85: the bitwise forms, bit by bit, and the shifts, as numbers. -/
def Obligations.IntegerLogicShiftResults : Prop :=
  ∀ (s : State) (d a b : XReg), s.settled (.x d) (s.unit.now + 1) →
    (∃ v : Word, (∀ i, v.getLsbD i = ((s.rx a).getLsbD i && (s.rx b).getLsbD i)) ∧ GivesX (.and d a b) s d v 0 1) ∧
    (∃ v : Word, (∀ i, v.getLsbD i = ((s.rx a).getLsbD i || (s.rx b).getLsbD i)) ∧ GivesX (.or d a b) s d v 0 1) ∧
    (∃ v : Word, (∀ i, v.getLsbD i = Bool.xor ((s.rx a).getLsbD i) ((s.rx b).getLsbD i)) ∧ GivesX (.xor d a b) s d v 0 1) ∧
    (∀ imm : BitVec 12,
      GivesX (.andi d a imm) s d (s.rx a &&& BitVec.ofInt 64 imm.toInt) 0 1 ∧
      GivesX (.ori d a imm) s d (s.rx a ||| BitVec.ofInt 64 imm.toInt) 0 1 ∧
      GivesX (.xori d a imm) s d (s.rx a ^^^ BitVec.ofInt 64 imm.toInt) 0 1) ∧
    GivesX (.sll d a b) s d (BitVec.ofNat 64 ((s.rx a).toNat * 2 ^ ((s.rx b).toNat % 64))) 0 1 ∧
    GivesX (.srl d a b) s d (BitVec.ofNat 64 ((s.rx a).toNat / 2 ^ ((s.rx b).toNat % 64))) 0 1 ∧
    GivesX (.sra d a b) s d (BitVec.ofInt 64 ((s.rx a).toInt / 2 ^ ((s.rx b).toNat % 64))) 0 1 ∧
    (∀ n : BitVec 6,
      GivesX (.slli d a n) s d (BitVec.ofNat 64 ((s.rx a).toNat * 2 ^ n.toNat)) 0 1 ∧
      GivesX (.srli d a n) s d (BitVec.ofNat 64 ((s.rx a).toNat / 2 ^ n.toNat)) 0 1 ∧
      GivesX (.srai d a n) s d (BitVec.ofInt 64 ((s.rx a).toInt / 2 ^ n.toNat)) 0 1)

/-- R79, R84: comparisons write 1 or 0, and the smaller or larger operand is taken as signed or unsigned. -/
def Obligations.IntegerCompareResults : Prop :=
  ∀ (s : State) (d a b : XReg), s.settled (.x d) (s.unit.now + 1) →
    GivesX (.slt d a b) s d (if (s.rx a).toInt < (s.rx b).toInt then 1 else 0) 0 1 ∧
    GivesX (.sltu d a b) s d (if (s.rx a).toNat < (s.rx b).toNat then 1 else 0) 0 1 ∧
    (∀ imm : BitVec 12, GivesX (.slti d a imm) s d (if (s.rx a).toInt < imm.toInt then 1 else 0) 0 1) ∧
    GivesX (.min d a b) s d (BitVec.ofInt 64 (min (s.rx a).toInt (s.rx b).toInt)) 0 1 ∧
    GivesX (.max d a b) s d (BitVec.ofInt 64 (max (s.rx a).toInt (s.rx b).toInt)) 0 1 ∧
    GivesX (.minu d a b) s d (BitVec.ofNat 64 (min (s.rx a).toNat (s.rx b).toNat)) 0 1 ∧
    GivesX (.maxu d a b) s d (BitVec.ofNat 64 (max (s.rx a).toNat (s.rx b).toNat)) 0 1

/-- R80: the four divides never trap; a divisor of zero gives all ones and the dividend; the result arrives within 6 to 40 cycles, and later
for more quotient bits. -/
def Obligations.DivideResults : Prop :=
  ∃ f : Nat → Nat, (∀ i, 6 ≤ f i ∧ f i ≤ 40) ∧ (∀ i j, i ≤ j → f i ≤ f j) ∧
    ∀ (s : State) (d a b : XReg), s.settled (.x d) (s.unit.now + 6) →
      GivesX (.div d a b) s d (if s.rx b = 0 then BitVec.allOnes 64
        else BitVec.ofInt 64 ((s.rx a).toInt.tdiv (s.rx b).toInt)) 0 (f (quotS (s.rx a) (s.rx b))) ∧
      GivesX (.rem d a b) s d (if s.rx b = 0 then s.rx a
        else BitVec.ofInt 64 ((s.rx a).toInt - (s.rx a).toInt.tdiv (s.rx b).toInt * (s.rx b).toInt)) 0 (f (quotS (s.rx a) (s.rx b))) ∧
      GivesX (.divu d a b) s d (if s.rx b = 0 then BitVec.allOnes 64
        else BitVec.ofNat 64 ((s.rx a).toNat / (s.rx b).toNat)) 0 (f (quotU (s.rx a) (s.rx b))) ∧
      GivesX (.remu d a b) s d (if s.rx b = 0 then s.rx a
        else BitVec.ofNat 64 ((s.rx a).toNat - (s.rx a).toNat / (s.rx b).toNat * (s.rx b).toNat)) 0 (f (quotU (s.rx a) (s.rx b)))

/-- R81: leading zeros, ones, reversed bytes, and the sign and zero extensions. -/
def Obligations.BitCountAndExtensionResults : Prop :=
  ∀ (s : State) (d a : XReg), s.settled (.x d) (s.unit.now + 1) →
    (∃ n, n ≤ 64 ∧ (s.rx a).toNat < 2 ^ (64 - n) ∧ (n < 64 → 2 ^ (63 - n) ≤ (s.rx a).toNat) ∧
      GivesX (.clz d a) s d (BitVec.ofNat 64 n) 0 1) ∧
    GivesX (.popc d a) s d (BitVec.ofNat 64 ((List.range 64).filter fun i => (s.rx a).getLsbD i).length) 0 1 ∧
    (∃ v : Word, (∀ i, i < 8 → v.toNat / 256 ^ i % 256 = (s.rx a).toNat / 256 ^ (7 - i) % 256) ∧ GivesX (.bswap d a) s d v 0 1) ∧
    GivesX (.sext8 d a) s d (BitVec.ofInt 64 ((s.rx a).setWidth 8).toInt) 0 1 ∧
    GivesX (.sext16 d a) s d (BitVec.ofInt 64 ((s.rx a).setWidth 16).toInt) 0 1 ∧
    GivesX (.sext32 d a) s d (BitVec.ofInt 64 ((s.rx a).setWidth 32).toInt) 0 1 ∧
    GivesX (.zext8 d a) s d (BitVec.ofNat 64 ((s.rx a).toNat % 2 ^ 8)) 0 1 ∧
    GivesX (.zext16 d a) s d (BitVec.ofNat 64 ((s.rx a).toNat % 2 ^ 16)) 0 1 ∧
    GivesX (.zext32 d a) s d (BitVec.ofNat 64 ((s.rx a).toNat % 2 ^ 32)) 0 1

/-! ## Scalar floating point (R87-R96) -/

/-- R87, R90, R91, R95: the arithmetic forms round the exact result once; the result is zero-extended, and its flags are raised when it is
due, after 4 cycles. -/
def Obligations.ScalarFloatResults : Prop :=
  ∀ (s : State) (d a b c : XReg) (rm : Rm) (fs : Fs) (sg : Bool) (dt st : Ct), s.settled (.x d) (s.unit.now + 4) →
    let f := fsFmt fs
    let g := single sg
    let m := s.arch.round rm
    let x := (s.rx a).toNat
    let y := (s.rx b).toNat
    let gives := fun (i : Instr) (r : FRes) => GivesX i s d (BitVec.ofNat 64 r.1) r.2 4
    gives (.fadd d a b rm fs) (f.finish m (FVal.add m (f.val (x % 2 ^ f.width)) (f.val (y % 2 ^ f.width)))) ∧
    gives (.fsub d a b rm fs) (f.finish m (FVal.add m (f.val (x % 2 ^ f.width)) (f.val (y % 2 ^ f.width)).neg)) ∧
    gives (.fmul d a b rm fs) (f.finish m (FVal.mul (f.val (x % 2 ^ f.width)) (f.val (y % 2 ^ f.width)))) ∧
    gives (.ffma d a b c rm sg) (fFma g m false (x % 2 ^ g.width) (y % 2 ^ g.width) ((s.rx c).toNat % 2 ^ g.width)) ∧
    gives (.fmin d a b fs) (fMinMax f false (x % 2 ^ f.width) (y % 2 ^ f.width)) ∧
    gives (.fmax d a b fs) (fMinMax f true (x % 2 ^ f.width) (y % 2 ^ f.width)) ∧
    gives (.fclass d a fs) (fClass f (x % 2 ^ f.width), 0) ∧
    (∀ cc, gives (.fcmp cc d a b fs) (if (fCmp f cc (x % 2 ^ f.width) (y % 2 ^ f.width)).1 then 1 else 0,
      (fCmp f cc (x % 2 ^ f.width) (y % 2 ^ f.width)).2)) ∧
    GivesX (.fcvt d a dt st rm) s d (fcvt dt st m (s.rx a)).1 (fcvt dt st m (s.rx a)).2 4

/-- R91, R96: FDIV and FSQRT are scoreboarded, and land within 24 cycles for F64 and 14 for the other formats; the functions have a
latency of 8. -/
def Obligations.ScalarFloatSlowResults : Prop :=
  ∀ (s : State) (d a b : XReg) (rm : Rm) (fs : Fs) (sg : Bool), s.settled (.x d) (s.unit.now + 1) →
    let f := fsFmt fs
    let g := single sg
    let m := s.arch.round rm
    let x := (s.rx a).toNat % 2 ^ f.width
    let z := (s.rx a).toNat % 2 ^ g.width
    (∃ n, 1 ≤ n ∧ n ≤ (if f.width = 64 then 24 else 14) ∧
      (let r := fDiv f m x ((s.rx b).toNat % 2 ^ f.width)
       GivesX (.fdiv d a b rm fs) s d (BitVec.ofNat 64 r.1) r.2 n)) ∧
    (∃ n, 1 ≤ n ∧ n ≤ (if f.width = 64 then 24 else 14) ∧
      GivesX (.fsqrt d a rm fs) s d (BitVec.ofNat 64 (fSqrt f m x).1) (fSqrt f m x).2 n) ∧
    GivesX (.fsin d a sg) s d (BitVec.ofNat 64 (fTrig g false z).1) (fTrig g false z).2 8 ∧
    GivesX (.fcos d a sg) s d (BitVec.ofNat 64 (fTrig g true z).1) (fTrig g true z).2 8 ∧
    GivesX (.fexp2 d a sg) s d (BitVec.ofNat 64 (fExp2 g z).1) (fExp2 g z).2 8 ∧
    GivesX (.flog2 d a sg) s d (BitVec.ofNat 64 (fLog2 g z).1) (fLog2 g z).2 8 ∧
    GivesX (.frcp d a sg) s d (BitVec.ofNat 64 (fRcp g z).1) (fRcp g z).2 8 ∧
    GivesX (.frsq d a sg) s d (BitVec.ofNat 64 (fRsq g z).1) (fRsq g z).2 8

/-- R88, R91, R124: a NaN result is the default NaN of the format, and a NaN operand raises NV exactly where one of the operands signals; a value
that the format holds is rounded to itself in every mode, with no flag, subnormals and zeros of either sign among them. -/
def Obligations.NanResultsAndExactValues : Prop :=
  (∀ (f : Fmt) (rm : Rm) (x y : Nat), f ∈ [Fmt.f64, .f32, .f16, .bf16] → f.isNan x = true ∨ f.isNan y = true →
    let nv : Fl := if f.isSig x || f.isSig y then Fl.nv else 0
    fAdd f rm x y = (f.nan, nv) ∧ fSub f rm x y = (f.nan, nv) ∧ fMul f rm x y = (f.nan, nv) ∧ fDiv f rm x y = (f.nan, nv) ∧
    (f.isNan x = true → fSqrt f rm x = (f.nan, if f.isSig x then Fl.nv else 0)) ∧
    f.isNan f.nan = true ∧ f.isSig f.nan = false) ∧
  (∀ (f : Fmt) (rm : Rm) (x : Nat), f ∈ [Fmt.f64, .f32, .f16, .bf16, .e4m3, .e5m2, .e2m1] → x < 2 ^ f.width →
    f.isNan x = false → f.ofVal rm (f.val x) = (x, 0))

/-! ## Vector and mask instructions (R141-R169) -/

/-- R91, R149, R150, R410: the arithmetic forms element by element: floating point as the scalar instruction, integers modulo 2^b. -/
def Obligations.VectorArithmeticElements : Prop :=
  ∀ (s : State) (d a b : VReg) (et : Et),
    let h := s.arch.shape
    let k := max 1 ((h.n * h.w + 511) / 512)
    let x := elem (s.rv a) h.w
    let y := elem (s.rv b) h.w
    let c := elem (s.rv (s.unit.vxp.vc.getD d)) h.w
    let wrap := fun (z : Int) => (((z % 2 ^ h.w).toNat, 0) : FRes)
    (∀ f, etF et = true → etFmt et = some f →
      (s.vectorReady et d (2 * k) 4 →
        GivesElems (.vadd d a b et) s d h.w h.n (fun j => fAdd f s.vrm (x j) (y j)) (2 * k) k 4 ∧
        GivesElems (.vsub d a b et) s d h.w h.n (fun j => fSub f s.vrm (x j) (y j)) (2 * k) k 4 ∧
        GivesElems (.vmul d a b et) s d h.w h.n (fun j => fMul f s.vrm (x j) (y j)) (2 * k) k 4 ∧
        GivesElems (.vmin d a b et) s d h.w h.n (fun j => fMinMax f false (x j) (y j)) (2 * k) k 4 ∧
        GivesElems (.vmax d a b et) s d h.w h.n (fun j => fMinMax f true (x j) (y j)) (2 * k) k 4) ∧
      (s.vectorReady et d (3 * k) 4 →
        GivesElems (.vfma d a b et) s d h.w h.n (fun j => fFma f s.vrm false (x j) (y j) (c j)) (3 * k) k 4 ∧
        GivesElems (.vfms d a b et) s d h.w h.n
          (fun j => fFma f s.vrm false (x j) (y j) ((c j + 2 ^ (f.e + f.m)) % 2 ^ f.width)) (3 * k) k 4) ∧
      (s.vectorReady et d (8 * k) (4 * k + 12) →
        let n := 4 * k + (if et = .f64 then 20 else 12)
        GivesElems (.vdiv d a b et) s d h.w h.n (fun j => fDiv f s.vrm (x j) (y j)) (8 * k) (4 * k) n ∧
        GivesElems (.vsqrt d a et) s d h.w h.n (fun j => fSqrt f s.vrm (x j)) (8 * k) (4 * k) n)) ∧
    (etI et = true → s.vectorReady et d (2 * k) 4 →
      GivesElems (.vadd d a b et) s d h.w h.n (fun j => wrap (signedElem h.w (x j) + signedElem h.w (y j))) (2 * k) k 4 ∧
      GivesElems (.vsub d a b et) s d h.w h.n (fun j => wrap (signedElem h.w (x j) - signedElem h.w (y j))) (2 * k) k 4 ∧
      GivesElems (.vmul d a b et) s d h.w h.n (fun j => wrap (signedElem h.w (x j) * signedElem h.w (y j))) (2 * k) k 4 ∧
      GivesElems (.vmin d a b et) s d h.w h.n (fun j => wrap (min (signedElem h.w (x j)) (signedElem h.w (y j)))) (2 * k) k 4 ∧
      GivesElems (.vmax d a b et) s d h.w h.n (fun j => wrap (max (signedElem h.w (x j)) (signedElem h.w (y j)))) (2 * k) k 4) ∧
    (s.vectorReady et d k 4 →
      (etI et = true →
        GivesElems (.vabs d a et) s d h.w h.n (fun j => wrap (signedElem h.w (x j)).natAbs) k k 4 ∧
        GivesElems (.vneg d a et) s d h.w h.n (fun j => wrap (0 - signedElem h.w (x j))) k k 4) ∧
      (∀ f, etFmt et = some f →
        GivesElems (.vabs d a et) s d h.w h.n (fun j => (x j % 2 ^ (f.e + f.m), 0)) k k 4 ∧
        GivesElems (.vneg d a et) s d h.w h.n (fun j => ((x j + 2 ^ (f.e + f.m)) % 2 ^ f.width, 0)) k k 4))

/-- R151, R152, R154, R155, R157: bitwise forms, shifts by an element's amount, selection, movement and transposition. -/
def Obligations.VectorBitAndMoveElements : Prop :=
  ∀ (s : State) (d a b : VReg) (et : Et),
    let h := s.arch.shape
    let k := max 1 ((h.n * h.w + 511) / 512)
    let x := elem (s.rv a) h.w
    let y := elem (s.rv b) h.w
    (s.vectorReady et d k 4 →
      GivesElems (.vand d a b et) s d h.w h.n (fun j => (x j &&& y j, 0)) k k 4 ∧
      GivesElems (.vor d a b et) s d h.w h.n (fun j => (x j ||| y j, 0)) k k 4 ∧
      GivesElems (.vxor d a b et) s d h.w h.n (fun j => (x j ^^^ y j, 0)) k k 4 ∧
      GivesElems (.vnot d a et) s d h.w h.n (fun j => (2 ^ h.w - 1 - x j, 0)) k k 4 ∧
      GivesElems (.vmov d a et) s d h.w h.n (fun j => (x j, 0)) k k 4 ∧
      (∀ m : MReg, GivesElems (.vsel d a b m et) s d h.w h.n (fun j => (if (s.rmask m).getLsbD j then x j else y j, 0)) k k 4) ∧
      (∀ r : XReg, GivesElems (.vbcast d r et) s d h.w h.n (fun _ => ((s.rx r).toNat % 2 ^ h.w, 0)) k k 4) ∧
      (etI et = true ∨ et = .i4 →
        GivesElems (.vshl d a b et) s d h.w h.n (fun j => (if y j < h.w then x j * 2 ^ y j else 0, 0)) k k 4 ∧
        GivesElems (.vshr d a b et) s d h.w h.n (fun j => (if y j < h.w then x j / 2 ^ y j else 0, 0)) k k 4 ∧
        GivesElems (.vsra d a b et) s d h.w h.n
          (fun j => ((signedElem h.w (x j) / 2 ^ min (y j) (h.w - 1) % 2 ^ h.w).toNat, 0)) k k 4 ∧
        GivesElems (.viota d et) s d h.w h.n (fun j => (j, 0)) k k 4) ∧
      (∀ f, etF et = true → etFmt et = some f →
        GivesElems (.viota d et) s d h.w h.n (fun j => ((f.round .rne false j 1 0).1, 0)) k k 4)) ∧
    (s.vectorReady et d k 6 → h.nc ≤ 32 →
      GivesElems (.vtrn d a et) s d h.w h.n (fun j => (x (j % h.nr * h.nc + j / h.nr), 0)) k k 6)

/-- R153, R156, R168, R169: a comparison writes bits 0 to n - 1 of its mask under the VXP mask and zeroes the rest; VEXTR reads one
element; the mask instructions act on all 1024 bits; m0 takes no result (R45). -/
def Obligations.CompareExtractAndMaskResults : Prop :=
  ∀ (s : State) (et : Et) (cc : VCc) (v a b : VReg) (d p q : MReg) (x y : XReg),
    let h := s.arch.shape
    let k := max 1 ((h.n * h.w + 511) / 512)
    let due := s.unit.now + 4
    (et = h.et → etF et = true ∨ (etI et = true ∧ cc ≠ .un) → s.arch.shapeOk → s.canPay k → s.settled (.m d) due →
      let r := fun j => match etFmt et with
        | some f => vcmpF f cc (elem (s.rv a) h.w j) (elem (s.rv b) h.w j)
        | none => (vcmpI cc (signedElem h.w (elem (s.rv a) h.w j)) (signedElem h.w (elem (s.rv b) h.w j)), 0)
      ∃ t, exec (.vcmp cc d a b et) s = .next t ∧
        (d ≠ 0 → ∀ j, j < 1024 → ((t.archAt due).getM d).getLsbD j =
          if j < h.n then (if s.sel j then (r j).1 else !s.unit.vxp.mz && ((s.archAt due).getM d).getLsbD j) else false) ∧
        (t.archAt due).fmode = (s.archAt due).fmode |||
          (s.elemFlags h.n fun j => (0, (r j).2)).zeroExtend 64 ∧
        OnlyResults (s.paid k k) t [.m d] (s.elemFlags h.n fun j => (0, (r j).2))) ∧
    (s.settled (.x x) due →
      ∃ t, exec (.vextr x v y) s = .next t ∧
        (t.archAt due).getX x = (if x = 0 then 0 else
          if h.n ≤ (s.rx y).toNat then 0
          else if etI h.et || h.et == .i4 then BitVec.ofInt 64 (signedElem h.w (elem (s.rv v) h.w (s.rx y).toNat))
          else BitVec.ofNat 64 (elem (s.rv v) h.w (s.rx y).toNat)) ∧
        OnlyResults (s.modCore s.eid fun c => { c with vfree := s.unit.now + 1 }) t [.x x] 0) ∧
    (s.settled (.m d) (s.unit.now + 1) →
      GivesM (.mand d p q) s d (s.rmask p &&& s.rmask q) 0 1 ∧ GivesM (.mor d p q) s d (s.rmask p ||| s.rmask q) 0 1 ∧
      GivesM (.mxor d p q) s d (s.rmask p ^^^ s.rmask q) 0 1 ∧ GivesM (.mnot d p) s d (~~~(s.rmask p)) 0 1) ∧
    (s.settled (.x x) (s.unit.now + 1) →
      GivesX (.mpopc x p) s x (BitVec.ofNat 64 ((List.range 1024).filter fun i => (s.rmask p).getLsbD i).length) 0 1 ∧
      ∃ n, n ≤ 1024 ∧ (∀ i, i < n → (s.rmask p).getLsbD i = false) ∧ (n < 1024 → (s.rmask p).getLsbD n = true) ∧
        GivesX (.mfirst x p) s x (BitVec.ofNat 64 n) 0 1)

/-- R140, R144, R158: the folds of VREDR and VREDC over the selected elements in order; every other element below n becomes 0. -/
def Obligations.ReductionElements : Prop :=
  ∀ (s : State) (op : RedOp) (d a : VReg) (et : Et),
    let h := s.arch.shape
    let k := max 1 ((h.n * h.w + 511) / 512)
    let x := elem (s.rv a) h.w
    let fold := fun (l : List Nat) => redFold op et s.vrm none ((l.filter s.sel).map x)
    let done := fun (i : Instr) (len : Nat) (slot : Nat → Option (List Nat)) =>
      let due := s.unit.now + (4 * len + 4)
      let fl : Fl := (List.range h.n).foldl (fun f j => f ||| ((slot j).map fun l => (fold l).2).getD 0) 0
      ∃ t, exec i s = .next t ∧
        (∀ j, elem ((t.archAt due).getV d) h.w j =
          if j < h.n then (match slot j with
            | none => 0
            | some l => match (fold l).1 with
              | some v => v % 2 ^ h.w
              | none => if s.unit.vxp.mz then 0 else elem ((s.archAt due).getV d) h.w j)
          else elem ((s.archAt due).getV d) h.w j) ∧
        (t.archAt due).fmode = (s.archAt due).fmode ||| fl.zeroExtend 64 ∧
        OnlyResults (s.paid (2 * k) k) t [.v d] fl
    (etF et = true ∨ etI et = true) → s.vectorReady et d (2 * k) 8 →
      done (.vredr op d a et) h.nc (fun j => if j % h.nc = 0 then some ((List.range h.nc).map fun c => j + c) else none) ∧
      done (.vredc op d a et) h.nr (fun j => if j < h.nc then some ((List.range h.nr).map fun r => r * h.nc + j) else none)

/-- R159, R166, R167: conversions keep each element's number at the new width; VDQNT and the functions element by element. -/
def Obligations.ConversionAndFunctionElements : Prop :=
  ∀ (s : State) (d a b : VReg) (et : Et),
    let h := s.arch.shape
    let k := max 1 ((h.n * h.w + 511) / 512)
    let x := elem (s.rv a) h.w
    (let w := etBits et
     let kc := max 1 ((h.n * max h.w w + 511) / 512)
     et ≠ h.et → h.n * w ≤ 4096 → s.settled (.v d) (s.unit.now + 4) → s.canPay (2 * kc) →
      GivesElems (.vcvt d a et) s d w h.n (fun j => vconv h.et et s.vrm (x j)) (2 * kc) kc 4) ∧
    (∀ df qf, etFmt h.et = some df → etFmt et = some qf → rowShape et h = true → s.vectorReady h.et d (2 * k) 4 →
      let row := fun j => (s.rv a).toNat / 2 ^ (j / 128 * (128 * qf.width + 64))
      GivesElems (.vdqnt d a b et) s d h.w h.n
        (fun j => dequantise qf df s.vrm (row j / 2 ^ (qf.width * (j % 128)) % 2 ^ qf.width)
          (row j / 2 ^ (128 * qf.width + 10 * (j % 128 / 32)) % 1024) (elem (s.rv b) h.w j)) (2 * k) k 4) ∧
    (∀ f, et = .f64 ∨ et = .f32 → etFmt et = some f → s.vectorReady et d (4 * k) 8 →
      GivesElems (.vexp2 d a et) s d h.w h.n (fun j => fExp2 f (x j)) (4 * k) k 8 ∧
      GivesElems (.vlog2 d a et) s d h.w h.n (fun j => fLog2 f (x j)) (4 * k) k 8 ∧
      GivesElems (.vrcp d a et) s d h.w h.n (fun j => fRcp f (x j)) (4 * k) k 8 ∧
      GivesElems (.vrsq d a et) s d h.w h.n (fun j => fRsq f (x j)) (4 * k) k 8 ∧
      GivesElems (.vsin d a et) s d h.w h.n (fun j => fTrig f false (x j)) (4 * k) k 8 ∧
      GivesElems (.vcos d a et) s d h.w h.n (fun j => fTrig f true (x j)) (4 * k) k 8)

/-- R130, R144, R164: VQNT writes its rows as elements, then the four scale codes of 10 bits, then zeros, and keeps vd above the last
row; it lands k + 8 cycles after its issue. -/
def Obligations.QuantisedRows : Prop :=
  ∀ (s : State) (d a b : VReg) (et : Et) (sf df : Fmt),
    let h := s.arch.shape
    let k := max 1 ((h.n * h.w + 511) / 512)
    let due := s.unit.now + (k + 8)
    let q := if et = .e4m3 then 448 else 6
    let code := fun r j => (s10Pick sf (elem (s.rv b) h.w (r * 128 + 32 * j) % 2 ^ (sf.e + sf.m)) q).1
    let scales := fun r => code r 0 + 2 ^ 10 * code r 1 + 2 ^ 20 * code r 2 + 2 ^ 30 * code r 3
    let w := df.width
    let len := 128 + 64 / w
    etFmt h.et = some sf → etFmt et = some df → rowShape et h = true → s.vectorReady h.et d (2 * k) (k + 8) →
    ∃ t fl, exec (.vqnt d a b et) s = .next t ∧
      (∀ j, elem ((t.archAt due).getV d) w j =
        let r := j / len
        let c := j % len
        let i := r * 128 + c
        if h.nr ≤ r then elem ((s.archAt due).getV d) w j
        else if 128 ≤ c then scales r / 2 ^ (w * (c - 128)) % 2 ^ w
        else if s.sel i then
          (if code r (c / 32) = 0 ∨ code r (c / 32) = 0x3FF then 0
           else (quantise sf df s.vrm (elem (s.rv a) h.w i) (code r (c / 32))).1 % 2 ^ w)
        else if s.unit.vxp.mz then 0 else elem ((s.archAt due).getV d) w j) ∧
      OnlyResults (s.paid (2 * k) k) t [.v d] fl

/-- R128, R129: in its last branch S10Pick chooses the smallest code whose scale times q covers the magnitude m * 2^e. -/
def Obligations.ScaleChoiceIsSmallestCover : Prop :=
  ∀ (f : Fmt) (a q m : Nat) (ng : Bool) (e : Int), q = 448 ∨ q = 6 → m ≠ 0 → f.val a = .fin ng m e →
    let scale := fun (c : Nat) => FVal.fin false ((4 + c % 4) * q) ((c / 4 : Nat) - 129)
    let c := (s10Pick f a q).1
    (scale 0x3FE).lt (.fin false m e) = false → (FVal.fin false m e).lt (scale 0x001) = false →
      1 ≤ c ∧ c ≤ 0x3FE ∧ (s10Pick f a q).2 = 0 ∧ (scale c).lt (.fin false m e) = false ∧
      (1 < c → (scale (c - 1)).lt (.fin false m e) = true)

/-! ## Control, loops and system registers (R65-R70, R97-R117) -/

/-- R26, R97-R100: branches go to P + 4 * off where their condition holds and fall through otherwise; J always goes, JR to an aligned register;
CALL and
CALLR push the address of the next unit, with 16 entries the oldest is stored at RSTOP, or the unit raises RETURN_SPILL_LIMIT; RET pops the
newest entry, or, where the core holds none, the newest one of the spill area, whose word a plain load fetches first; with neither, it is the job-end
return of a worker's root code at U, the last of which completes the job, and else raises RETURN_UNDERFLOW. -/
def Obligations.BranchesCallsAndReturns : Prop :=
  (∀ (s : State) (a b : XReg) (off : BitVec 12) (w : BitVec 22),
    let x := s.rx a
    let y := s.rx b
    let goes := fun (i : Instr) (c : Prop) =>
      (c → Jumps i s (s.unit.pc + BitVec.ofInt 64 (4 * off.toInt))) ∧ (¬ c → exec i s = .next s)
    goes (.beq a b off) (x = y) ∧ goes (.bne a b off) (x ≠ y) ∧
    goes (.blt a b off) (x.toInt < y.toInt) ∧ goes (.bge a b off) (y.toInt ≤ x.toInt) ∧
    goes (.bltu a b off) (x.toNat < y.toNat) ∧ goes (.bgeu a b off) (y.toNat ≤ x.toNat) ∧
    Jumps (.j w) s (s.unit.pc + BitVec.ofInt 64 (4 * w.toInt)) ∧
    (x.toNat % 4 = 0 → Jumps (.jr a) s x) ∧ (x.toNat % 4 ≠ 0 → Traps (.jr a) s cAlignment x)) ∧
  (∀ (s : State) (a : XReg) (off : BitVec 22),
    let goes := fun (i : Instr) (t : Word) =>
      (s.arch.ras.length < 16 → exec i s = .next
        { (s.modArch fun r => { r with ras := r.ras ++ [s.unit.next], pc := t }) with unit := { s.unit with status := .jumped } }) ∧
      (s.arch.ras.length = 16 → s.arch.rstop.toNat < s.arch.rsbase.toNat ∨ s.arch.rslim.toNat < s.arch.rstop.toNat + 8 →
        Traps i s cSpillLimit s.arch.rstop) ∧
      (s.arch.ras.length = 16 → s.arch.rsbase.toNat ≤ s.arch.rstop.toNat → s.arch.rstop.toNat + 8 ≤ s.arch.rslim.toNat →
        s.arch.ahead = false → s.mayAccess [s.arch.rstop] 8 8 true true → s.maySend (pieces s.arch.rstop 8) false true →
        s.unit.status = .running → ∃ u, exec i s = .next u ∧
          u.arch = { s.arch with ras := s.arch.ras.drop 1 ++ [s.unit.next], rstop := s.arch.rstop + 8, pc := t } ∧
          u.flight = s.flight ++ [.accessPerformed s.eid (s.fresh + 1)] ∧
          (∃ c, (u.core s.eid).accs = (s.core s.eid).accs ++ [c] ∧ c.pieces = pieces s.arch.rstop 8 ∧
            c.op = .store (s.arch.ras.headD 0).toNat ∧ c.rel = false) ∧
          (∀ k, Mem.byte u.mem k = Mem.byte s.mem k))
    goes (.call off) (s.unit.pc + BitVec.ofInt 64 (4 * off.toInt)) ∧
    ((s.rx a).toNat % 4 = 0 → goes (.callr a) (s.rx a)) ∧
    ((s.rx a).toNat % 4 ≠ 0 → Traps (.callr a) s cAlignment (s.rx a)) ∧
    (∀ l t, s.arch.ras = l ++ [t] →
      (t.toNat % 4 = 0 → exec .ret s = .next
        { (s.modArch fun r => { r with ras := l, pc := t }) with unit := { s.unit with status := .jumped } }) ∧
      (t.toNat % 4 ≠ 0 → Traps .ret s cAlignment t))) ∧
  (∀ (s : State) (e : Word) (b : Job),
    let old := s.arch.rstop - 8
    let j := s.jobNo s.eid
    let m := s.arch.mbidx.toNat
    s.arch.ras = [] →
    (s.arch.rsbase.toNat < s.arch.rstop.toNat →
      (s.cur.refill = none → s.mayAccess [old] 8 8 false true → s.maySend (pieces old 8) true false →
        ∃ u, exec .ret s = .next u ∧ u.arch = { s.arch with pc := s.unit.pc } ∧ u.unit.status = .waiting ∧ u.mem = s.mem ∧
          u.flight = s.flight ++ [.accessPerformed s.eid (s.fresh + 1)] ∧ u.cur.wait = .result (s.fresh + 1) ∧
          ∃ c, (u.core s.eid).accs = (s.core s.eid).accs ++ [c] ∧ c.id = s.fresh + 1 ∧ c.pieces = pieces old 8 ∧ c.op = .load .refill) ∧
      (s.cur.refill = some e → e.toNat % 4 = 0 → exec .ret s = .next
        { ((s.modCur fun k => { k with refill := none }).modArch fun r => { r with rstop := r.rstop - 8, pc := e }) with
          unit := { s.unit with status := .jumped } }) ∧
      (s.cur.refill = some e → e.toNat % 4 ≠ 0 → Traps .ret s cAlignment e)) ∧
    (s.arch.rstop.toNat ≤ s.arch.rsbase.toNat →
      (s.cur.worker = false ∨ s.arch.depth ≠ 0 ∨ s.arch.prv ≠ 0 → Traps .ret s cReturnUnderflow s.arch.rstop) ∧
      (s.cur.worker = true → s.arch.depth = 0 → s.arch.prv = 0 → s.arch.ahead = false → s.cur.coll = none → s.owes s.unit.sid = false →
        (∀ p ∈ s.cur.pend, p.due.isSome = true) → s.job j = some b →
        ∃ u c, exec .ret s = .next u ∧ u.cur.st = .off ∧ u.mem = s.mem ∧ (∀ n, n ≠ s.unit.sid → u.strand n = s.strand n) ∧
          u.job j = some c ∧ c.returned = b.returned ++ [m] ∧ m ∈ c.departed ∧ c.cores = b.cores ∧
          ((∀ n ∈ b.members, n ∈ b.returned ∨ n = m) → Ev.jobCompletion j ∈ u.flight))))

/-- R102-R104, R106: LOOP and LOOPR set a level up, skip the body at a count of zero, and refuse an empty body; LEXIT leaves an active level; a unit
that ends at LEn takes one from LCn and goes to LSn while counts are left, level 1 first. -/
def Obligations.LoopsRunAndEnd : Prop :=
  (∀ (s : State) (a : XReg) (cnt : BitVec 12) (len : BitVec 9),
    let e := s.unit.pc + BitVec.ofNat 64 (4 * len.toNat)
    let sets := fun (i : Instr) (lv : Bool) (n : BitVec 32) =>
      (4 * len.toNat ≤ (if s.unit.lone then 4 else 8) → Traps i s cIllegal 0x10003) ∧
      ((if s.unit.lone then 4 else 8) < 4 * len.toNat →
        let f := fun (r : Arch) => if lv then { r with lc1 := n, ls1 := s.unit.next, le1 := e }
          else { r with lc0 := n, ls0 := s.unit.next, le0 := e }
        (n ≠ 0 → SetsArch i s f) ∧
        (n = 0 → exec i s = .next
          { (s.modArch fun r => { f r with pc := e }) with unit := { s.unit with status := .jumped } }))
    (∀ lv, sets (.loop lv cnt len) lv (cnt.zeroExtend 32)) ∧
    (∀ lv, sets (.loopr lv a len) lv ((s.rx a).setWidth 32)) ∧
    (s.arch.lc0 ≠ 0 → exec (.lexit false) s = .next
      { (s.modArch fun r => { r with lc0 := 0, pc := s.arch.le0 }) with unit := { s.unit with status := .jumped } }) ∧
    (s.arch.lc1 ≠ 0 → exec (.lexit true) s = .next
      { (s.modArch fun r => { r with lc1 := 0, pc := s.arch.le1 }) with unit := { s.unit with status := .jumped } }) ∧
    (s.arch.lc0 = 0 → Traps (.lexit false) s cIllegal 0x10004) ∧ (s.arch.lc1 = 0 → Traps (.lexit true) s cIllegal 0x10004)) ∧
  (∀ (a : Arch) (e : Word),
    (a.lc1 ≠ 0 → a.le1 = e → a.lc1 ≠ 1 → loopEnd e a = { a with lc1 := a.lc1 - 1, pc := a.ls1 }) ∧
    ((a.lc1 = 0 ∨ a.le1 ≠ e) → a.lc0 ≠ 0 → a.le0 = e → a.lc0 ≠ 1 → loopEnd e a = { a with lc0 := a.lc0 - 1, pc := a.ls0 }) ∧
    ((a.lc1 = 0 ∨ a.le1 ≠ e) → a.lc0 = 1 → a.le0 = e → loopEnd e a = { a with lc0 := 0, pc := e }) ∧
    (a.lc1 = 1 → a.le1 = e → (a.lc0 = 0 ∨ a.le0 ≠ e) → loopEnd e a = { a with lc1 := 0, pc := e }) ∧
    (a.lc1 = 1 → a.le1 = e → a.lc0 ≠ 0 → a.lc0 ≠ 1 → a.le0 = e →
      loopEnd e a = { a with lc1 := 0, lc0 := a.lc0 - 1, pc := a.ls0 }) ∧
    (a.lc1 = 1 → a.le1 = e → a.lc0 = 1 → a.le0 = e → loopEnd e a = { a with lc1 := 0, lc0 := 0, pc := e }) ∧
    ((a.lc1 = 0 ∨ a.le1 ≠ e) → (a.lc0 = 0 ∨ a.le0 ≠ e) → loopEnd e a = a))

/-- R50, R61, R107, R108, R111, R117: NOP changes nothing; VXP only names its prefix; YIELD makes the strand READY where another is;
WFE ends where an event has ended its wait, else consumes EV or waits; TRAP takes TRAP_INSTR with EVAL = imm. -/
def Obligations.NopYieldWaitTrap : Prop :=
  ∀ (s : State) (imm : BitVec 12) (mk : MReg) (mz : Bool) (rm : Rm) (vc : VReg),
    exec .nop s = .next s ∧ exec .nopA s = .next s ∧
    exec (.vxp mk mz rm true vc) s =
      .next { s with unit := { s.unit with vxp := { mask := mk, mz := mz, rmo := rm, vc := some vc } } } ∧
    exec (.vxp mk mz rm false vc) s =
      .next { s with unit := { s.unit with vxp := { mask := mk, mz := mz, rmo := rm, vc := none } } } ∧
    (s.cur.preempt = false →
      ((∀ i, i < 4 → s.eid * 4 + i ≠ s.unit.sid → (s.strand (s.eid * 4 + i)).st ≠ .ready) → exec .yield s = .next s) ∧
      ((∃ i, i < 4 ∧ s.eid * 4 + i ≠ s.unit.sid ∧ (s.strand (s.eid * 4 + i)).st = .ready) →
        ∃ t, exec .yield s = .next t ∧ t.cur.st = .ready ∧ t.cur.stamp = s.unit.now ∧ t.arch = s.arch ∧ t.mem = s.mem ∧
          ∀ sid, sid ≠ s.unit.sid → t.strand sid = s.strand sid)) ∧
    (s.cur.preempt = true → s.cur.owesReply = false → ∃ t, exec .yield s = .next t ∧ t.cur.st = .held ∧ t.arch = s.arch) ∧
    (s.cur.granted = true → exec .wfe s = .next (s.modCur fun k => { k with granted := false })) ∧
    (s.arch.ev = true → s.cur.granted = false → SetsArch .wfe s fun a => { a with ev := false }) ∧
    (s.arch.ev = false → s.cur.granted = false → ∃ t, exec .wfe s = .next t ∧ t.cur.st = .blocked ∧ t.cur.wait = .event ∧
      t.arch = { s.arch with pc := s.unit.pc } ∧ t.unit.status = .waiting ∧ t.mem = s.mem) ∧
    Traps (.trap imm) s cTrapInstr (imm.zeroExtend 64)

/-- R65, R66, R69, R70, R110: SRD reads every register of the table at its level; below the level it raises PRIVILEGE with the number; a
number that is not in the table raises ILLEGAL_INSTR. -/
def Obligations.SystemRegisterReads : Prop :=
  ∀ (s : State) (d : XReg) (n : BitVec 12), s.settled (.x d) (s.unit.now + 1) →
    let c := s.core s.eid
    let reads := fun (k : BitVec 12) (v : Word) => GivesX (.srd d k) s d v 0 1
    (reads 0x000 s.arch.status ∧ reads 0x005 s.arch.fmode ∧ reads 0x006 s.arch.vshape ∧ reads 0x008 s.arch.rsbase ∧
      reads 0x009 s.arch.rslim ∧ reads 0x00A s.arch.rstop ∧ reads 0x00B (BitVec.ofNat 64 s.arch.ras.length) ∧
      reads 0x00C (s.arch.depth.zeroExtend 64) ∧ reads 0x010 (s.arch.lc0.zeroExtend 64) ∧ reads 0x011 s.arch.ls0 ∧
      reads 0x012 s.arch.le0 ∧ reads 0x013 (s.arch.lc1.zeroExtend 64) ∧ reads 0x014 s.arch.ls1 ∧ reads 0x015 s.arch.le1 ∧
      reads 0x018 (s.arch.mbset.zeroExtend 64) ∧ reads 0x019 (s.arch.mbidx.zeroExtend 64) ∧
      reads 0x01A (s.arch.mbcnt.zeroExtend 64) ∧ reads 0x01B (s.arch.cseq.zeroExtend 64) ∧
      reads 0x01C s.arch.h[0] ∧ reads 0x01D s.arch.h[1] ∧ reads 0x01E s.arch.h[2] ∧ reads 0x01F s.arch.h[3] ∧
      reads 0x020 (c.jobid.zeroExtend 64) ∧ reads 0x021 (c.asid.zeroExtend 64) ∧ reads 0x022 (BitVec.ofNat 64 (s.unit.sid / 4)) ∧
      reads 0x023 (c.lcn.zeroExtend 64) ∧ reads 0x024 (BitVec.ofNat 64 (s.unit.sid % 4)) ∧ reads 0x025 s.arch.frame ∧
      reads 0x027 (BitVec.ofNat 64 s.unit.now) ∧ reads 0x028 (s.ready0 (s.eid / 4096)) ∧ reads 0x029 (s.ready1 (s.eid / 4096)) ∧
      ∀ i : Fin 8, reads (0x030 + BitVec.ofNat 12 i) c.evc[i]) ∧
    (1 ≤ s.arch.prv → reads 0x001 s.arch.cause ∧ reads 0x002 s.arch.epc ∧ reads 0x003 s.arch.eval ∧ reads 0x004 s.arch.tvec ∧
      reads 0x007 (c.wdog.zeroExtend 64) ∧ reads 0x00D s.arch.ctxbase ∧ reads 0x026 c.dqbase ∧
      ∀ i : Fin 8, reads (0x038 + BitVec.ofNat 12 i) (c.evsel[i].zeroExtend 64)) ∧
    (s.arch.prv = 0 → n ∈ [0x001, 0x002, 0x003, 0x004, 0x007, 0x00D, 0x026, 0x038, 0x039, 0x03A, 0x03B, 0x03C, 0x03D, 0x03E, 0x03F] →
      Traps (.srd d n) s cPrivilege (n.zeroExtend 64)) ∧
    (isSysReg n = false → Traps (.srd d n) s cIllegal 0x10000)

/-- R65, R66, R68-R70, R101, R110, R305, R422: SWR writes the fields that its level may write and leaves reserved bits zero; a register that no
level may
write ignores it; below the level it raises PRIVILEGE, and for a reserved code ILLEGAL_INSTR with 0x0002. Of STATUS it changes RA and PRV
never, and at S it ignores PPRV = 11. -/
def Obligations.SystemRegisterWrites : Prop :=
  (∀ (s : State) (a : XReg), s.arch.ahead = false →
    let w := s.rx a
    let sets := fun (n : BitVec 12) (f : Arch → Arch) => SetsArch (.swr n a) s f
    (sets 0x010 fun r => { r with lc0 := w.setWidth 32 }) ∧ (sets 0x011 fun r => { r with ls0 := w }) ∧
    (sets 0x012 fun r => { r with le0 := w }) ∧ (sets 0x013 fun r => { r with lc1 := w.setWidth 32 }) ∧
    (sets 0x014 fun r => { r with ls1 := w }) ∧ (sets 0x015 fun r => { r with le1 := w }) ∧
    (sets 0x025 fun r => { r with frame := w &&& ~~~0xFC }) ∧
    (∀ i : Fin 4, sets (0x01C + BitVec.ofNat 12 i) fun r => { r with h := r.h.set i (w &&& ~~~0x7F) }) ∧
    (field w 8 3 < 5 → sets 0x005 fun r => { r with fmode := w &&& 0x71F }) ∧
    (5 ≤ field w 8 3 → Traps (.swr 0x005 a) s cIllegal 0x10002) ∧
    (shapeOk w = true → sets 0x006 fun r => { r with vshape := w &&& 0x7FF }) ∧
    (shapeOk w = false → Traps (.swr 0x006 a) s cIllegal 0x10002) ∧
    (s.arch.prv = 0 → sets 0x000 fun r => { r with status := putBit r.status 4 (w.getLsbD 4) }) ∧
    (∀ n : BitVec 12, n ∈ [0x00B, 0x00C, 0x018, 0x019, 0x01A, 0x01B, 0x020, 0x021, 0x022, 0x023, 0x024, 0x027, 0x028, 0x029] →
      exec (.swr n a) s = .next s) ∧
    (∀ n : BitVec 12, s.arch.prv = 0 → n ∈ [0x001, 0x002, 0x003, 0x004, 0x007, 0x008, 0x009, 0x00A, 0x00D, 0x026, 0x030, 0x031, 0x032,
        0x033, 0x034, 0x035, 0x036, 0x037, 0x038, 0x039, 0x03A, 0x03B, 0x03C, 0x03D, 0x03E, 0x03F] →
      Traps (.swr n a) s cPrivilege (n.zeroExtend 64)) ∧
    (1 ≤ s.arch.prv →
      (sets 0x001 fun r => { r with cause := putBit (w &&& 0xFF) 63 (w.getLsbD 63) }) ∧ (sets 0x002 fun r => { r with epc := w &&& ~~~3 }) ∧
      (sets 0x003 fun r => { r with eval := w }) ∧ (sets 0x004 fun r => { r with tvec := w &&& ~~~0xF2 }) ∧
      (sets 0x008 fun r => { r with rsbase := w &&& ~~~7 }) ∧ (sets 0x009 fun r => { r with rslim := w &&& ~~~7 }) ∧
      (sets 0x00A fun r => { r with rstop := w &&& ~~~7, ras := [] }) ∧ (sets 0x00D fun r => { r with ctxbase := w &&& ~~~0xFF }) ∧
      exec (.swr 0x007 a) s = .next (s.modCore s.eid fun c => { c with wdog := w.setWidth 32 }) ∧
      exec (.swr 0x026 a) s = .next (s.modCore s.eid fun c => { c with dqbase := w &&& 0xFFFC0 }) ∧
      (∀ i : Fin 8, exec (.swr (0x030 + BitVec.ofNat 12 i) a) s = .next (s.modCore s.eid fun c => { c with evc := c.evc.set i w })) ∧
      (∀ i : Fin 8, field w 0 8 < 0x12 → exec (.swr (0x038 + BitVec.ofNat 12 i) a) s = .next (s.modCore s.eid fun c =>
        { c with evsel := c.evsel.set i (w.setWidth 16 &&& 0x1FFF) })) ∧
      (∀ i : Fin 8, 0x12 ≤ field w 0 8 → Traps (.swr (0x038 + BitVec.ofNat 12 i) a) s cIllegal 0x10002) ∧
      (field w 5 2 ≠ 2 → sets 0x000 fun r => { r with status := statusWrite s.arch.prv r.status w }) ∧
      (field w 5 2 = 2 → Traps (.swr 0x000 a) s cIllegal 0x10002))) ∧
  (∀ (old w : Word), field w 5 2 ≠ 2 →
    (∀ i, i < 64 → (statusWrite 1 old w).getLsbD i =
      if i = 3 ∨ i = 4 ∨ i = 8 then w.getLsbD i
      else if (i = 5 ∨ i = 6) ∧ field w 5 2 ≠ 3 then w.getLsbD i else old.getLsbD i) ∧
    (∀ i, i < 64 → (statusWrite 3 old w).getLsbD i = if 2 ≤ i ∧ i ≤ 8 then w.getLsbD i else old.getLsbD i) ∧
    (∀ i, i < 64 → (statusWrite 0 old w).getLsbD i = if i = 4 then w.getLsbD i else old.getLsbD i))

/-- R112, R115: what a trap keeps in STATUS, ERET gives back, and PPRV and PIE are cleared; ERET raises PRIVILEGE at U, and at S with PPRV = 11;
else the PC is EPC with its low bits clear, and the next unit issues 4 cycles later. -/
def Obligations.TrapsReturnThroughEret : Prop :=
  (∀ (st : Word), field st 0 2 ≠ 2 →
    let h := statusOnTrap st
    let r := statusOnEret h
    field r 0 2 = field st 0 2 ∧ r.getLsbD 3 = st.getLsbD 3 ∧ r.getLsbD 2 = st.getLsbD 2 ∧
    field r 5 2 = 0 ∧ r.getLsbD 8 = false ∧ h.getLsbD 3 = false ∧ h.getLsbD 8 = st.getLsbD 3 ∧
    field h 5 2 = field st 0 2 ∧ h.getLsbD 7 = st.getLsbD 2 ∧ field h 0 2 = (if field st 0 2 = 0 then 1 else field st 0 2) ∧
    (∀ i, i < 64 → i = 4 ∨ 9 ≤ i → h.getLsbD i = st.getLsbD i ∧ r.getLsbD i = st.getLsbD i)) ∧
  (∀ (s : State), s.arch.ahead = false →
    (s.arch.prv = 0 → Traps .eret s cPrivilege 0xFFFF) ∧
    ((∀ sid, s.cur.origin ≠ .delegated sid) →
      (s.arch.prv = 1 → field s.arch.status 5 2 = 3 → Traps .eret s cPrivilege 0xFFFF) ∧
      (s.arch.prv ≠ 0 → ¬ (s.arch.prv = 1 ∧ field s.arch.status 5 2 = 3) → s.cur.preempt = false →
        ∃ t, exec .eret s = .next t ∧ t.arch = { s.arch with pc := s.arch.epc &&& ~~~3, status := statusOnEret s.arch.status } ∧
          t.unit.status = .jumped ∧ (t.core s.eid).free = max (s.core s.eid).free (s.unit.now + 4) ∧
          (∀ sid, sid ≠ s.unit.sid → t.strand sid = s.strand sid) ∧ t.mem = s.mem)))

/-! ## Loads, stores, atomics, fences (R191, R220-R268) -/

/-- R247, R250-R254: each load sends one access for its bytes, which its registers await; m0 and x0 discard the value; bits of the
strand's held stores are taken from there (R191). -/
def Obligations.LoadsSendOneAccess : Prop :=
  ∀ (s : State) (b c : XReg) (ord : LdOrd) (off : BitVec 8),
    let acq := decide (ord = .acq)
    let inv := decide (ord = .inv)
    let at_ := fun (n : Nat) => s.rx b + BitVec.ofInt 64 (off.toInt * n)
    let one := fun (n : Nat) => [({ gva := at_ n, len := n, nib := none } : Piece)]
    let rows := fun (n : Nat) => (List.range n).map fun (r : Nat) => s.rx b + BitVec.ofNat 64 r * s.rx c
    let h := s.arch.shape
    let vps := (rows h.nr).flatMap fun g => if h.nc * h.w < 8 then [({ gva := g, len := 1, nib := some false } : Piece)]
      else pieces g (h.nc * h.w / 8)
    (∀ (t : XReg) (sz : MemSize),
      let n := sizeBytes sz
      s.mayAccess [at_ n] n n false (n == 8) → s.maySend (one n) true false →
      ∃ dst, dst.regs = (if t = 0 then [] else [Reg.x t]) ∧
        SendsAccess (.ld t b sz ord off) s (.load dst) (one n) acq false inv (s.fromHeld (one n)) [.x t] 0) ∧
    (∀ t : BitVec 4, t ≠ 0 → s.mayAccess [at_ 16] 16 16 false false → s.maySend (one 16) true false →
      SendsAccess (.ldq t b ord off) s (.load (.pair t)) (one 16) acq false inv (s.fromHeld (one 16)) (pairRegs t) 0) ∧
    (∀ d : VReg, s.mayAccess (rows h.nr) (max 1 (h.nc * h.w / 8)) (max 1 (h.w / 8)) false false → s.maySend vps true false →
      SendsAccess (.ldv d b c ord) s (.load (.v d)) vps acq false inv (s.fromHeld vps) [.v d] (~~~(lowBits (h.n * h.w)))) ∧
    (∀ d : MReg, s.mayAccess [s.rx b] 128 8 false false → s.maySend (pieces (s.rx b) 128) true false →
      ∃ dst, dst.regs = (if d = 0 then [] else [Reg.m d]) ∧
        SendsAccess (.ldm d b ord) s (.load dst) (pieces (s.rx b) 128) acq false inv (s.fromHeld (pieces (s.rx b) 128)) [.m d] 0) ∧
    Traps (.ldq 0 b ord off) s cIllegal 0x10000

/-- R190, R247, R250-R254, R263: each store sends its data as one access, and run ahead it enters the holding buffer; m0 stores ones, CZERO
stores zeros. -/
def Obligations.StoresSendOneAccess : Prop :=
  ∀ (s : State) (b c : XReg) (ord : StOrd) (off : BitVec 8),
    let rel := decide (ord = .rel)
    let at_ := fun (n : Nat) => s.rx b + BitVec.ofInt 64 (off.toInt * n)
    let one := fun (g : Word) (n : Nat) => [({ gva := g, len := n, nib := none } : Piece)]
    let rows := fun (n : Nat) => (List.range n).map fun (r : Nat) => s.rx b + BitVec.ofNat 64 r * s.rx c
    let h := s.arch.shape
    let vps := (rows h.nr).flatMap fun g => if h.nc * h.w < 8 then [({ gva := g, len := 1, nib := some false } : Piece)]
      else pieces g (h.nc * h.w / 8)
    let puts := fun (i : Instr) (ps : List Piece) (data : Nat) (rel : Bool) =>
      (s.arch.ahead = false → s.maySend ps false true → SendsAccess i s (.store data) ps false rel false [] [] 0) ∧
      (s.arch.ahead = true → s.cur.hold.length + (heldOf ps data rel s.curCore.asid s.arch.wld).length ≤ 64 →
        HoldsStore i s ps data rel)
    (∀ (t : XReg) (sz : MemSize),
      let n := sizeBytes sz
      s.mayAccess [at_ n] n n true (n == 8) → puts (.st t b sz ord off) (one (at_ n) n) ((s.rx t).toNat % 256 ^ n) rel) ∧
    (∀ t : BitVec 4, t ≠ 0 → s.mayAccess [at_ 16] 16 16 true false →
      puts (.stq t b ord off) (one (at_ 16) 16) ((s.rx (BitVec.ofNat 5 (2 * t.toNat))).toNat +
        2 ^ 64 * (s.rx (BitVec.ofNat 5 (2 * t.toNat + 1))).toNat) rel) ∧
    (∀ d : VReg, s.mayAccess (rows h.nr) (max 1 (h.nc * h.w / 8)) (max 1 (h.w / 8)) true false →
      puts (.stv d b c ord) vps ((s.rv d).toNat % 2 ^ (h.n * h.w)) rel) ∧
    (∀ d : MReg, s.mayAccess [s.rx b] 128 8 true false →
      puts (.stm d b ord) (pieces (s.rx b) 128) (if d = 0 then (BitVec.allOnes 1024).toNat else s.arch.m[d.toNat].toNat) rel) ∧
    (s.mayAccess [s.rx b] 128 128 true false → puts (.czero b) (one (s.rx b) 128) 0 false) ∧
    Traps (.stq 0 b ord off) s cIllegal 0x10000

/-- R248, R249, R240, R259: the causes checked at issue, in their order, for each access of one row: ACCESS, ALIGNMENT, ATOMIC_ROUTE, RANGE_LOCK. -/
def Obligations.AccessChecksInOrder : Prop :=
  ∀ (s : State) (t a b : XReg) (q : BitVec 4) (v : VReg) (sz : MemSize) (lo : LdOrd) (so : StOrd) (ao : AmoOrd) (dbl : Bool) (off : BitVec 8),
    let at_ := fun (n : Nat) => s.rx b + BitVec.ofInt 64 (off.toInt * n)
    let checks := fun (i : Instr) (g : Word) (n al : Nat) (wr reg : Bool) (route : Bool) =>
      let admitted := ∀ h ∈ [g, lastByte g n], gvaAllowed (s.arch.prv == 0) reg h = true ∧ s.barred (s.eid / 4096) (gvaDie h) = false
      let placed := g.toNat % al = 0 ∧ gvaDie g = gvaDie (lastByte g n)
      (¬ admitted → Traps i s cAccess g) ∧
      (admitted → ¬ placed → Traps i s cAlignment g) ∧
      (admitted → placed → route = false → Traps i s cAtomicRoute g) ∧
      (admitted → placed → route = true → ∀ k, k < n →
        (∃ q ∈ (s.tile (s.eid / 2)).locks, (wr = true ∨ q.2.dst = true) ∧
          q.2.first.toNat ≤ (g + BitVec.ofNat 64 k).toNat ∧ (g + BitVec.ofNat 64 k).toNat ≤ q.2.last.toNat) →
        (∀ j, j < k → ¬ ∃ q ∈ (s.tile (s.eid / 2)).locks, (wr = true ∨ q.2.dst = true) ∧
          q.2.first.toNat ≤ (g + BitVec.ofNat 64 j).toNat ∧ (g + BitVec.ofNat 64 j).toNat ≤ q.2.last.toNat) →
        Traps i s cRangeLock (g + BitVec.ofNat 64 k))
    let n := sizeBytes sz
    checks (.ld t b sz lo off) (at_ n) n n false (n == 8) true ∧
    checks (.st t b sz so off) (at_ n) n n true (n == 8) true ∧
    (q ≠ 0 → checks (.ldq q b lo off) (at_ 16) 16 16 false false true ∧ checks (.stq q b so off) (at_ 16) 16 16 true false true) ∧
    (∀ m : MReg, checks (.ldm m b lo) (s.rx b) 128 8 false false true ∧ checks (.stm m b so) (s.rx b) 128 8 true false true) ∧
    checks (.czero b) (s.rx b) 128 128 true false true ∧
    checks (.amoAdd t a b dbl ao) (s.rx a) (if dbl then 8 else 4) (if dbl then 8 else 4) true false (s.routed .int (s.rx a)) ∧
    checks (.cas t a b dbl ao) (s.rx a) (if dbl then 8 else 4) (if dbl then 8 else 4) true false (s.routed .int (s.rx a)) ∧
    (s.arch.prv = 0 → isDevice (at_ n) = true →
      Traps (.ld t b sz lo off) s cAccess (at_ n) ∧ Traps (.st t b sz so off) s cAccess (at_ n)) ∧
    (s.arch.prv = 0 → isDevice (s.rx b) = true →
      Traps (.ldv v b a lo) s cAccess (s.rx b) ∧ Traps (.stv v b a so) s cAccess (s.rx b))

/-- R255-R259: the atomics send one access of their size, which reads and writes in one step; with x0 and no ordering an AMO is a
reduction; they wait for the core's stores to their bytes, and a reduction for no side-log entry (R258, R267). -/
def Obligations.AtomicsSendOneAccess : Prop :=
  ∀ (s : State) (d a b : XReg) (dbl : Bool) (ord : AmoOrd), s.arch.ahead = false →
    let n := if dbl then 8 else 4
    let ps := [({ gva := s.rx a, len := n, nib := none } : Piece)]
    let ps16 := [({ gva := s.rx a, len := 16, nib := none } : Piece)]
    let acq := decide (ord = .acq ∨ ord = .ar)
    let rel := decide (ord = .rel ∨ ord = .ar)
    let free := fun (l : List Piece) => ∀ c ∈ s.curCore.accs, c.isStore = true → meetsAny c.pieces l = false
    let clear := fun (l : List Piece) => ∀ e ∈ s.curCore.side, ∀ p ∈ l, e.touches p = false
    let red := decide (d = 0 ∧ ord = .plain)
    let dst := if d = 0 then LdDst.none else .x d
    let y := (s.rx b).toNat % 256 ^ n
    (s.mayAccess [s.rx a] n n true false → s.maySend ps true true → free ps → (red = true ∨ clear ps) →
      (s.routed .int (s.rx a) = true →
        SendsAccess (.amoAdd d a b dbl ord) s (.amo .add y dst red) ps acq rel false [] [.x d] 0 ∧
        SendsAccess (.amoAnd d a b dbl ord) s (.amo .and y dst red) ps acq rel false [] [.x d] 0 ∧
        SendsAccess (.amoOr d a b dbl ord) s (.amo .or y dst red) ps acq rel false [] [.x d] 0 ∧
        SendsAccess (.amoXor d a b dbl ord) s (.amo .xor y dst red) ps acq rel false [] [.x d] 0 ∧
        SendsAccess (.amoMin d a b dbl ord) s (.amo .min y dst red) ps acq rel false [] [.x d] 0 ∧
        SendsAccess (.amoMax d a b dbl ord) s (.amo .max y dst red) ps acq rel false [] [.x d] 0 ∧
        SendsAccess (.amoMinu d a b dbl ord) s (.amo .minu y dst red) ps acq rel false [] [.x d] 0 ∧
        SendsAccess (.amoMaxu d a b dbl ord) s (.amo .maxu y dst red) ps acq rel false [] [.x d] 0 ∧
        SendsAccess (.amoSwap d a b dbl ord) s (.amo .swap y dst red) ps acq rel false [] [.x d] 0) ∧
      (s.routed .fadd (s.rx a) = true →
        SendsAccess (.amoFadd d a b dbl ord) s (.amo .fadd y dst red) ps acq rel false [] [.x d] 0)) ∧
    (s.mayAccess [s.rx a] n n true false → s.maySend ps true true → free ps → clear ps → s.routed .int (s.rx a) = true →
      SendsAccess (.cas d a b dbl ord) s (.amo (.cas ((s.rx d).toNat % 256 ^ n)) y dst false) ps acq rel false [] [.x d] 0) ∧
    (∀ k l : BitVec 4, k ≠ 0 → l ≠ 0 → s.mayAccess [s.rx a] 16 16 true false → s.maySend ps16 true true → free ps16 → clear ps16 →
      s.routed .casq (s.rx a) = true →
      SendsAccess (.casq k a l ord) s (.amo (.cas (s.rpair k)) (s.rpair l) (.pair k) false) ps16 acq rel false [] (pairRegs k) 0) ∧
    (∀ k l : BitVec 4, k = 0 ∨ l = 0 → Traps (.casq k a l ord) s cIllegal 0x10000)

/-- R189, R260-R262: a fence takes its place among the strand's accesses, and one of strand scope has nothing to do; CFL goes as a store
to its line does; PF changes no register and sends nothing, and brings a line of the own die, or of a coherence object of the package, into
the cluster's slice. -/
def Obligations.FencesAndLineOperations : Prop :=
  ∀ (s : State) (a : XReg) (sc : Scope) (k : FenceKind) (w : Bool),
    (s.arch.ahead = false →
      (sc = .strand → exec (.fence sc k) s = .next s) ∧
      (sc ≠ .strand → s.draining = false → SendsAccess (.fence sc k) s (.fence sc k) [] false false false [] [] 0) ∧
      (let g := s.rx a &&& ~~~(127 : Word)
       s.draining = false → s.fenced false = false → s.missFree s.unit.sid 1 = true →
        SendsAccess (.cfl a) s .flush [{ gva := g, len := 128, nib := none }] false false false [] [] 0)) ∧
    (∃ t, exec (.pf a w) s = .next t ∧ t.strands = s.strands ∧ t.cores = s.cores ∧ t.flight = s.flight ∧ t.unit = s.unit) ∧
    (isDevice (s.rx a) = true ∨ 48 < missUsed s.curCore.accs → exec (.pf a w) s = .next s) ∧
    (∀ d dpa u pg, s.resolve (s.eid / 32) s.curCore.asid s.arch.wld false (s.rx a) = (u, pg, .at_ (.hbm d dpa true)) →
      isDevice (s.rx a) = false → missUsed s.curCore.accs ≤ 48 →
      (d = s.eid / 512 → ∃ t, exec (.pf a w) s = .next t ∧ t.mem = u.mem ∧
        ∃ l ∈ (t.die d).lines, l.line = dpa / 128 ∧ s.eid / 32 % 16 ∈ l.holders) ∧
      (∀ o, s.objMet s.curCore.asid (s.rx a) (.hbm d dpa true) = some o → u.objMet s.curCore.asid (s.rx a) (.hbm d dpa true) = some o →
        d ≠ s.eid / 512 → d / 8 = s.eid / 4096 → o.1 = d →
        ∃ t, exec (.pf a w) s = .next t ∧ t.mem = u.mem ∧
          ∃ k ∈ (t.die (s.eid / 512)).copies, k.home = d ∧ k.line = dpa / 128 ∧ s.eid / 32 % 16 ∈ k.slices))

/-- R224, R225, R236, R250, R264, R265: an access that may be performed, by a memory agent of the present generation where it leaves the tile,
is performed at its place: a load's registers receive the bytes there, or those of the die's own copy of a coherence object's line; an unmapped
page holds it, and a denied one posts ACCESS and gives
nothing. -/
def Obligations.LoadsArePerformed : Prop :=
  ∀ (s : State) (eid acc : Nat) (a : Acc) (p : Piece) (dst : LdDst),
    let c := s.core eid
    let sid := 4 * eid + a.snum
    c.accs.find? (fun a => a.id == acc) = some a → a.snum < 4 → a.op = .load dst → a.pieces = [p] → p.nib = none → 0 < p.len →
    a.held = false → a.bad = none → a.inv = false → a.overlay = [] → s.mayPerform eid a = true → s.inDate eid a →
    (∀ g ∈ pieceBytes p, (queuePart (s.queueFor eid a.snum acc) c.side g).1 = 0) → (∀ e ∈ c.side, e.touches p = false) →
    s.heldAt (eid / 32) a.asid p.gva = false →
    (isDevice p.gva = true ∨ (∃ e ∈ (s.die (gvaDie p.gva)).tlb, e.hits a.asid (gvaOff p.gva) = true) →
      (s.resolve (eid / 32) a.asid a.wld false p.gva).1.mem = s.mem) ∧
    (∀ u pg q, s.resolve (eid / 32) a.asid a.wld false p.gva = (u, pg, .at_ q) → u.poisoned q p.len = false → u.hostHas q p.len false = false →
      let w := u.reach (eid / 32) a.asid p.gva q false
      let v := w.viewAt (eid / 32) q p.len
      ((∀ d dpa, q = .hbm d dpa true → ∀ k ∈ (w.die (eid / 512)).copies, ¬ (k.home = d ∧ k.line = dpa / 128)) →
        v = Mem.read u.mem (q.keys p.len)) ∧
      ∃ t, exec (.accessPerformed eid acc) s = .next t ∧ t.mem = u.mem ∧
        (t.core eid).accs = c.accs.filter (fun b => b.id != acc) ∧ (t.strand sid).arch = (s.strand sid).arch ∧
        (t.strand sid).pend = fillPend c.cycle acc (landVal dst v) (s.strand sid).pend) ∧
    (∀ u pg, s.resolve (eid / 32) a.asid a.wld false p.gva = (u, pg, .denied) →
      ∃ t, exec (.accessPerformed eid acc) s = .next t ∧ t.mem = u.mem ∧
        (t.core eid).accs = c.accs.filter (fun b => b.id != acc) ∧ (t.strand sid).arch = (s.strand sid).arch ∧
        (t.strand sid).pend = dropPend acc (s.strand sid).pend ∧
        (t.strand sid).posted = (s.strand sid).posted ++ [{ code := 0x0B, eval := p.gva, epc := none, acc := acc }]) ∧
    (∀ u pg, s.resolve (eid / 32) a.asid a.wld false p.gva = (u, pg, .unmapped) →
      ∃ t, exec (.accessPerformed eid acc) s = .next t ∧ t.mem = u.mem ∧ t.strands = s.strands ∧
        (t.core eid).accs = c.accs.map (fun b => if b.id = acc then { b with held := true } else b) ∧
        ∃ f ∈ (t.die (gvaDie p.gva)).faults, f.asid = a.asid ∧ f.region = p.gva.toNat / 2 ^ 16 ∧
          ∃ g, (g, Ev.accessPerformed eid acc) ∈ f.held)

/-- R31, R225, R250, R255-R257, R264-R266: a store writes its bytes at its place and no others; an atomic lands the old value and writes
the new one in the same step; a store to an unmapped page retires into the side log, and so does one that the owner denies. -/
def Obligations.StoresAndAtomicsArePerformed : Prop :=
  ∀ (s : State) (eid acc : Nat) (a : Acc) (p : Piece) (u : State) (pg : Option Page),
    let c := s.core eid
    let sid := 4 * eid + a.snum
    c.accs.find? (fun a => a.id == acc) = some a → a.snum < 4 → a.pieces = [p] → p.nib = none →
    a.held = false → a.bad = none → a.drops = [] → s.mayPerform eid a = true → s.inDate eid a →
    sideRegion c.side p.gva = false → s.heldAt (eid / 32) a.asid p.gva = false →
    (∀ q, s.resolve (eid / 32) a.asid a.wld true p.gva = (u, pg, .at_ q) → u.hostHas q p.len true = false →
      (∀ g, pg = some g → g.home = none ∧ u.dirtyNeeded a.asid g = false) → (∀ i, i < p.len → storeMask (q.plus i) = 0xFF) →
      (∀ data, a.op = .store data → u.objMet a.asid p.gva q = none →
        ∃ t, exec (.accessPerformed eid acc) s = .next t ∧ t.mem = Mem.write u.mem (q.keys p.len) (data % 256 ^ p.len) ∧
          (∀ k, k ∉ q.keys p.len → Mem.byte t.mem k = Mem.byte u.mem k) ∧
          (t.core eid).accs = c.accs.filter (fun b => b.id != acc) ∧
          (t.strand sid).arch = (s.strand sid).arch ∧ (t.strand sid).pend = (s.strand sid).pend) ∧
      (∀ op y dst, a.op = .amo op y dst false → u.poisoned q p.len = false →
        let old := Mem.read u.mem (q.keys p.len)
        ∃ t, exec (.accessPerformed eid acc) s = .next t ∧
          (∀ e, op = .cas e → old ≠ e → t.mem = u.mem) ∧
          ((∀ e, op = .cas e → old = e) → t.mem = Mem.write u.mem (q.keys p.len) (amoNew op p.len old y % 256 ^ p.len)) ∧
          (t.core eid).accs = c.accs.filter (fun b => b.id != acc) ∧
          (t.strand sid).pend = fillPend c.cycle acc (landVal dst old) (s.strand sid).pend)) ∧
    (∀ data, a.op = .store data → c.side.length < 32 →
      (s.resolve (eid / 32) a.asid a.wld true p.gva = (u, pg, .unmapped) →
        ∃ t, exec (.accessPerformed eid acc) s = .next t ∧ t.mem = u.mem ∧
          (t.core eid).accs = c.accs.filter (fun b => b.id != acc) ∧
          (t.core eid).side = c.side ++ [sideEntry acc a.snum a.asid a.wld a.rel none p data] ∧
          Ev.faultOpen sid p.gva .store ∈ t.flight) ∧
      (s.resolve (eid / 32) a.asid a.wld true p.gva = (u, pg, .denied) →
        ∃ t, exec (.accessPerformed eid acc) s = .next t ∧ t.mem = u.mem ∧
          (t.core eid).accs = c.accs.filter (fun b => b.id != acc) ∧
          (t.core eid).side = c.side ++ [{ sideEntry acc a.snum a.asid a.wld a.rel none p data with denied := true }] ∧
          Ev.sideLogReplay eid ((sideEntry acc a.snum a.asid a.wld a.rel none p data).line.toNat / 2 ^ 16) ∈ t.flight))

/-! ## Exchanges between cores (R160-R163) -/

/-- R139, R160, R162, R163: VCHAIN sets its open exchange and, at the first core, sends its partial dot product on, or has its total where it
is alone; VXMAX sends its rows' maxima to the three other cores of its mesh row, and raises ACCESS where one is not of the job. -/
def Obligations.ExchangesAreSent : Prop :=
  ∀ (s : State) (d a b : VReg) (et : Et) (src : Fmt),
    let h := s.arch.shape
    let k := max 1 ((h.n * h.w + 511) / 512)
    let kc := max 1 ((h.n * max h.w (accFmt et).width + 511) / 512)
    let id := s.fresh + 1
    let awaits := fun (keep : VecVal) => ({ reg := some (.v d), val := 0, keep := keep, flags := 0, due := none, fixed := false, id := id } : Pend)
    let to_ := fun (m : Msg) (e : Nat) => m.src = s.eid ∧ m.dest = e ∧ m.ssn = s.unit.sid % 4 ∧ m.kind = .request ∧ m.ha = 0x7FFFFFFFF0800 ∧
      m.asid = s.curCore.asid ∧ m.wld = s.arch.wld ∧ m.gen = s.ownGen (s.eid / 512) (coreAgent s.eid)
    let fresh_ := fun (chain : Bool) (n : Nat) =>
      (∀ o ∈ s.cur.xop, o.chain = chain → o.num ≠ n) ∧ (∀ i ∈ s.cur.xin, i.chain = chain → i.num ≠ n)
    etFmt et = some src → etF et = true → et = s.arch.shapeEt → s.arch.ahead = false →
    (s.canPay (3 * kc) → fresh_ true s.cur.chainN →
      let f := accFmt et
      let p := dot f src s.arch.rm ((List.range h.n).map fun i => (elem (s.rv a) h.w i, elem (s.rv b) h.w i))
      let due := max (s.core s.eid).cycle (s.unit.now + h.n + 18)
      (s.chainCores s.eid = [s.eid] → ∃ t, exec (.vchain d a b et) s = .next t ∧ t.arch = s.arch ∧ t.mem = s.mem ∧ t.flight = s.flight ∧
        t.cur.chainN = s.cur.chainN + 1 ∧
        t.cur.pend = fillPend due id (fun _ => (BitVec.ofNat 64 p.1).setWidth 4096) (s.cur.pend ++ [awaits 0]) ++
          (if p.2 = 0 then [] else [{ reg := none, val := 0, keep := 0, flags := p.2, due := some due, fixed := false, id := 0 }])) ∧
      (∀ e r, s.chainCores s.eid = s.eid :: e :: r → ∃ t, exec (.vchain d a b et) s = .next t ∧ t.arch = s.arch ∧ t.mem = s.mem ∧
        t.cur.chainN = s.cur.chainN + 1 ∧ t.cur.pend = s.cur.pend ++ [awaits 0] ∧
        ∃ m, to_ m e ∧ t.flight = s.flight ++ [.exchange
          { msg := m, chain := true, num := s.cur.chainN, total := false, et := accType et, rlog := 0, vals := [BitVec.ofNat 64 p.1] }])) ∧
    (s.canPay (2 * k) → fresh_ false s.cur.maxN → (∀ e ∈ rowCores s.eid, s.sameJob s.eid e = true) →
      let own := (List.range h.nr).map fun r => BitVec.ofNat 64
        (maxMag src ((List.range h.nc).map fun c => elem (s.rv a) h.w (r * h.nc + c)))
      ∃ t, exec (.vxmax d a et) s = .next t ∧ t.arch = s.arch ∧ t.mem = s.mem ∧ t.cur.maxN = s.cur.maxN + 1 ∧
        t.cur.pend = s.cur.pend ++ [awaits (~~~(lowBits (h.n * h.w)))] ∧
        ∃ m : Nat → Msg, (∀ e, to_ (m e) e) ∧ t.flight = s.flight ++ ((rowCores s.eid).filter fun e => e != s.eid).map fun e =>
          .exchange { msg := m e, chain := false, num := s.cur.maxN, total := false, et := et, rlog := Nat.log2 h.nr, vals := own }) ∧
    (∀ e, (rowCores s.eid).find? (fun e => !s.sameJob s.eid e) = some e → Traps (.vxmax d a et) s cAccess (BitVec.ofNat 64 e))

/-- R160, R162, R163: a value that arrives, as any message does, is buffered; the last partial of VXMAX gives every row the maximum of the four,
the total of VCHAIN
becomes element 0 with zeros above it, and a partial in the middle of a chain is added and sent on. -/
def Obligations.ExchangesArrive : Prop :=
  ∀ (s : State) (x : Xchg) (o : XOpen),
    let k := s.strand x.dst
    let cores := s.chainCores (x.dst / 4)
    let due := max (s.core (x.dst / 4)).cycle o.ready
    let flags := fun (fl : Fl) => if fl = 0 then [] else
      [({ reg := none, val := 0, keep := 0, flags := fl, due := some due, fixed := false, id := 0 } : Pend)]
    s.accepts x.msg false → x.msg.ssn < 4 →
    x.num < (if x.chain then k.chainN else k.maxN) + 4 →
    (k.xop.find? fun (q : XOpen) => q.chain == x.chain && q.num == x.num) = some o →
    (x.chain = true → x.total = true → k.arrived o = [] → x.et = accType o.et →
      ∃ t, exec (.exchange x) s = .next t ∧ t.flight = s.flight ∧ (t.strand x.dst).arch = k.arch ∧
        (t.strand x.dst).pend = fillPend due o.id (fun _ => (x.vals.headD 0).setWidth 4096) k.pend ++ flags o.flags) ∧
    (∀ c e, x.chain = true → x.total = false → k.arrived o = [] → x.et = accType o.et → o.sent = false →
      cores[c]? = some (x.dst / 4) → position (x.dst / 4) cores = c → c ≠ 0 → cores[c + 1]? = some e →
      ∃ t, exec (.exchange x) s = .next t ∧ (t.strand x.dst).arch = k.arch ∧ (t.strand x.dst).pend = k.pend ∧
        ∃ m : Msg, m.src = x.msg.dest ∧ m.dest = e ∧ m.ssn = x.msg.ssn ∧ m.ha = 0x7FFFFFFFF0800 ∧ t.flight = s.flight ++ [.exchange
          { msg := m, chain := true, num := x.num, total := false, et := accType o.et, rlog := 0,
            vals := [BitVec.ofNat 64 (fAdd (accFmt o.et) o.rm (x.vals.headD 0).toNat (o.vals.headD 0).toNat).1] }]) ∧
    (∀ y z f, x.chain = false → k.arrived o = [y, z] → etFmt o.et = some f →
      (∀ i ∈ [y, z], i.et = o.et ∧ i.rlog = o.rlog) → x.et = o.et → x.rlog = o.rlog →
      ∃ t, exec (.exchange x) s = .next t ∧ t.flight = s.flight ∧ (t.strand x.dst).arch = k.arch ∧
        (t.strand x.dst).pend = fillPend due o.id (fun _ => BitVec.ofNat 4096 (packElems f.width (spread o.nc
          ((List.range (2 ^ o.rlog)).map fun r => maxMag f [(o.vals.getD r 0).toNat, (y.vals.getD r 0).toNat, (z.vals.getD r 0).toNat,
            (x.vals.getD r 0).toNat]))).1) k.pend ++ flags o.flags) ∧
    (∀ f, x.chain = false → etFmt o.et = some f → (k.arrived o).length < 2 →
      ∃ t, exec (.exchange x) s = .next t ∧ t.flight = s.flight ∧ (t.strand x.dst).pend = k.pend ∧
        (t.strand x.dst).xin = k.xin ++
          [{ src := x.src, chain := x.chain, num := x.num, total := x.total, et := x.et, rlog := x.rlog, vals := x.vals }])

/-! ## Semaphores, messages, handlers (R109, R332-R339) -/

/-- R61, R109, R244: SEMWAIT takes one from a count, or waits behind the other waiters; a signal ends the longest wait or adds one, saturating,
and sets EV of the tile's strands; a strand of a job that does not hold the tile whole raises ACCESS, and such a message is refused. -/
def Obligations.SemaphoreSteps : Prop :=
  ∀ (s : State) (n : BitVec 3) (a : XReg) (m : Msg),
    let tile := s.eid / 2
    let count := fun (u : State) (t : Nat) (n : BitVec 3) => ((u.tile t).sem.getD n.toNat 0 : BitVec 16)
    let signalled := fun (u : State) (t : Nat) (n : BitVec 3) =>
      u.mem = s.mem ∧
      ((∀ w ∈ (s.tile t).semq, w.1 ≠ n) → (u.tile t).semq = (s.tile t).semq ∧
        count u t n = (if count s t n = 0xFFFF then 0xFFFF else count s t n + 1)) ∧
      (∀ pre w post, (s.tile t).semq = pre ++ w :: post → w.1 = n → (∀ v ∈ pre, v.1 ≠ n) →
        (u.tile t).semq = pre ++ post ∧ count u t n = count s t n ∧ (u.strand w.2).granted = true ∧
        ((s.strand w.2).preempt = false → (u.strand w.2).st = .ready)) ∧
      (∀ i, i < 8 → (s.strand (8 * t + i)).st ≠ .blocked → (u.strand (8 * t + i)).arch.ev = true)
    (s.arch.ahead = false →
      (s.cur.granted = false → s.holdsTile s.eid tile = true →
        (count s tile n ≠ 0 → ∃ u, exec (.semwait n) s = .next u ∧ count u tile n = count s tile n - 1 ∧ u.strands = s.strands ∧
          u.mem = s.mem) ∧
        (count s tile n = 0 → ∃ u, exec (.semwait n) s = .next u ∧ u.cur.st = .blocked ∧ u.cur.wait = .sem n ∧
          u.arch = { s.arch with pc := s.unit.pc } ∧ count u tile n = 0 ∧
          (u.tile tile).semq = (s.tile tile).semq.filter (fun w => w.2 != s.unit.sid) ++ [(n, s.unit.sid)])) ∧
      (s.cur.granted = true → exec (.semwait n) s = .next (s.modCur fun k => { k with granted := false })) ∧
      (s.holdsTile s.eid tile = false → Traps (.semsig n 0) s cAccess (BitVec.ofNat 64 s.eid) ∧
        (s.cur.granted = false → Traps (.semwait n) s cAccess (BitVec.ofNat 64 s.eid))) ∧
      (s.holdsTile s.eid tile = true → s.owes s.unit.sid = false → ∃ u, exec (.semsig n 0) s = .next u ∧ signalled u tile n) ∧
      (a ≠ 0 → s.badEid (field (s.rx a) 0 22) = false → s.fenced false = false → exec (.semsig n a) s = .next
        { s with fresh := s.fresh + 1,
                 flight := s.flight ++ [.semaphoreSignal { s.request 0 with dest := field (s.rx a) 0 22, ha := 0x7FFFFFFFF0700,
                                                                            opc := n.setWidth 16, seq := s.fresh + 1 }] })) ∧
    (s.accepts m true → s.holdsTile m.dest (m.dest / 2) = true →
      ∃ u, exec (.semaphoreSignal m) s = .next u ∧ signalled u (m.dest / 2) (m.opc.setWidth 3)) ∧
    (s.accepts m true → s.holdsTile m.dest (m.dest / 2) = false →
      exec (.semaphoreSignal m) s = .next { s with flight := s.flight ++ [.refusal { s.answer m cAccess 0 with kind := .refusal }] })

/-- R60, R334, R336-R338: AMSEND sends its arguments and waits for the reply in xd; a software message runs on a DORMANT strand with its
arguments in x3 to x7, or is queued, or refused by a core of four workers; AMRET replies and leaves the strand DORMANT; a reply or a refusal
ends the request. -/
def Obligations.SoftwareMessages : Prop :=
  ∀ (s : State) (d a b : XReg) (m : Msg) (eid t : Nat) (r : Req),
    let msg := { s.request 0 with dest := field (s.rx b) 0 22, ha := s.rx a, a0 := s.arch.getX 16, a1 := s.arch.getX 17,
                                  a2 := s.arch.getX 18, a3 := s.arch.getX 19, seq := s.fresh + 1 }
    let runs := fun (u : State) (sid : Nat) (m : Msg) =>
      let k := (u.strand sid).arch
      (u.strand sid).st = .ready ∧ (u.strand sid).dispatched = true ∧ (u.strand sid).origin = .message m ∧ k.pc = m.ha ∧ k.prv = 0 ∧
      k.getX 3 = BitVec.ofNat 64 m.src ∧ k.getX 4 = m.a0 ∧ k.getX 5 = m.a1 ∧ k.getX 6 = m.a2 ∧ k.getX 7 = m.a3 ∧
      (∀ o, o ≠ sid → u.strand o = s.strand o) ∧ u.mem = s.mem
    (s.arch.ahead = false → isDevice (s.rx a) = false → s.badEid (field (s.rx b) 0 22) = false → (s.rx a).toNat % 8 = 0 → s.fenced false = false →
      (d = 0 → ∃ u, exec (.amsend d a b) s = .next u ∧ u.flight = s.flight ++ [.softwareMessage msg] ∧ u.strands = s.strands ∧
        (u.core s.eid).cnt = (s.core s.eid).cnt + 1 ∧ u.mem = s.mem) ∧
      (d ≠ 0 → freeTag s.curCore.reqs 1023 = some t → ∃ u, exec (.amsend d a b) s = .next u ∧
        u.flight = s.flight ++ [.softwareMessage { msg with tag := some t }] ∧ u.arch = s.arch ∧
        u.cur.pend = s.cur.pend ++ waitsFor d (s.fresh + 1) ∧ u.cur.acqs = s.cur.acqs ++ [s.fresh + 1] ∧
        (u.core s.eid).cnt = (s.core s.eid).cnt + 1 ∧
        Map.find (u.core s.eid).reqs t = some { dest := field (s.rx b) 0 22, snum := s.unit.sid % 4, id := s.fresh + 1, cmd := false, depth := 0 } ∧
        u.mem = s.mem)) ∧
    (s.arch.ahead = false → isDevice (s.rx a) = true → Traps (.amsend d a b) s cAccess (s.rx a)) ∧
    (s.accepts m true → (s.core m.dest).w = 4 →
      exec (.softwareMessage m) s = .next { s with flight := s.flight ++ [.refusal { s.answer m cAccess 0 with kind := .refusal }] }) ∧
    (s.accepts m true → (s.core m.dest).w ≠ 4 →
      (∀ sid, (s.core m.dest).swq = [] → s.dormant m.dest = some sid → (s.strand sid).preempt = false →
        ∃ u, exec (.softwareMessage m) s = .next u ∧ runs u sid m) ∧
      ((s.core m.dest).swq ≠ [] ∨ s.dormant m.dest = none → (s.core m.dest).swq.length < 8 →
        ∃ u, exec (.softwareMessage m) s = .next u ∧ u.strands = s.strands ∧ (u.core m.dest).swq = (s.core m.dest).swq ++ [m])) ∧
    (∀ sid rest, (s.core eid).swq = m :: rest → s.dormant eid = some sid → (s.strand sid).preempt = false →
      ∃ u, exec (.dormantDispatch eid) s = .next u ∧ runs u sid m ∧ (u.core eid).swq = rest) ∧
    (s.cur.origin = .message m → s.arch.ahead = false → s.owes s.unit.sid = false →
      ∃ u, exec (.amret a) s = .next u ∧ u.cur.st = .dormant ∧ u.cur.origin = .none ∧ u.mem = s.mem ∧
        (m.tag ≠ none → Ev.reply (s.answer m 0 (s.rx a).toNat) ∈ u.flight)) ∧
    ((∀ m, s.cur.origin ≠ .message m) → Traps (.amret a) s cIllegal 0x10000) ∧
    (m.tag = some t → Map.find (s.core m.dest).reqs t = some r → r.snum = m.ssn → r.dest = m.src → m.ssn < 4 → r.cmd = false →
      (∀ c, m.kind ≠ .reserved c) → s.genTable (m.src / 512) (coreAgent m.src) = m.gen →
      let sid := 4 * m.dest + m.ssn
      let cause := fun (code : Nat) =>
        ({ code := BitVec.ofNat 8 code, eval := if isDevice m.ha ∧ field m.ha 8 8 ∈ [0, 1, 2, 3, 4, 5, 9] then m.addr else BitVec.ofNat 64 m.src,
           epc := none, acc := 0 } : Posted)
      (m.opc = 0 → ∃ u, exec (.reply m) s = .next u ∧ Map.find (u.core m.dest).reqs t = none ∧ u.mem = s.mem ∧
        (u.strand sid).pend = fillPend (s.core m.dest).cycle r.id (fun _ => BitVec.ofNat 4096 m.a0.toNat) (s.strand sid).pend) ∧
      (m.opc ≠ 0 → ∃ u, exec (.reply m) s = .next u ∧ Map.find (u.core m.dest).reqs t = none ∧ u.mem = s.mem ∧
        (u.strand sid).pend = dropPend r.id (s.strand sid).pend ∧ (u.strand sid).posted = (s.strand sid).posted ++ [cause m.opc.toNat]) ∧
      (∃ u, exec (.refusal m) s = .next u ∧ Map.find (u.core m.dest).reqs t = none ∧ u.mem = s.mem ∧
        (u.strand sid).pend = dropPend r.id (s.strand sid).pend ∧ (u.strand sid).posted = (s.strand sid).posted ++ [cause 0x0B]))

/-- R245, R335: the intrinsic handlers read, write, and read and write in one step at the place that owns the bytes, and answer. -/
def Obligations.MemoryHandlersAnswer : Prop :=
  ∀ (s u : State) (m : Msg) (v n : Nat) (pg : Option Page) (q : Place) (op : AmoOp),
    let answers := fun (t : State) (v : Nat) => Ev.reply { s.answer m 0 v with a1 := BitVec.ofNat 64 (v / 2 ^ 64) } ∈ t.flight
    let at_ := s.heldAt (m.dest / 32) m.asid m.addr = false ∧ s.resolve (m.dest / 32) m.asid m.wld true m.addr = (u, pg, .at_ q) ∧
      u.plainPage m.asid pg ∧
      ∀ i, i < 16 → storeMask (q.plus i) = 0xFF ∧ u.hostHas q (i + 1) true = false
    let fn := field m.opc 0 7
    let w := if fn / 4 % 2 = 0 then 4 else 8
    let changes := fun (i : Instr) (w : Nat) (op : AmoOp) (y : Nat) =>
      ∃ t, exec i s = .next t ∧ ((∃ e, op = .cas e) ∨ m.tag ≠ none → answers t (Mem.read u.mem (q.keys w))) ∧
        (∀ e, op = .cas e → Mem.read u.mem (q.keys w) ≠ e → t.mem = u.mem) ∧
        ((∀ e, op = .cas e → Mem.read u.mem (q.keys w) = e) →
          t.mem = Mem.write u.mem (q.keys w) (amoNew op w (Mem.read u.mem (q.keys w)) y % 256 ^ w))
    (s.accepts m false → handlerBytes m.opc = some n → s.hwLoad (m.dest / 32) m.asid m.wld (pieces m.addr n) = (u, .value v) →
      ∃ t, exec (.loadHandler m) s = .next t ∧ answers t v ∧ t.mem = u.mem ∧ t.strands = u.strands) ∧
    (s.accepts m (field m.opc 3 2 == 2) → handlerBytes m.opc = some n → m.addr.toNat % n = 0 → at_ →
      ∃ t, exec (.storeHandler m) s = .next t ∧ answers t 0 ∧
        t.mem = Mem.write u.mem (q.keys n) ((m.a0.toNat + 2 ^ 64 * m.a1.toNat) % 256 ^ n)) ∧
    (s.accepts m (fn / 2 % 2 == 1) → amoOfFn fn = some op → m.addr.toNat % w = 0 → at_ → u.poisoned q w = false →
      changes (.atomicHandler m) w op (m.a0.toNat % 256 ^ w)) ∧
    (s.accepts m (fn / 2 % 2 == 1) → fn / 8 = 10 → m.addr.toNat % w = 0 → at_ → u.poisoned q w = false →
      changes (.casHandler m) w (.cas ((m.a0.toNat + 2 ^ 64 * m.a1.toNat) % 256 ^ w)) ((m.a2.toNat + 2 ^ 64 * m.a3.toNat) % 256 ^ w)) ∧
    (s.accepts m false → at_ →
      ∃ t, exec (.subByteStore m) s = .next t ∧ answers t 0 ∧
        t.mem = Mem.write u.mem (q.keys 1) (let mask : Byte := m.a1.setWidth 8
          ((BitVec.ofNat 8 (Mem.read u.mem (q.keys 1)) &&& ~~~mask) ||| (m.a0.setWidth 8 &&& mask)).toNat))

/-! ## Rings, mailboxes, circular buffers (R348-R355) -/

/-- R348-R350: RINGI sets a ring up empty, RINGA publishes one slot by a message, which waits at a full ring until a slot is free, and RINGQ
reads the ring. -/
def Obligations.RingSteps : Prop :=
  ∀ (s : State) (n : BitVec 3) (d a b : XReg) (m : Msg) (tile ring : Nat) (w : Option Nat) (rest : List (Option Nat)),
    let t := s.eid / 2
    let q := s.ring t n.toNat
    (s.arch.ahead = false → s.holdsTile s.eid t = true →
      (∀ r, ringOf (s.rx a) (s.rx b) = some r → s.ringNamed t n.toNat = false →
        r.v = true ∧ r.head = 0 ∧ r.tail = 0 ∧ r.base = (s.rx a).toNat ∧ r.sl = (s.rx b).toNat % 16 ∧ 1 ≤ r.sl ∧ r.sl ≤ 8 ∧
        r.base % 128 = 0 ∧ r.base + 2 ^ r.sl * r.bytes ≤ 0x100000 ∧
        ∃ u, exec (.ringi n a b) s = .next u ∧ u.ring t n.toNat = { r with waiting := q.waiting } ∧ u.strands = s.strands ∧ u.mem = s.mem) ∧
      (ringOf (s.rx a) (s.rx b) = none → Traps (.ringi n a b) s cEngineFault 1) ∧
      (s.settled (.x d) (s.unit.now + 1) → GivesX (.ringq d n) s d (BitVec.ofNat 64 (q.head.toNat + q.tail.toNat * 2 ^ 16 +
        q.sl * 2 ^ 32 + q.sb.toNat * 2 ^ 36 + (if q.v then 2 ^ 63 else 0))) 0 1)) ∧
    (s.arch.ahead = false →
      let e := if a = 0 then s.eid else field (s.rx a) 0 22
      (a = 0 → s.holdsTile s.eid t = true) → s.badEid e = false → s.fenced false = false →
      ∃ u, exec (.ringa n a) s = .next u ∧ u.arch = s.arch ∧ u.cur.pend = s.cur.pend ∧ u.mem = s.mem ∧
        u.cur.owed = s.cur.owed ++ [s.fresh + 1] ∧
        u.flight = s.flight ++ [.ringAdvance { s.request 0 with dest := e, ha := 0x7FFFFFFFF0600, opc := n.setWidth 16,
                                                                seq := s.fresh + 1 }]) ∧
    (s.accepts m true → s.holdsTile m.dest (m.dest / 2) = true →
      let k := field m.opc 0 3
      let r := s.ring (m.dest / 2) k
      ((r.v && decide (r.used < r.slots)) = true → ∃ u, exec (.ringAdvance m) s = .next u ∧ u.mem = s.mem ∧
        u.ring (m.dest / 2) k = { r with tail := r.tail + 1 } ∧
        (u.strand (4 * m.src + m.ssn)).owed = (s.strand (4 * m.src + m.ssn)).owed.filter (· != m.seq)) ∧
      ((r.v && decide (r.used < r.slots)) = false → ∃ u, exec (.ringAdvance m) s = .next u ∧ u.strands = s.strands ∧
        u.ring (m.dest / 2) k = { r with waiting := r.waiting ++ [some (m.seq * 2 ^ 24 + (4 * m.src + m.ssn))] })) ∧
    (ring < 8 → (s.ring tile ring).waiting = w :: rest →
      ((s.ring tile ring).v && decide ((s.ring tile ring).used < (s.ring tile ring).slots)) = true →
      ∃ u, exec (.ringAdvanceDeferred tile ring) s = .next u ∧ u.mem = s.mem ∧
        u.ring tile ring = { s.ring tile ring with tail := (s.ring tile ring).tail + 1, waiting := rest })

/-- R351-R355: the mailbox and buffer instructions send their operation to the owner of the object, which executes it in one step, sets EV of its
tile's strands on a post, and answers; a top-k mailbox keeps its entries in descending order, at most k of them, and a post takes the lowest
entry's place or is dropped and counted; a record that fits goes into the circular buffer at WR, behind a pad where its end is too near, and
any other post is told to retry; a take frees the record in hand and gives the next one. -/
def Obligations.MailboxSteps : Prop :=
  (∀ (s u : State) (d a b : XReg) (m : Msg) (tag t : Nat) (pg : Option Page) (q : Place),
    let g := s.rx a
    let placed := fun (g : Word) (al : Nat) => g.toNat % al = 0 ∧
      ∀ h ∈ [g, lastByte g 8], gvaAllowed (s.arch.prv == 0) false h = true ∧ s.barred (s.eid / 4096) (gvaDie h) = false
    let sends := fun (i : Instr) (d : XReg) (g : Word) (op len : Nat) (acq : Bool) (w : List Word) =>
      let msg : Msg := { s.request g with dest := s.ownerOf s.curCore.asid s.eid g, ha := 0x7FFFFFFFF0500,
                                          opc := BitVec.ofNat 16 (op + len * 2 ^ 8), a0 := w.getD 0 0,
                                          a1 := w.getD 1 0, a2 := w.getD 2 0, a3 := w.getD 3 0, seq := s.fresh + 1,
                                          tag := if d = 0 then none else some tag }
      (d ≠ 0 → freeTag s.curCore.reqs 1023 = some tag) →
      ∃ u, exec i s = .next u ∧ u.arch = s.arch ∧ u.mem = s.mem ∧ u.flight = s.flight ++ [.mailboxInsert msg] ∧
        u.cur.pend = s.cur.pend ++ waitsFor d (s.fresh + 1) ∧ u.cur.owed = s.cur.owed ++ [s.fresh + 1] ∧
        u.cur.acqs = s.cur.acqs ++ (if acq then [s.fresh + 1] else [])
    (s.arch.ahead = false → s.fenced false = false →
      (placed g 256 → sends (.mbxpost a b) 0 g 0 0 false [s.rx b] ∧ sends (.mbxread d a) d g 1 0 true []) ∧
      (placed (g &&& ~~~(0xFF : Word)) 256 → field g 4 4 = 0 → sends (.mbxclr a) 0 (g &&& ~~~(0xFF : Word)) 2 0 false [g]) ∧
      (placed (g &&& ~~~(0xFF : Word)) 256 → field g 4 4 ≠ 0 → Traps (.mbxclr a) s cAlignment g) ∧
      (placed g 64 → sends (.cbtake d a) d g 4 0 true [] ∧
        (1 ≤ (s.rx b).toNat → (s.rx b).toNat ≤ 32 →
          sends (.cbpost d a b) d g 3 (s.rx b).toNat false ([16, 17, 18, 19].map s.arch.getX)) ∧
        ((s.rx b).toNat = 0 ∨ 32 < (s.rx b).toNat → Traps (.cbpost d a b) s cEngineFault 1))) ∧
    (let op := field m.opc 0 3
     s.accepts m (op == 1 || op == 3 || op == 4) → s.heldAt (m.dest / 32) m.asid m.addr = false → s.mailBehind m = false →
      s.mailWaits m = false → s.resolve (m.dest / 32) m.asid m.wld true m.addr = (u, pg, .at_ q) → q.tileNo = some t →
        (u.cluster (t / 16)).gated = false →
      u.mailPoison q op = false → u.plainPage m.asid pg →
      let r := if op ≤ 2 then u.mbxOp q op m.a0
        else if op = 3 then u.cbPost q m.src (field m.opc 8 6) (msgData m) else u.cbTake q m.addr
      ∃ v, exec (.mailboxInsert m) s = .next v ∧ v.mem = r.1.mem ∧
        (m.tag ≠ none → Ev.reply { s.answer m 0 r.2 with a1 := BitVec.ofNat 64 (r.2 / 2 ^ 64) } ∈ v.flight) ∧
        (op = 0 ∨ op = 3 → ∀ i, i < 8 → (u.strand (8 * t + i)).st ≠ .blocked → (v.strand (8 * t + i)).arch.ev = true))) ∧
  (∀ (k e : Nat) (l : List Nat), 1 ≤ k → k ≤ 16 → l.length ≤ k → e / 2 ^ 32 ≠ 0xFFFFFFFF →
    l.Pairwise (fun a b => mbxKey (b / 2 ^ 32) ≤ mbxKey (a / 2 ^ 32)) →
    let r := mbxPost k l e
    r.1.Pairwise (fun a b => mbxKey (b / 2 ^ 32) ≤ mbxKey (a / 2 ^ 32)) ∧ r.1.length ≤ k ∧
    (l.length < k → r.2 = false ∧ r.1.length = l.length + 1 ∧ (∀ x, r.1.count x = (e :: l).count x)) ∧
    (l.length = k → r.2 = true → r.1 = l ∧ ∀ x ∈ l, mbxKey (e / 2 ^ 32) ≤ mbxKey (x / 2 ^ 32)) ∧
    (l.length = k → r.2 = false → r.1.length = k ∧ e ∈ r.1 ∧ ∀ x, r.1.count x = (e :: l.dropLast).count x)) ∧
  (∀ (s : State) (q : Place) (arg : Word), (q.keys 264).Nodup →
    let h := s.readAt q 8
    let k := h % 32
    let n := h / 2 ^ 8 % 32
    let entry := fun (t : State) (j : Nat) => t.readAt (q.plus (8 + 8 * j)) 8
    let post := s.mbxOp q 0 arg
    let read := s.mbxOp q 1 arg
    let dropped := arg.toNat / 2 ^ 32 = 0xFFFFFFFF ∨ k = 0 ∨ 16 < k ∨
      k ≤ n ∧ mbxKey (arg.toNat / 2 ^ 32) ≤ mbxKey (entry s (k - 1) / 2 ^ 32)
    (dropped → post.1.readAt q 8 = k + n * 2 ^ 8 + min (h / 2 ^ 32 + 1) (2 ^ 32 - 1) * 2 ^ 32 ∧ ∀ j, j < n → entry post.1 j = entry s j) ∧
    (¬ dropped → let l := (mbxPost k ((List.range n).map (entry s)) arg.toNat).1
      post.1.readAt q 8 = k + l.length * 2 ^ 8 + h / 2 ^ 32 * 2 ^ 32 ∧ ∀ j, j < l.length → entry post.1 j = l.getD j 0) ∧
    (n = 0 → read = (s, 0xFFFFFFFF00000000)) ∧
    (n ≠ 0 → read.2 = entry s 0 ∧ read.1.readAt q 8 = k + (n - 1) * 2 ^ 8 + h / 2 ^ 32 * 2 ^ 32 ∧
      ∀ j, j < n - 1 → entry read.1 j = entry s (j + 1)) ∧
    (s.mbxOp q 2 arg).1.readAt q 8 = arg.toNat % 16 + 1 ∧
    ∀ x, x ∉ q.keys 8 → Mem.byte (s.mbxOp q 2 arg).1.mem x = Mem.byte s.mem x) ∧
  (∀ (s : State) (q : Place) (eid len data : Nat) (g : Word),
    let at_ := fun (t : State) (o n : Nat) => t.readAt (q.plus o) n
    let size := at_ s 0 4
    let wr := at_ s 8 4
    let rd := at_ s 12 4
    let used := at_ s 16 4
    let legal := size % 8 = 0 ∧ 64 ≤ size ∧ size ≤ 65472
    let kept := fun (t : State) (l : List Nat) => ∀ x, (∀ o n, (o, n) ∈ [(8, 32)] ∨ (o ∈ l ∧ n = 40) → x ∉ (q.plus o).keys n) →
      Mem.byte t.mem x = Mem.byte s.mem x
    (q.keys (0x40 + min size 65472)).Nodup → (legal → wr < size ∧ wr % 8 = 0 ∧ rd < size ∧ used ≤ size) → 1 ≤ len → len ≤ 32 → eid < 2 ^ 22 →
    (let post := s.cbPost q eid len data
     let need := 8 + (len + 7) / 8 * 8
     let toend := size - wr
     let full := need ≤ size - used → toend < need ∧ size - used - toend < need
     let put := fun (o more : Nat) => post.2 = 0 ∧ at_ post.1 (0x40 + o) 8 = len + eid * 2 ^ 32 ∧ at_ post.1 (0x48 + o) len = data % 256 ^ len ∧
       at_ post.1 8 4 = (o + need) % size ∧ at_ post.1 16 4 = used + more + need ∧ at_ post.1 32 8 = (at_ s 32 8 + 1) % 2 ^ 64 ∧
       at_ post.1 24 8 = at_ s 24 8 ∧ at_ post.1 12 4 = rd ∧ at_ post.1 20 4 = at_ s 20 4
     (¬ legal ∨ full → post.2 = 1 ∧ at_ post.1 24 8 = (at_ s 24 8 + 1) % 2 ^ 64 ∧
       ∀ x, x ∉ (q.plus 24).keys 8 → Mem.byte post.1.mem x = Mem.byte s.mem x) ∧
     (legal → ¬ full → need ≤ toend → put wr 0 ∧ kept post.1 [0x40 + wr]) ∧
     (legal → ¬ full → toend < need → put 0 toend ∧ at_ post.1 (0x40 + wr) 8 = toend - 8 + 2 ^ 16)) ∧
    (let take := s.cbTake q g
     let long := fun (o : Nat) => 8 + (at_ s (0x40 + o) 2 + 7) / 8 * 8
     let next := fun (o : Nat) => (o + long o) % size
     let pad := fun (o : Nat) => at_ s (0x40 + o) 8 / 2 ^ 16 % 2 = 1
     let held := at_ s 20 4 ≠ 0
     let o := if held then next rd else rd
     let left := if held then used - long rd else used
     let ends := fun (v rd' used' taken' : Nat) => take.2 = v ∧ at_ take.1 12 4 = rd' ∧ at_ take.1 16 4 = used' ∧ at_ take.1 20 4 = taken' ∧
       at_ take.1 8 4 = wr ∧ kept take.1 []
     let gives := fun (o left : Nat) => ends (g + 0x40 + BitVec.ofNat 64 o).toNat o left (o + 1)
     (¬ legal → take = (s, 0)) ∧
     (legal → left = 0 → ends 0 o 0 0) ∧ (legal → left ≠ 0 → ¬ pad o → gives o left) ∧
     (legal → left ≠ 0 → pad o → (left - long o = 0 → ends 0 (next o) 0 0) ∧
       (left - long o ≠ 0 → ¬ pad (next o) → gives (next o) (left - long o)))))

/-! ## Engine commands (R340-R346) -/

/-- R177, R179, R341-R343: an engine instruction whose operands pass the checks takes a tag and a command record, and its message leaves
for its engine with the record of its guard, its ranges registered where the table has room; a failed check raises its cause, a reserved
control field the last of them. -/
def Obligations.EngineCommandsAreSent : Prop :=
  ∀ (s : State) (d a b : XReg) (g : BitVec 4) (t : Nat),
    let x := s.rx b
    let words := fun (op : Nat) => [x <<< 8 ||| BitVec.ofNat 64 op, s.rx a, s.arch.getX 16, s.arch.getX 17]
    let msg := fun (kind dest : Nat) (w : List Word) =>
      ({ s.request 0 with dest := dest, ha := BitVec.ofNat 64 (0x7FFFFFFFF1000 + kind * 0x100), guard := g, a0 := w.getD 0 0,
                          a1 := w.getD 1 0, a2 := w.getD 2 0, a3 := w.getD 3 0 } : Msg)
    let own : GuardedCmd := { key := s.fresh + 1, slot := none, path := false, comb := none, verdict := none }
    let note := if g = 0 then [] else match s.arch.getG g with
      | .free => []
      | .tru => []
      | .fls => [{ own with verdict := some false }]
      | _ => [{ own with slot := some g }]
    let sends := fun (i : Instr) (breach : Bool) (m : Msg) =>
      (∀ c, s.cmdCause (s.arch.prv == 0) m.dest breach m = some c → Traps i s c.code c.eval) ∧
      (s.cmdCause (s.arch.prv == 0) m.dest breach m = none → s.cur.ra = none → s.fenced false = false →
        freeTag s.curCore.reqs 1023 = some t → (s.curCore.reqs.filter fun r => r.2.cmd).length < 64 →
        ∃ u, exec i s = .next u ∧ u.arch = s.arch ∧ u.mem = s.mem ∧
          u.flight = s.flight ++ [.engineCommand { m with seq := s.fresh + 1, tag := some t }] ∧
          u.cur.pend = s.cur.pend ++ waitsFor d (s.fresh + 1) ∧ u.cur.gcmds = s.cur.gcmds ++ note ∧
          Map.find (u.core s.eid).reqs t =
            some { dest := m.dest, snum := s.unit.sid % 4, id := s.fresh + 1, cmd := true, depth := s.arch.depth.toNat } ∧
          ((cmdRanges m).length ≤ (freeLocks (s.tile (s.eid / 2)).locks).length → ∀ q ∈ cmdRanges m,
            ∃ l ∈ (u.tile (s.eid / 2)).locks, l.2.first = q.gva ∧ l.2.last = lastByte q.gva q.len ∧ l.2.dst = q.dst ∧
              l.2.key = s.fresh + 1))
    let bad := field x 56 8 != 0
    sends (.copy d a b g) bad (msg 0 s.eid (words 1)) ∧ sends (.gath d a b g) bad (msg 2 s.eid (words 2)) ∧
    sends (.scat d a b g) bad (msg 2 s.eid (words 3)) ∧ sends (.mcast d a b g) bad (msg 0 s.eid (words 4)) ∧
    sends (.sortc d a b g) bad (msg 3 s.eid (words 5)) ∧
    (let w := [16, 17, 18, 19].map s.arch.getX
     let op := field (s.arch.getX 16) 0 3
     sends (.eng d a g) false (msg (if op = 1 ∨ op = 4 then 0 else if op = 5 then 3 else 2) (if a = 0 then s.eid else field (s.rx a) 0 22) w))

/-- R240, R340, R343, R344: a command enters its engine's inbox in order, starts with a tag and a lock on each range, or is discarded by its
guard with status SKIPPED. One that its engine may work on moves its bytes, its flags reach EFLG and its status lands: COPY to an aligned
place, converting or not; the rows of GATH and SCAT; MCAST to the tiles that accept it; the sort and the counts of SORTC. A denied page is
a fault in the status. -/
def Obligations.EngineCommandsRun : Prop :=
  ∀ (s : State) (e : EngRef) (m : Msg) (r : List Msg) (t : Nat),
    let lands := fun (u : State) (v : Nat) => ∀ tag q, m.tag = some tag → Map.find (s.core m.src).reqs tag = some q → q.id = m.seq →
      q.snum < 4 →
      (u.strand (4 * m.src + q.snum)).pend = fillPend (s.core m.src).cycle q.id (fun _ => BitVec.ofNat 4096 v)
        (s.strand (4 * m.src + q.snum)).pend ∧ Map.find (u.core m.src).reqs tag = none
    let ends := fun (mem : List Host.Cell) (v : Nat) (fl : Fl) => ∃ u, exec (.engineCompletion e t) s = .next u ∧ u.mem = mem ∧
      Map.find (u.engine e).running t = none ∧ (∀ l ∈ (u.tile (m.src / 2)).locks, l.2.key ≠ m.seq) ∧
      (u.cluster (engCluster e)).eflg = (s.cluster (engCluster e)).eflg ||| fl ∧ lands u v
    let at_ := s.window (engCluster e) m
    let locks := (s.tile (m.src / 2)).locks
    (∀ k, e ≠ .matrix k) →
    (s.accepts m false → engOf (field m.ha 8 4) m.dest = some e → (s.engine e).inbox.length < 16 →
      ∃ u, exec (.engineCommand m) s = .next u ∧ u.engine e = { s.engine e with inbox := (s.engine e).inbox ++ [m] } ∧
        Ev.engineCommandStart e ∈ u.flight ∧ u.mem = s.mem ∧ u.strands = s.strands) ∧
    ((s.engine e).inbox = m :: r →
      ((s.strand (4 * m.src + m.ssn)).verdict m.seq = some true → engFree (s.engine e) (engTags e) = some t →
        let starts := fun (u : State) => exec (.engineCommandStart e) s = .next u ∧ u.mem = s.mem ∧ Ev.engineCompletion e t ∈ u.flight ∧
          u.engine e = { s.engine e with inbox := r, running := Map.put (s.engine e).running t m }
        ((∀ l ∈ locks, l.2.key ≠ m.seq) → (cmdRanges m).length ≤ (freeLocks locks).length →
          ∃ u, starts u ∧ (∀ q ∈ cmdRanges m, ∃ l ∈ (u.tile (m.src / 2)).locks,
            l.2 = { first := q.gva, last := lastByte q.gva q.len, dst := q.dst, kind := engKind e, tag := t, eid := m.src, key := m.seq })) ∧
        ((∃ l ∈ locks, l.2.key = m.seq) → cmdRanges m ≠ [] →
          ∃ u, starts u ∧ (u.tile (m.src / 2)).locks = locks.map fun l => (l.1, if l.2.key = m.seq then { l.2 with tag := t } else l.2))) ∧
      ((s.strand (4 * m.src + m.ssn)).verdict m.seq = some false →
        ∃ u, exec (.engineCommandStart e) s = .next u ∧ u.mem = s.mem ∧ u.engine e = { s.engine e with inbox := r } ∧ lands u 1)) ∧
    (Map.find (s.engine e).running t = some m → Map.find (s.engine e).prog t = none → s.msgOwes m = false →
      s.locksBusy (m.src / 2) m.seq = false → s.engHeld e = false →
      s.genTable (engDie e) (engAgent e) = s.ownGen (engDie e) (engAgent e) →
      (cmdOp m = 1 → copyLen m = 0 → ends s.mem 0 0) ∧
      (cmdOp m = 1 → copyConv m = false →
        (∀ p q, m.a1.toNat % 8 = 0 → at_ m.a2 (copyLen m) p → at_ m.a1 (copyLen m) q →
          ends (Mem.write s.mem (q.keys (copyLen m)) (Mem.read s.mem (p.keys (copyLen m)))) 0 0) ∧
        (0 < copyLen m → field m.a2 0 7 + copyLen m ≤ 128 → s.heldAt (engCluster e) m.asid m.a2 = false →
          s.resolve (engCluster e) m.asid m.wld false m.a2 = (s, none, .denied) →
          ends s.mem (2 + 8 * 2 ^ 16 + field m.a2 0 32 * 2 ^ 32) 0)) ∧
      (cmdOp m = 1 → copyConv m = true → ∀ p q, m.a1.toNat % 8 = 0 → at_ m.a2 (copyLen m) p → at_ m.a1 (copyOut m) q →
        let sw := etBits (copySf m)
        let dw := etBits (copyDf m)
        copyLen m * 8 % sw = 0 →
        let rs := (List.range (copyElems m)).map fun j =>
          vconv (copySf m) (copyDf m) .rne (Mem.read s.mem (p.keys (copyLen m)) / 2 ^ (sw * j) % 2 ^ sw)
        let fl := rs.foldl (fun f r => f ||| r.2) 0
        let new := (rs.zip (List.range (copyElems m))).foldl (fun v r => v + r.1.1 % 2 ^ dw * 2 ^ (dw * r.2)) 0
        let beyond := Mem.read s.mem (q.keys (copyOut m)) / 2 ^ (dw * copyElems m)
        ends (Mem.write s.mem (q.keys (copyOut m)) (new + beyond * 2 ^ (dw * copyElems m))) (statusWord 0 0 0 fl) fl) ∧
      (∀ (i row far : Nat → Place),
        let n := rowLen m
        let idx := fun (k : Nat) => Mem.read s.mem ((i k).keys 4)
        let apart := fun (q : Nat → Place) (k : Nat) => ∀ j, j < rowsN m → ∀ a ∈ (q k).keys n, a ∉ (i j).keys 4
        (∀ k, k < rowsN m → at_ (m.a2 + BitVec.ofNat 64 (4 * k)) 4 (i k) ∧ at_ (m.a1 + BitVec.ofNat 64 (k * n)) n (row k) ∧
          (idx k ≠ 0xFFFFFFFF → s.farAllowed (engCluster e) m (m.a3 + BitVec.ofNat 64 (idx k * n)) = true ∧
            at_ (m.a3 + BitVec.ofNat 64 (idx k * n)) n (far k))) →
        (cmdOp m = 2 → (∀ k, k < rowsN m → apart row k) →
          ends ((List.range (rowsN m)).foldl (fun l k => Mem.write l ((row k).keys n)
            (if idx k = 0xFFFFFFFF then 0 else Mem.read l ((far k).keys n))) s.mem) 0 0) ∧
        (cmdOp m = 3 → (∀ k, k < rowsN m → idx k ≠ 0xFFFFFFFF → apart far k) →
          ends ((List.range (rowsN m)).foldl (fun l k => if idx k = 0xFFFFFFFF then l
            else Mem.write l ((far k).keys n) (Mem.read l ((row k).keys n))) s.mem) 0 0)) ∧
      (cmdOp m = 4 →
        let tiles := maskTiles m.a1
        let takes := s.tileAccepts m (mcastCluster m)
        let off := field m.a1 0 20
        let n := cmdC m 0 20
        let bad := ((tiles.filter fun k => !takes k).map fun k => 2 ^ k).sum
        (n = 0 → ends s.mem 0 0) ∧
        (∀ p (q : Nat → Place), off % 8 = 0 → at_ m.a2 n p →
          (∀ k ∈ tiles, takes k = true → at_ (windowGva (mcastCluster m) k off) n (q k)) →
          ends ((tiles.filter takes).foldl (fun l k => Mem.write l ((q k).keys n) (Mem.read s.mem (p.keys n))) s.mem)
            (if bad = 0 then 0 else statusWord 2 0x0B bad 0) 0)) ∧
      (cmdOp m = 5 →
        let n := rowsN m
        (n = 0 → ends s.mem 0 0) ∧
        (∀ p q r, at_ m.a1 (2 * n) p →
          let key := fun (i : Nat) => Mem.read s.mem (p.keys (2 * n)) / 2 ^ (16 * i) % 2 ^ 16
          let placed := (List.range n).filter fun i => key i < sortK m
          let words := fun (l : List Nat) => l.foldr (fun w v => w + 2 ^ 32 * v) 0
          let cnt := (List.range (sortK m)).map fun c => ((List.range n).filter fun i => key i = c).length
          let below := (List.range (sortK m)).map fun c => ((List.range n).filter fun i => key i < c).length
          placed = [] ∨ at_ m.a2 (4 * placed.length) q → at_ m.a3 (8 * sortK m) r →
          ∃ order : List Nat, order.Perm placed ∧ order.Pairwise (fun i j => key i < key j ∨ key i = key j ∧ i < j) ∧
            ends (Mem.write (Mem.write s.mem (q.keys (4 * placed.length)) (words order)) (r.keys (8 * sortK m)) (words (cnt ++ below)))
              (statusWord 0 0 (n - placed.length) 0) 0)))

/-! ## The matrix engine (R270-R298) -/

/-- R275, R276, R283, R286, R288, R290-R292: on the compute core of a tile, a matrix instruction within its limits takes the lowest free tag,
sends its command, and writes the tag with its new generation; the other core raises ACCESS, as a region outside memory does, a broken
limit ENGINE_FAULT. MWAIT waits while its tag is in use with that generation, unless another strand is to take its fault, and on a tag of
its own that was discarded behind a fault of its strand (R279); it is done otherwise. -/
def Obligations.MatrixCommandsAreSent : Prop :=
  ∀ (s : State) (d a b : XReg) (g : BitVec 4) (i : Nat),
    let tile := s.eid / 2
    let x := s.rx a
    let y := s.rx b
    let m := s.matrix tile
    let sends := fun (c : Instr) (op : MOp) =>
      ∃ u, exec c s = .next u ∧ u.arch = s.arch ∧ u.mem = s.mem ∧
        u.flight = s.flight ++ [.engineCommand
          { s.request 0 with ha := 0x7FFFFFFFF1100, guard := g, opc := BitVec.ofNat 16 (mopCode op), a0 := x, a1 := y,
                             a2 := BitVec.ofNat 64 i, seq := s.fresh + 1 }] ∧
        u.cur.pend = s.cur.pend ++ landsAt d (BitVec.ofNat 64 (((m.tag i).gen + 1).toNat * 64 + i)) (s.unit.now + 1) ∧
        (u.matrix tile).tag i = { gen := (m.tag i).gen + 1, used := true, snum := s.unit.sid % 4, seq := s.fresh + 1,
                                  depth := s.arch.depth.toNat, fault := none }
    let command := fun (c : Instr) (op : MOp) (al : Nat) (place limits : Prop) =>
      (s.eid % 2 = 0 → Traps c s cAccess (BitVec.ofNat 64 s.eid)) ∧
      (s.eid % 2 = 1 → ¬ place → Traps c s cAccess x) ∧
      (s.eid % 2 = 1 → place → x.toNat % al ≠ 0 → Traps c s cAlignment x) ∧
      (s.eid % 2 = 1 → place → x.toNat % al = 0 →
        (¬ limits → Traps c s cEngineFault 1) ∧
        (limits → s.cur.ra = none → i < 64 → (m.tag i).used = false → (∀ j, j < i → (m.tag j).used = true) →
          s.matrixQueued tile < 16 → s.fenced false = false → sends c op))
    let inMem := fun (g : Word) => s.barred (s.eid / 4096) (gvaDie g) = false ∧ isDevice g = false
    let mem := fun (op : MOp) => inMem x ∧
      ∀ q ∈ mcmdRanges { op := op, xa := x, xb := y, tag := 0, msg := s.request 0 }, inMem (lastByte q.gva q.len)
    let af := field y 3 4
    let format := af ≤ 6 ∨ af = 12 ∨ af = 13
    let row := if af = 0 then 8 else 16
    command (.mwl d a b g) .mwl 1 True (field x 39 25 = 0 ∧ field x 32 4 ≤ 6 ∧ y = 0) ∧
    command (.mwls d a b g) .mwls 1 True (field x 39 25 = 0 ∧ (field x 32 4 = 4 ∨ field x 32 4 = 5) ∧ y = 0) ∧
    command (.mma d a b g) .mma 16 (mem .mma) (field y 52 12 = 0 ∧ y.getLsbD 7 = false ∧ format ∧ row ≤ field y 20 12 ∧
      (if af = 0 ∨ af = 12 ∨ af = 13 then field y 32 20 = 0
       else field y 32 20 % 4 = 0 ∧ field y 32 20 + 4 * field y 8 12 ≤ 0x100000)) ∧
    command (.mgrp d a b g) .mgrp 8 (mem .mgrp) (field y 24 40 = 0 ∧ y.getLsbD 7 = false ∧ field y 11 4 ≤ 6 ∧ format ∧
      permitted (field y 11 4) (y.getLsbD 15) af = true) ∧
    command (.macz d a b g) .macz 16 (mem .macz) (field y 32 32 = 0 ∧ field y 1 7 = 0 ∧ (if y.getLsbD 0 then 8 else 16) ≤ field y 20 12) ∧
    command (.mdrain d a b g) .mdrain 16 (mem .mdrain) (af ≤ 6 ∧ row ≤ field y 20 12) ∧
    (let k := m.tag (field x 0 6)
     let mine := s.eid % 2 = 1 ∧ k.snum = s.unit.sid % 4
     let waits := s.sameJob s.eid (2 * tile + 1) = true ∧ k.gen.toNat = field x 6 16 ∧
       (k.used = true ∧ (k.fault = none ∨ mine) ∨
         mine ∧ field x 0 6 ∈ m.gone ∧ ∃ q ∈ m.behind, (m.tag q.1).snum = s.unit.sid % 4)
     (¬ waits → exec (.mwait a) s = .next s) ∧
     (waits → ∃ u, exec (.mwait a) s = .next u ∧ u.cur.st = .blocked ∧ u.cur.wait = .engine ∧ u.arch = { s.arch with pc := s.unit.pc } ∧
       u.mem = s.mem))

/-- R273, R277-R279, R283, R287, R290, R291, R293, R297: one step of the command at work: the head slot of its ring becomes the panel, a row
enters the array, its products are added into its accumulators, MACZ zeroes a row and MDRAIN converts one into its slot; a tag completes or
faults, and its strand takes the fault. -/
def Obligations.MatrixEngineSteps : Prop :=
  ∀ (s : State) (tile : Nat) (r : MRun),
    let m := s.matrix tile
    let c := r.cmd
    let g := r.group
    let ring := s.ring tile (field c.xb 0 3)
    let af := field c.xb 3 4
    let faults := fun (t : State) (sub detail : Nat) => (t.matrix tile).runs = [] ∧
      ((t.matrix tile).tag c.tag).fault = some (BitVec.ofNat 64 (sub + c.tag * 2 ^ 16 + detail % 2 ^ 32 * 2 ^ 32)) ∧ t.mem = s.mem
    let next := fun (t : State) (step : Ev) => (∃ k, (t.matrix tile).runs = [k] ∧ k.row = none ∧ k.m = r.m + 1 ∧ k.cmd = c) ∧
      (if r.m + 1 < g.m then step else Ev.matrixTagComplete tile c.tag) ∈ t.flight
    let a := g.c + BitVec.ofNat 64 (16 * g.cp * r.m)
    let reaches := fun (l : List Place) => (∀ p ∈ l, p.tileNo = some tile) ∨
      s.genTable (tile / 256) (0x300 + tile % 256) = s.ownGen (tile / 256) (0x300 + tile % 256)
    m.runs = [r] → m.inbox = [] → c.tag < 64 → (∀ p ∈ r.pages, ∀ h, p.page = some h → h.home = none) →
    (r.begun = true → r.done = false →
      (let n := loadRing c
       let q := s.ring tile n
       let at_ := tileSram tile (q.slot q.head)
       n < 8 → c.op = .mwl ∨ c.op = .mwls → r.latched = false → q.used ≠ 0 → s.enginePays tile (panelTokens (loadWf c) (loadSp c)) →
        (s.poisoned at_ (panelBytes (loadWf c) (loadSp c)) = true → ∃ t, exec (.matrixPanelLatch tile) s = .next t ∧ faults t 0x10 0) ∧
        (s.poisoned at_ (panelBytes (loadWf c) (loadSp c)) = false →
          let panel := Mem.read s.mem (at_.keys (panelBytes (loadWf c) (loadSp c)))
          (∀ k, c.op = .mwls → badGroup panel = some k → ∃ t, exec (.matrixPanelLatch tile) s = .next t ∧ faults t 0x03 k) ∧
          (c.op = .mwl ∨ badGroup panel = none → ∃ t, exec (.matrixPanelLatch tile) s = .next t ∧ (t.matrix tile).panel = panel ∧
            (t.matrix tile).palette = palette (field c.xa 0 32) n (loadWf c) (loadSp c) ∧ t.mem = s.mem ∧
            (t.ring tile n).head = q.head + 1 ∧ Ev.matrixTagComplete tile c.tag ∈ t.flight))) ∧
      (c.op = .mma → r.row = none → r.m < g.m → ring.used ≠ 0 → s.enginePays tile (rowTokens (palWf r.pal) (palSp r.pal)) →
        let per := ring.bytes / max 1 (actBytes af)
        let at_ := tileSram tile (ring.slot ring.head + r.m % per * actBytes af)
        let sc := tileSram tile (g.sco + 4 * (r.kb * g.m + r.m))
        let bytes := Mem.read s.mem (at_.keys (actBytes af))
        let scale := if af = 12 ∨ af = 13 then bqScale af bytes else if af = 0 then some .none else some (.f32 (Mem.read s.mem (sc.keys 4)))
        s.poisoned at_ (actBytes af) = false → (hasScales af = true → s.poisoned sc 4 = false) →
        (scale = none → ∃ t, exec (.matrixRowEntry tile) s = .next t ∧ faults t 0x05 r.m) ∧
        (∀ x, scale = some x → ∃ t, exec (.matrixRowEntry tile) s = .next t ∧ t.mem = s.mem ∧ Ev.matrixRowAccumulate tile ∈ t.flight ∧
          (t.matrix tile).runs = [{ r with row := some { m := r.m, bytes := bytes, scale := x,
                                                         pop := r.m % per == per - 1 || r.m + 1 == g.m } }])) ∧
      (r.m < g.m →
        let n := if c.op = .macz then (if c.xb.getLsbD 0 then 128 else 256) else if af = 0 then 128 else 256
        let parts := r.parts a n
        let zeroed := fun (mem : List Host.Cell) => parts.foldl (fun l p => Mem.write l (p.keys 16) 0) mem
        r.row = none → reaches parts →
        (c.op = .macz → r.paid = true ∨ s.enginePays tile ((g.m * n + 1023) / 1024) →
          ∃ t, exec (.drainRow tile) s = .next t ∧ next t (.drainRow tile) ∧ t.mem = zeroed s.mem) ∧
        (let per := ring.bytes / max 1 (outBytes af)
         let out := Mem.write s.mem ((tileSram tile (ring.slot ring.tail + r.m % per * outBytes af)).keys (outBytes af))
           (drainElems af (field c.xb 32 32) (s.readParts parts)).1
         c.op = .mdrain → r.m % per ≠ 0 ∨ ring.used < ring.slots → s.enginePays tile 1 → s.partsPoisoned parts = false →
          ∃ t, exec (.drainRow tile) s = .next t ∧ next t (.drainRow tile) ∧
            t.mem = if c.xb.getLsbD 7 then zeroed out else out))) ∧
    (∀ (row : MRow) (at_ : Nat → Place), c.op = .mma → r.row = some row → row.m = r.m → reaches (r.parts a (accBytes (palWf r.pal == 0))) →
      let b := if palWf r.pal = 0 then 8 else 4
      let new := fun (n old : Nat) =>
        accumulate (palWf r.pal) af (palSp r.pal) r.panel row.bytes n (field r.pal 32 32) row.scale old
      (∀ n, n < panelN (palWf r.pal) → r.placeAt (a + BitVec.ofNat 64 (b * n)) = some (at_ n) ∧ s.poisoned (at_ n) b = false) →
      ∃ t, exec (.matrixRowAccumulate tile) s = .next t ∧ next t (.matrixRowEntry tile) ∧
        t.mem = (List.range (panelN (palWf r.pal))).foldl (fun mem n => Mem.write mem ((at_ n).keys b)
          (new n (Mem.read mem ((at_ n).keys b))).1) s.mem) ∧
    (r.done = true → ∃ t, exec (.matrixTagComplete tile c.tag) s = .next t ∧ t.mem = s.mem ∧ (t.matrix tile).runs = [] ∧
      ((t.matrix tile).tag c.tag).used = false ∧ (t.cluster (tile / 16)).eflg = (s.cluster (tile / 16)).eflg ||| r.flags ∧
      ((s.strand (4 * c.msg.src + c.msg.ssn)).st ≠ .blocked → (t.strand (4 * c.msg.src + c.msg.ssn)).arch.ev = true)) ∧
    (∀ job k, s.jobOf (2 * tile + 1) = some job → job.preempt = true → s.jobStill job = true →
      (m.loader = some r ∧ s.ringWait tile r true = some k) ∨
        (m.loader = none ∧ c.op ≠ .mwl ∧ c.op ≠ .mwls ∧ s.ringWait tile r false = some k) →
      ∃ t, exec (.ringStallStop tile) s = .next t ∧ faults t 0x09 k ∧
        Ev.engineFaultTaken (4 * c.msg.src + c.msg.ssn) ∈ t.flight) ∧
    (∀ sid k, sid / 8 = tile → m.behind = [(c.tag, k)] → (m.tag c.tag).snum = sid % 4 → (s.strand sid).wait ≠ .engine →
      (∀ q ∈ (s.strand sid).posted, q.acc ≠ c.tag + 1) →
      exec (.engineFaultTaken sid) s = .next (s.modStrand sid fun k => { k with posted := k.posted ++
        [{ code := 0x0C, eval := (m.tag c.tag).fault.getD 0, epc := none, acc := c.tag + 1 }] }))

/-! ## Collectives, barriers and guards (R170-R201) -/

/-- R174, R177, R178, R180-R187: a collective unit at depth 0 of a worker at U opens its collective: CSEQ advances and the contribution leaves;
CVOTE and CMEM await their result in xd, CBR runs ahead on the way predicted, GBAR waits once everything earlier is performed, CBAR waits for
its crew. Anywhere else the six are illegal. GALLOC, GSET and GRES give a slot its state. -/
def Obligations.CollectivesAreOpened : Prop :=
  ∀ (s : State) (d a : XReg) (g : GReg) (tag : BitVec 4) (off : BitVec 9),
    let q := s.arch.cseq + 1
    let p := s.rx a != 0
    let contribution := fun (k : CollKind) (tag : BitVec 4) (p : Bool) =>
      Ev.collectiveContribution (s.jobNo s.eid) s.arch.mbidx.toNat (lanesOf k tag q p)
    let opened := fun (k : CollKind) (tag : BitVec 4) (id : Nat) =>
      some ({ kind := k, tag := tag, pc := s.unit.pc, seq := q, id := id, sent := true, outcome := none } : OpenColl)
    let votes := fun (i : Instr) (k : CollKind) (tag : BitVec 4) =>
      ∃ u, exec i s = .next u ∧ u.arch = { s.arch with cseq := q } ∧ u.mem = s.mem ∧ u.cur.coll = opened k tag (s.fresh + 1) ∧
        u.flight = s.flight ++ [contribution k tag p] ∧ u.cur.pend = s.cur.pend ++ waitsFor d (s.fresh + 1)
    (s.mayOpen →
      votes (.cvoteAnd d a tag) .cvoteAnd tag ∧ votes (.cvoteOr d a tag) .cvoteOr tag ∧ votes (.cmem d a) .cmem 0 ∧
      (s.cur.sent = false → ∃ u c, exec (.cbr a g tag off) s = .next u ∧ u.mem = s.mem ∧ u.cur.coll = opened .cbr tag 0 ∧
        u.flight = s.flight ++ [contribution .cbr tag p] ∧ u.cur.ra = some c ∧ u.cur.pend = s.cur.pend ∧
        c.arch = { s.arch.setG g .coll with cseq := q } ∧ c.pend = s.cur.pend ∧ c.slot = g ∧ c.taken = s.target off ∧ c.fall = s.unit.next ∧
        u.arch = { c.arch with status := putBit s.arch.status 9 true, pc := if c.dir then s.target off else s.arch.pc } ∧
        u.unit.status = (if c.dir then .jumped else s.unit.status)) ∧
      (s.cur.granted = false → s.owes s.unit.sid = false →
        (∃ u, exec .gbar s = .next u ∧ u.mem = s.mem ∧ u.cur.coll = opened .gbar 0 0 ∧ u.cur.wait = .outcome ∧
          u.flight = s.flight ++ [contribution .gbar 0 false] ∧ u.arch = { s.arch with cseq := q, pc := s.unit.pc }) ∧
        (s.cur.inCbar = false → ∃ u, exec .cbar s = .next u ∧ u.mem = s.mem ∧ u.cur.inCbar = true ∧ u.cur.cbarN = s.cur.cbarN + 1 ∧
          u.cur.wait = .outcome ∧ Ev.cbarComplete (s.jobNo s.eid) (s.eid / 32) ∈ u.flight ∧ u.arch = { s.arch with pc := s.unit.pc })) ∧
      (s.cur.granted = true → exec .gbar s = .next (s.modCur fun k => { k with granted := false }) ∧
        exec .cbar s = .next (s.modCur fun k => { k with granted := false }))) ∧
    (s.arch.depth ≠ 0 ∨ s.cur.worker = false ∨ s.arch.prv ≠ 0 →
      Traps (.cvoteAnd d a tag) s cIllegal 0x10001 ∧ Traps (.cvoteOr d a tag) s cIllegal 0x10001 ∧ Traps (.cmem d a) s cIllegal 0x10001 ∧
      Traps (.cbr a g tag off) s cIllegal 0x10001 ∧ Traps .gbar s cIllegal 0x10001 ∧ Traps .cbar s cIllegal 0x10001) ∧
    (s.arch.ahead = false → s.arch.getG g ≠ .coll → (∀ k, s.arch.getG g ≠ .comb k) →
      let sets := fun (i : Instr) (v : Guard) (l : List GuardedCmd) =>
        ∃ u, exec i s = .next u ∧ u.arch = s.arch.setG g v ∧ u.mem = s.mem ∧ u.cur.pend = s.cur.pend ∧ u.cur.gcmds = l
      let told := fun (v : Bool) => if s.arch.getG g = .soft then s.cur.gcmds.map (GuardedCmd.onSlot g v) else s.cur.gcmds
      sets (.galloc g) .soft s.cur.gcmds ∧ sets (.gset g a) (if p then .tru else .fls) (told p) ∧ sets (.gres g) .free (told false))

/-- R172-R174, R186, R195, R196, R198, R199: contributions meet at their die, the dies' lanes at their package, and the packages' lanes on
their plane, where the gang has several; every member that has not departed receives the result, which is the AND and the OR over all of
them, and a GBAR's first swaps the Catalogue entries that are marked (R395). A vote lands, a CBR's strand goes on or returns to the path not
taken, a mismatch is posted, on a strand that ran ahead after it has returned; crews are released, members depart. -/
def Obligations.CollectiveSteps : Prop :=
  ∀ (s : State) (j member die cluster sid : Nat) (b : Job) (l : Lanes) (c : OpenColl) (val : Word),
    let put := { b with coll := { b.coll with got := Map.put b.coll.got member l } }
    let sent := { b with coll := { b.coll with dies := Map.put b.coll.dies die (b.dieLanes die) } }
    (((b.dieLanes die).pAnd = true ↔ ∀ m ∈ b.onDie die, ∀ x, Map.find b.coll.got m = some x → x.pAnd = true) ∧
      ((b.dieLanes die).pOr = true ↔ ∃ m ∈ b.onDie die, ∃ x, Map.find b.coll.got m = some x ∧ x.pOr = true) ∧
      ((b.dieLanes die).dOr = true ↔ ∃ m ∈ b.onDie die, ∀ x, Map.find b.coll.got m = some x → x.dOr = true)) ∧
    ((b.gangLanes.pAnd = true ↔ ∀ p ∈ b.pkgs, (b.pkgLanes p).pAnd = true) ∧ (b.gangLanes.pOr = true ↔ ∃ p ∈ b.pkgs, (b.pkgLanes p).pOr = true) ∧
      (b.gangLanes.dOr = true ↔ ∃ p ∈ b.pkgs, (b.pkgLanes p).dOr = true)) ∧
    (let resolved := fun (w : Job) (t : State) => ∃ k, t.job j = some k ∧ k.coll = { got := [], dies := [] } ∧
       ∀ m ∈ w.members, m ∉ w.departed → Map.find k.results m = some w.gangLanes ∧ Ev.collectiveOutcome (w.sidOf m) ∈ t.flight
     let ends := fun (i : Instr) (w : Job) =>
       let gbar := lanesClash w.gangLanes = false ∧ w.gangLanes.siteAnd = 0x40
       let d := w.cores.headD 0 / 512
       let a := s.catg d w.asid
       (¬ gbar ∨ a = 0 → ∃ t, exec i s = .next t ∧ t.mem = s.mem ∧ resolved w t) ∧
       (∀ sw : Place, gbar → a ≠ 0 →
         (∀ n, n < 0x240 → s.areaPlace w.asid (a + 0x8000 + BitVec.ofNat 64 n) = some (sw.plus n) ∧
           ∃ e, (s.die (gvaDie (a + 0x8000 + BitVec.ofNat 64 n))).tlb.find? (fun e => e.hits w.asid (gvaOff (a + 0x8000 + BitVec.ofNat 64 n))) =
             some e ∧
             e.leaf.getLsbD 8 = false) →
         (sw.keys 0x240).Nodup →
         let marked := fun (e : Nat) => Mem.read s.mem (sw.keys 32) / 2 ^ e % 2
         let ver := fun (m : List Host.Cell) (e : Nat) => Mem.read m ((sw.plus (0x40 + 2 * e)).keys 2)
         ∃ t, exec i s = .next t ∧ resolved w t ∧ Mem.read t.mem (sw.keys 32) = 0 ∧
           (∀ e, e < 256 → ver t.mem e = (ver s.mem e + marked e) % 65536) ∧
           (∀ f ∈ w.cores.map (· / 512), ∀ c ∈ (t.die f).cat, c.asid = w.asid → marked c.e = 0) ∧
           (∀ k, k ∉ sw.keys 32 → k ∉ (sw.plus 0x40).keys 512 → Mem.byte t.mem k = Mem.byte s.mem k))
     s.job j = some b →
      (∃ t, exec (.collectiveContribution j member l) s = .next t ∧ t.job j = some put ∧ t.mem = s.mem ∧ t.strands = s.strands ∧
        (put.dieReady (b.sidOf member / 2048) = true → Map.find b.coll.dies (b.sidOf member / 2048) = none →
          Ev.dieLanes j (b.sidOf member / 2048) ∈ t.flight)) ∧
      (b.coll.isOpen = true → b.dieReady die = true → 2 ≤ b.pkgs.length →
        ∃ t, exec (.dieLanes j die) s = .next t ∧ t.job j = some sent ∧ t.mem = s.mem ∧ t.strands = s.strands ∧
          (sent.pkgs.all sent.pkgReady = true → Ev.planeReduction j ∈ t.flight)) ∧
      (∀ p, b.coll.isOpen = true → b.dieReady die = true → b.pkgs = [p] → sent.pkgReady p = true → ends (.dieLanes j die) sent) ∧
      ((2 ≤ b.pkgs.length → ∀ p ∈ b.pkgs, s.gangPlane b ∉ (s.pkg p).down) → b.coll.isOpen = true → b.pkgs.all b.pkgReady = true →
        ends (.planeReduction j) b) ∧
      (∀ n, s.crewCount b cluster = some n → ∃ t, exec (.cbarComplete j cluster) s = .next t ∧ t.mem = s.mem ∧
        ∀ m ∈ b.crew cluster, (s.strand (b.sidOf m)).inCbar = true → (s.strand (b.sidOf m)).cbarN ≤ n →
          (t.strand (b.sidOf m)).inCbar = false ∧ (t.strand (b.sidOf m)).granted = true ∧
          ((s.strand (b.sidOf m)).st = .active → (t.strand (b.sidOf m)).wait ≠ .outcome))) ∧
    (let k := s.strand sid
     s.jobOf (sid / 4) = some b → k.coll = some c → Map.find b.results k.arch.mbidx.toNat = some l →
      let done := fun (t : State) => exec (.collectiveOutcome sid) s = .next t ∧ (t.strand sid).coll = none ∧ t.mem = s.mem
      (lanesClash l = false → k.ra = none →
        (∀ v : Nat, (c.kind, v) ∈ [(.cvoteAnd, if l.pAnd then 1 else 0), (.cvoteOr, if l.pOr then 1 else 0),
            (.cmem, c.seq.toNat * 2 ^ 16 + (if l.dOr then 4 else 0) + (if l.pOr then 2 else 0) + (if l.pAnd then 1 else 0))] →
          ∃ t, done t ∧ (t.strand sid).pend = fillPend (s.core (sid / 4)).cycle c.id (fun _ => BitVec.ofNat 4096 v) k.pend) ∧
        (c.kind = .gbar → ∃ t, done t ∧ (t.strand sid).granted = true ∧ (t.strand sid).pend = k.pend)) ∧
      (lanesClash l = true → k.ra = none → ∃ t, done t ∧ (t.strand sid).pend = dropPend c.id k.pend ∧
        (t.strand sid).posted = k.posted ++ [{ code := 0x0D, eval := c.seq.zeroExtend 64, epc := some c.pc, acc := 0 }]) ∧
      (∀ r, lanesClash l = true → k.ra = some r → ∃ t, done t ∧ (t.strand sid).ra = none ∧ (t.strand sid).pend = r.pend ∧
        (t.strand sid).hold = (k.hold.filter fun h => h.sure) ∧ (t.strand sid).arch.x = r.arch.x ∧ (t.strand sid).arch.v = r.arch.v ∧
        (t.strand sid).arch.m = r.arch.m ∧ (t.strand sid).arch.pc = c.pc ∧ (t.strand sid).arch.getG r.slot = .fls ∧
        (t.strand sid).posted = (k.posted.filter fun p => p.acc ≤ r.mark) ++
          [{ code := 0x0D, eval := c.seq.zeroExtend 64, epc := some c.pc, acc := 0 }]) ∧
      (∀ r, lanesClash l = false → c.kind = .cbr → k.ra = some r →
        (l.pOr = r.dir → ∃ t, done t ∧ (t.strand sid).ra = none ∧ (t.strand sid).hold = (k.hold.map fun h => { h with sure := true }) ∧
          (t.strand sid).pend = k.pend ∧
          (k.hold ≠ [] → Ev.heldStoreDrain sid ∈ t.flight) ∧ (t.strand sid).arch.x = k.arch.x ∧ (t.strand sid).arch.pc = k.arch.pc ∧
          (t.strand sid).arch.ahead = false ∧ (t.strand sid).arch.getG r.slot = if l.pOr then .tru else .fls) ∧
        (l.pOr ≠ r.dir → ∃ t, done t ∧ (t.strand sid).ra = none ∧ (t.strand sid).hold = (k.hold.filter fun h => h.sure) ∧
          (t.strand sid).pend = r.pend ∧
          (t.strand sid).arch.x = r.arch.x ∧ (t.strand sid).arch.v = r.arch.v ∧ (t.strand sid).arch.m = r.arch.m ∧
          (l.pOr = true → (t.strand sid).arch.pc = r.taken) ∧
          (l.pOr = false → (t.strand sid).arch.pc = (loopEnd r.fall { r.arch with pc := r.fall }).pc) ∧
          (t.strand sid).arch.getG r.slot = if l.pOr then .tru else .fls))) ∧
    (∀ h r, (s.strand sid).hold = h :: r → h.sure = true → s.missFree sid 1 = true →
      h.mask = 0xFF → h.nib = none → s.linesOf (sid / 4) h.asid [{ gva := h.gva, len := 8, nib := none }] = 1 →
      ∃ t, exec (.heldStoreDrain sid) s = .next t ∧ (t.strand sid).hold = r ∧ t.mem = s.mem ∧
        Ev.accessPerformed (sid / 4) (s.fresh + 1) ∈ t.flight ∧ (t.core (sid / 4)).accs = (s.core (sid / 4)).accs ++
          [{ id := s.fresh + 1, snum := sid % 4, op := .store (h.data.toNat % 256 ^ 8), pieces := [{ gva := h.gva, len := 8, nib := none }],
             asid := h.asid, wld := h.wld, user := (s.strand sid).arch.prv == 0, acq := false, rel := h.rel, strong := false, lines := 1,
             held := false, overlay := [], bad := none, inv := false, drops := [] }]) ∧
    (let eid := field val 0 22
     let worker := 4 * eid + field val 22 2
     ((s.cluster cluster).mdepBusy = false → eid / 32 = cluster → (s.strand worker).worker = true →
      ∃ t, exec (.mdepWrite cluster val) s = .next t ∧ (t.strand worker).st = .off ∧ (t.cluster cluster).mdepBusy = true ∧
        (t.cluster cluster).mdep = val.setWidth 24 ∧ Ev.departureApplied cluster ∈ t.flight ∧ t.mem = s.mem) ∧
     ((s.cluster cluster).mdepBusy = true ∨ eid / 32 ≠ cluster ∨ (s.strand worker).worker = false →
      exec (.mdepWrite cluster val) s = .next s)) ∧
    ((s.cluster cluster).mdepBusy = true →
      let eid := field (s.cluster cluster).mdep 0 22
      let m := (s.strand (4 * eid + field (s.cluster cluster).mdep 22 2)).arch.mbidx.toNat
      (s.contributing (s.jobNo eid) m = true → ∃ t, exec (.departureApplied cluster) s = .next t ∧
        (t.cluster cluster).mdepBusy = true ∧ t.jobs = s.jobs) ∧
      (s.contributing (s.jobNo eid) m = false → s.job (s.jobNo eid) = some b →
        ∃ t k, exec (.departureApplied cluster) s = .next t ∧ (t.cluster cluster).mdepBusy = false ∧
          t.job (s.jobNo eid) = some k ∧ m ∈ k.departed))

/-! ## The Catalogue, coherence objects, queries and LAUNCH (R385-R401, R362) -/

/-- R387-R393: an element of a valid entry whose indices are in bounds is located by its record; SLD loads it, SST stores it, SLDV loads a tile of
them element by element, and SHLOC writes its address; the first index out of bounds, an invalid entry or an absent Catalogue raises
SHARD_RANGE. -/
def Obligations.CatalogueElementsAreLocated : Prop :=
  ∀ (s : State) (d a : XReg) (v : VReg) (e : BitVec 8) (r : Nat),
    let x := s.rx a
    let ix := indices x
    let g := (locate r ix).1
    let p := elemPiece (recBits r) g (locate r ix).2
    let holds := s.myCatg ≠ 0 ∧ ∃ c, ((s.die (s.eid / 512)).cat.find? fun (c : CatEntry) => c.asid == s.curCore.asid && c.e == e.toNat) = some c ∧
      c.words = r
    (∀ c, s.cur.coll = some c → c.kind ≠ .gbar) →
    (holds → recV r = true → (∀ k, k < 4 → ix.getD k 0 < recN r k) →
      (s.mayAccess [g] p.len 1 false false → s.maySend [p] true false →
        SendsAccess (.sld d a e) s (.load (if d = 0 then .none else .x d)) [p] false false false (s.fromHeld [p]) [.x d] 0) ∧
      (s.arch.ahead = false → s.mayAccess [g] p.len 1 true false → s.maySend [p] false true →
        SendsAccess (.sst d a e) s (.store ((s.rx d).toNat % 2 ^ recBits r)) [p] false false false [] [] 0) ∧
      exec (.shloc d a e) s =
        .next (if d = 0 then s else s.modCur fun k => { k with pend := k.pend ++ landsAt d g (s.unit.now + 1) })) ∧
    (holds → recV r = true → recEt r = some s.arch.shapeEt → recRank r ≠ 1 ∨ s.arch.rows = 1 →
      let w := etBits s.arch.shapeEt
      let ixs := (List.range s.arch.rows).flatMap fun i => (List.range s.arch.cols).map fun j => tileIndices (recRank r) ix i j
      let ps := ixs.map fun i => elemPiece w (locate r i).1 (locate r i).2
      (∀ i ∈ ixs, ∀ k, k < 4 → i.getD k 0 < recN r k) → s.mayAccess (ps.map (·.gva)) (max 1 (w / 8)) 1 false false → s.maySend ps true false →
      SendsAccess (.sldv v a e) s (.load (.v v)) ps false false false (s.fromHeld ps) [.v v]
        (~~~(BitVec.ofNat 4096 (2 ^ (s.arch.rows * s.arch.cols * w) - 1)))) ∧
    (let bad := fun (why dim i : Nat) =>
       let eval : Word := BitVec.ofNat 64 (e.toNat + dim * 2 ^ 8 + why * 2 ^ 10 + i * 2 ^ 16)
       Traps (.sld d a e) s 0x10 eval ∧ Traps (.sst d a e) s 0x10 eval ∧ Traps (.shloc d a e) s 0x10 eval
     (s.myCatg = 0 → bad 1 0 0 ∧ Traps (.sldv v a e) s 0x10 (BitVec.ofNat 64 (e.toNat + 2 ^ 10)) ∧
       (s.mayAccess [x] 64 64 false false → Traps (.shwr a e) s 0x10 (BitVec.ofNat 64 (e.toNat + 2 ^ 10))) ∧
       Traps (.shswap e) s 0x10 (BitVec.ofNat 64 (e.toNat + 2 ^ 10))) ∧
     (holds → recV r = false → bad 1 0 0 ∧ Traps (.sldv v a e) s 0x10 (BitVec.ofNat 64 (e.toNat + 2 ^ 10))) ∧
     (∀ k, holds → recV r = true → k < 4 → recN r k ≤ ix.getD k 0 → (∀ j, j < k → ix.getD j 0 < recN r j) → bad 0 k (ix.getD k 0)) ∧
     (holds → recV r = true → recEt r ≠ some s.arch.shapeEt ∨ (recRank r = 1 ∧ s.arch.rows ≠ 1) →
       Traps (.sldv v a e) s 0x10 (BitVec.ofNat 64 (e.toNat + 3 * 2 ^ 10))))

/-- R362, R394, R395, R398-R401: SHWR writes a good record into the shadow bank and SHSWAP sets its bit; OBJDEF declares an object under the lowest
free index, or says why not, and OBJDROP ends it; MAPQ gives a page's state; RLQ lands an entry of the range-lock table two cycles later, as it
is by then: until the result is due, every turn of its core reads the entry again; LAUNCH sends its packet. -/
def Obligations.TablesAreReadAndWritten : Prop :=
  ∀ (s u w : State) (d a b : XReg) (e : BitVec 8) (r : Nat) (q q0 : Place) (o : Obj) (p : Page) (l : RLock),
    let g := s.rx a
    let c := s.myCatg
    let asid := s.curCore.asid
    let lands := fun (i : Instr) (w : State) (v : Word) (n : Nat) =>
      exec i s = .next (if d = 0 then w else w.modCur fun k => { k with pend := k.pend ++ landsAt d v (s.unit.now + n) })
    let reads := fun (n : Nat) =>
      s.mayAccess [g] n n false false ∧ s.busyAccs = false ∧ s.unitFree g n = true ∧ s.unitRead g n = (w, .value r)
    let usable := fun (u : State) (g : Word) (q : Place) (n : Nat) (rd wr : Bool) =>
      u.unitFree g n = true ∧ u.heldAt (s.eid / 32) asid g = false ∧ u.tablesBad asid g = false ∧ u.areaPlace asid g = some q ∧
      (s.arch.wld = true ∨ u.secure q = false) ∧ (rd = true → u.poisoned q n = false) ∧ u.hostHas q n wr = false ∧
      (wr = true → u.plainPage asid (u.findPage asid g).2)
    (∀ n, reads n → w.unit = s.unit ∧ w.flight = s.flight ∧ w.cores = s.cores ∧ w.pkgs = s.pkgs ∧
      w.cur = { s.cur with seen := w.cur.seen } ∧ ∀ k, k ≠ s.unit.sid → w.strand k = s.strand k) ∧
    (s.arch.ahead = false → c ≠ 0 →
      (reads 64 →
        (w.mem = s.mem → recV r = true → recOk r = false → Traps (.shwr a e) s 0x10 (BitVec.ofNat 64 (e.toNat + 2 * 2 ^ 10))) ∧
        (recV r = false ∨ recOk r = true → usable w (c + BitVec.ofNat 64 (0x8040 + 2 * e.toNat)) q0 2 true false →
          usable w (c + BitVec.ofNat 64 (0x4000 * ((w.readAt q0 2 + 1) % 2) + 64 * e.toNat)) q 64 false true →
          ∃ t, exec (.shwr a e) s = .next t ∧ t.mem = Mem.write w.mem (q.keys 64) r ∧ t.strands = w.strands)) ∧
      (usable s (c + 0x8000 + BitVec.ofNat 64 (e.toNat / 8)) q 1 true true →
        ∃ t, exec (.shswap e) s = .next t ∧ t.strands = s.strands ∧
          t.mem = Mem.write s.mem (q.keys 1) (Nat.lor (Mem.read s.mem (q.keys 1)) (2 ^ (e.toNat % 8))))) ∧
    (s.arch.ahead = false → reads 32 → s.owes s.unit.sid = false →
      let h := gvaDie (wordAt r 0)
      ∃ gen : BitVec 16,
        let o := objOf asid s.curCore.job r gen
        w.moving h asid (gvaOff o.base) (max 1 o.extent) = false →
        (∀ why, w.objFails o (wordAt r 3) = some why → lands (.objdef d a) w (BitVec.ofNat 64 (2 ^ 63 + why)) 1) ∧
        (w.objFails o (wordAt r 3) = none → ∃ t i, exec (.objdef d a) s = .next t ∧ i < 4096 ∧
          (∀ old, Map.find (w.die h).objs i = some old → old.live = false) ∧
          (∀ j, j < i → ∃ old, Map.find (w.die h).objs j = some old ∧ old.live = true) ∧ Map.find (t.die h).objs i = some o ∧
          t.mem = w.mem ∧ t.arch = s.arch ∧ t.cur.pend = s.cur.pend ++
            landsAt d (BitVec.ofNat 64 (i + h % 8 * 2 ^ 12 + h / 8 % 1024 * 2 ^ 16 + gen.toNat * 2 ^ 32)) (s.unit.now + 1))) ∧
    (let h := field g 16 10 * 8 + field g 12 3
     let i := field g 0 12
     s.arch.ahead = false → Map.find (s.die h).objs i = some o →
      (o.live = true → o.asid = asid → objHandle h i o = g → s.owes s.unit.sid = false →
        ∃ t, exec (.objdrop a) s = .next t ∧ Map.find (t.die h).objs i = some { o with live := false, state := [] } ∧ t.mem = s.mem ∧
          t.strands = s.strands) ∧
      (o.live = false ∨ o.asid ≠ asid ∨ objHandle h i o ≠ g → Traps (.objdrop a) s cAccess g)) ∧
    (s.barred (s.eid / 4096) (gvaDie g) = false →
      (isDevice g = true → lands (.mapq d a) s 0 1) ∧
      (isDevice g = false → s.missFree s.unit.sid 1 = true → s.tablesBad asid g = true → Traps (.mapq d a) s cLoadFault g) ∧
      (isDevice g = false → s.missFree s.unit.sid 1 = true → s.tablesBad asid g = false → s.findPage asid g = (u, none) →
        ∃ t, exec (.mapq d a) s = .next t ∧ t.arch = s.arch ∧ t.cur.pend = s.cur.pend ++ landsAt d 0 (s.unit.now + 1)) ∧
      (isDevice g = false → s.missFree s.unit.sid 1 = true → s.tablesBad asid g = false → s.findPage asid g = (u, some p) →
        (u.pagePlace p g).isSome = true →
        ∃ t v, exec (.mapq d a) s = .next t ∧ t.arch = s.arch ∧ t.cur.pend = s.cur.pend ++ landsAt d v (s.unit.now + 1) ∧
          v.getLsbD 0 = true ∧ field v 1 2 = field p.leaf 2 2 ∧ field v 3 2 = (if p.size = 16 then 0 else if p.size = 21 then 1 else 2) ∧
          v.getLsbD 5 = p.leaf.getLsbD 5 ∧ v.getLsbD 6 = p.leaf.getLsbD 6 ∧ v.getLsbD 7 = p.home.isSome ∧ field v 8 3 = p.die % 8 ∧
          field v 40 24 = field p.leaf 40 24)) ∧
    (exec (.rlq d a) s = .next (if d = 0 then s else ({ s with fresh := s.fresh + 1 } : State).modCur fun k =>
      { k with rlqs := k.rlqs ++ [(s.fresh + 1, field g 0 5, field g 5 2)],
               pend := k.pend ++ [{ reg := some (.x d), val := (s.lockRead (s.eid / 2) (field g 0 5) (field g 5 2)).setWidth 4096, keep := 0,
                                    flags := 0, due := some (s.unit.now + 2), fixed := false, id := s.fresh + 1 }] })) ∧
    (∀ tile i n, (Map.find (s.tile tile).locks i = none → s.lockRead tile i n = 0) ∧
      (Map.find (s.tile tile).locks i = some l → s.lockRead tile i n =
        if n = 0 then BitVec.ofNat 64 (2 ^ 63 + (if l.dst then 2 ^ 62 else 0) + l.kind % 8 * 2 ^ 56 + l.tag % 256 * 2 ^ 40 + l.eid % 2 ^ 22)
        else if n = 1 then l.first else if n = 2 then l.last else 0)) ∧
    (∀ (sid cycle : Nat) (k : Pend) (n : Nat × Nat × Nat), k ∈ (s.strand sid).pend → n ∈ (s.strand sid).rlqs → n.1 = k.id →
      ((s.strand sid).rlqs.map fun n => n.1).Nodup → k.due = some cycle → s.cycleOf sid ≤ cycle →
      { k with val := (s.lockRead (sid / 8) n.2.1 n.2.2).setWidth 4096 } ∈ ((s.lockTurn (sid / 4)).strand sid).pend) ∧
    (let queue := field (s.rx b) 0 4
     let pkg := field (s.rx b) 4 10
     let own := s.eid / 4096
     s.arch.ahead = false → reads 128 → s.owes s.unit.sid = false →
      (pkg ≠ own → s.ready pkg 81 = false → lands (.launch d a b) w 4 1) ∧
      (pkg = own ∨ s.ready pkg 81 = true → s.cut own pkg = true → w.mem = s.mem → Traps (.launch d a b) s cAccess (BitVec.ofNat 64 (pkg * 4096))) ∧
      (pkg = own ∨ s.ready pkg 81 = true → s.cut own pkg = false → ∃ t, exec (.launch d a b) s = .next t ∧ t.arch = s.arch ∧
        t.mem = w.mem ∧ t.cur.pend = s.cur.pend ++ waitsFor d (w.fresh + 1) ∧
        t.flight = s.flight ++ [.launchPacketArrival pkg queue (if pkg = own then .job asid.toNat else .peer own)
          (some (s.unit.sid, w.fresh + 1)) ((List.range 16).map (wordAt r))]))

/-! ## Tasks (R299-R331, R408) -/

/-- R307, R310-R316, R408: SPAWN pushes its continuation and enters the child, PUBF publishes a frame, WPUSH pushes a record, WPOP starts the
newest one; a lane that is full on its core spills its oldest entry there, and one that has few left takes spilled ones back. TEND returns,
pops a continuation back, or sends its join decrement; at the reply it returns to its anchor or goes on with the frame that had parked. SYNC
completes at a count of zero, parks where it may, and registers itself otherwise; JDEC sends a decrement and gives its reply. -/
def Obligations.TasksBeginAndEnd : Prop :=
  ∀ (s w z : State) (d a b : XReg) (off : BitVec 22) (l m : List Word) (e : Word) (c0 : LaneEntry) (lane : List LaneEntry) (v : Nat) (k : Ask),
    let g := s.rx a
    let r := s.arch
    let sid := s.unit.sid
    let lands := fun (i : Instr) (t : State) (x : Word) =>
      exec i s = .next (if d = 0 then t else t.modCur fun k => { k with pend := k.pend ++ landsAt d x (s.unit.now + 1) })
    let pushed := fun (w0 fr a0 a1 : Word) (left : List Left) =>
      ({ w0 := w0, fr := fr, a0 := a0, a1 := a1, num := s.cur.pushN, at_ := (s.core s.eid).cycle, spilled := false, resv := none, src := sid,
         stamp := s.fresh, left := left } : LaneEntry)
    let cap := laneH (s.core s.eid).w
    let room := s.cur.worker = true ∧ s.cur.lane.length < s.laneCap sid ∧ onCore s.cur.lane < cap
    let pushes := fun (i : Instr) (r : Arch) (n : LaneEntry) =>
      (room → ∃ u, exec i s = .next u ∧ u.mem = s.mem ∧ u.arch = r ∧ u.cur.lane = s.cur.lane ++ [n]) ∧
      (∀ base old new, s.cur.worker = true → s.cur.lane.length < s.laneCap sid → cap ≤ onCore s.cur.lane → (s.laneCtl sid).2.2 = some base →
        s.cur.lane = old ++ c0 :: new → (∀ x ∈ old, x.spilled = true) → c0.spilled = false → (∀ x ∈ old ++ new, x.num ≠ c0.num) →
        ∃ u, exec i s = .next u ∧ u.arch = r ∧ u.cur.lane = old ++ { c0 with spilled := true } :: new ++ [n] ∧
          u.mem = Mem.write s.mem ((s.spillPlace sid base c0.num).keys 32)
            (c0.w0.toNat + 2 ^ 64 * (c0.fr.toNat + 2 ^ 64 * (c0.a0.toNat + 2 ^ 64 * c0.a1.toNat))))
    let full := s.cur.worker = false ∨ s.laneCap sid ≤ s.cur.lane.length
    let child := fun (mark fr : Word) =>
      { r with ras := r.ras ++ [s.unit.next ||| mark], frame := fr, depth := r.depth + 1, pc := s.target off }
    let c := s.laneRead sid c0
    let newest := s.cur.lane = lane ++ [c0] ∧ c0.resv = none ∧ (∀ x ∈ lane, x.num ≠ c0.num) ∧ frameOf c.fr = 0
    let popped := fun (u : State) => u.cur.lane.map (s.laneRead sid) = lane.map (s.laneRead sid) ∧
      ((∀ x ∈ lane, x.spilled = false) → u.cur.lane = lane) ∧
      ((s.laneCtl sid).2.2.isSome = true → onCore u.cur.lane =
        if 2 * onCore lane < cap then onCore lane + min (3 * cap / 4 - onCore lane) (lane.length - onCore lane) else onCore lane)
    let begins := fun (r : Arch) (fr : Word) (depth : BitVec 32) =>
      { ((r.setX 16 c.a0).setX 17 c.a1) with frame := fr &&& ~~~(0xFC : Word), h := Vector.replicate 4 0, depth := depth,
                                             pc := c.w0 &&& ~~~(3 : Word) }
    let goesOn := fun (r : Arch) (depth : BitVec 32) =>
      { ((r.setX 16 (wordAt v 1)).setX 17 (wordAt v 2)) with frame := (k.target + 1) &&& ~~~(0xFC : Word), depth := depth, pc := wordAt v 0,
                                                             h := Vector.ofFn fun i => wordAt v (12 + i.val) &&& ~~~(0x7F : Word) }
    let reads := fun (g : Word) (n : Nat) => s.mayAccess [g] n 8 false false ∧ s.busyAccs = false ∧ s.unitFree g n = true ∧
      s.unitRead g n = (w, .value v) ∧ w.mem = s.mem
    let kept := fun (l : List Pend) =>
      l.map fun p => if p.reg = some (.x 16) ∨ p.reg = some (.x 17) then { p with reg := none } else p
    let target := frameOf r.frame
    let asks := fun (i : Instr) (q : Ask) => ∃ u, exec i s = .next u ∧ u.cur.ask = some { q with id := s.fresh + 1 } ∧
      u.cur.wait = .reply ∧ u.arch = { r with pc := s.unit.pc } ∧ u.mem = s.mem ∧
      u.flight = s.flight ++ [.joinDecrement { s.request q.target with
        dest := s.frameOwner s.curCore.asid s.eid q.target, ha := 0x7FFFFFFFF0400, seq := s.fresh + 1 }]
    let back := { r with ras := l, depth := r.depth - 1, pc := e &&& ~~~(3 : Word) }
    let marked := m = [] ∨ (m.getLast?.any fun x => field x 0 2 == 1) = true ∧ s.cur.newestCont = none
    let anchored := r.ras = l ++ e :: m ∧ field e 0 2 = 2 ∧ (∀ x ∈ m, field x 0 2 ≠ 2) ∧ marked
    let passed := r.depth - BitVec.ofNat 32 (m.filter fun x => field x 0 2 != 0).length
    r.ahead = false →
    (r.ras.length < 16 →
      pushes (.spawn off) (child 1 (putBit r.frame 0 false))
        (pushed (s.unit.next ||| (if r.depth = 0 ∨ r.frame.getLsbD 0 = false ∨ r.frame.getLsbD 1 = true then 2 else 0))
          r.frame (r.getX 16) (r.getX 17) s.taskLeft) ∧
      (full → ∃ u, exec (.spawn off) s = .next u ∧ u.mem = s.mem ∧ u.arch = child 3 (putBit (putBit r.frame 1 true) 0 false) ∧
        u.cur.lane = s.cur.lane)) ∧
    (g = 0 → SetsArch (.pubf a) s fun r => { r with frame := if r.frame.getLsbD 1 then 2 else 0 }) ∧
    (g ≠ 0 → g.toNat % 256 ≠ 0 → Traps (.pubf a) s cAlignment g) ∧
    (g ≠ 0 → g.toNat % 256 = 0 → s.admits [g] 16 8 false → reads (g + 0x30) 64 →
      ((∀ j, j < 4 → descValid ((descriptors v).getD j (0, 0)) = true) → s.mayAccess [g] 16 8 true false →
        w.maySend (pieces g 16) false true → s.unit.status = .running →
        ∃ u q, exec (.pubf a) s = .next u ∧ u.mem = s.mem ∧ u.arch = { r with frame := g + 1 + (if r.frame.getLsbD 1 then 2 else 0) } ∧
          u.flight = s.flight ++ [.accessPerformed s.eid (w.fresh + 1)] ∧ (u.core s.eid).accs = (s.core s.eid).accs ++ [q] ∧
          q.op = .store (r.frame.toNat * 2 ^ 64) ∧ q.pieces = pieces g 16 ∧ q.rel = true) ∧
      (∀ j, j < 4 → descValid ((descriptors v).getD j (0, 0)) = false → (∀ i, i < j → descValid ((descriptors v).getD i (0, 0)) = true) →
        Traps (.pubf a) s cAlignment (g + 0x30 + BitVec.ofNat 64 (16 * j)))) ∧
    (g.toNat % 4 ≠ 0 → Traps (.wpush a b) s cAlignment g) ∧
    (g.toNat % 4 = 0 →
      (full → Traps (.wpush a b) s cAccess (BitVec.ofNat 64 s.eid)) ∧
      pushes (.wpush a b) r (pushed (g ||| 1) r.frame (r.getX 16) (s.rx b) [])) ∧
    (s.cur.worker = false ∨ s.cur.lane = [] → lands (.wpop d) s 0) ∧
    (newest → c0.w0.getLsbD 0 = false → lands (.wpop d) s 0) ∧
    (newest → s.cur.worker = true → c0.w0.getLsbD 0 = true → c.w0.getLsbD 0 = true → r.ras.length < 16 →
      let u1 := c.w0.getLsbD 1
      ∃ u, exec (.wpop d) s = .next u ∧ u.mem = s.mem ∧ popped u ∧
        u.cur.pend = kept (s.cur.pend ++ landsAt d 1 (s.unit.now + 1)) ∧
        u.arch = begins { r with ras := r.ras ++ [s.unit.next ||| (if u1 then 2 else 3)] } (putBit (putBit c.fr 0 false) 1 (!u1)) (r.depth + 1)) ∧
    (s.cur.ask = none →
      (r.depth = 0 → Traps .tend s cIllegal 0x10000) ∧
      (r.depth ≠ 0 → anchored → r.frame.getLsbD 0 = false →
        (target = 0 → ∃ u, exec .tend s = .next u ∧ u.mem = s.mem ∧ u.arch = { back with depth := passed - 1 } ∧ u.cur.ask = none) ∧
        (target ≠ 0 → s.routed .int target = true → s.rowBarred (r.prv == 0) false 8 target = false →
          s.owes sid = false → s.owesEngines = false → s.unitFree target 8 = true →
          asks .tend { id := 0, target := target, ras := l ++ [e], rstop := r.rstop, depth := passed, anchor := some e, reply := none }) ∧
        (target ≠ 0 → s.routed .int target = false → Traps .tend s cAtomicRoute target)) ∧
      (r.depth ≠ 0 → r.ras = l ++ [e] →
        (field e 0 2 = 0 → Traps .tend s cIllegal 0x10000) ∧
        (r.frame.getLsbD 0 = false →
          (field e 0 2 = 3 → exec .tend s = .next ((s.modArch fun _ => back).jump back.pc)) ∧
          (field e 0 2 = 1 → newest → c0.w0.getLsbD 0 = false → ∃ u, exec .tend s = .next u ∧ u.mem = s.mem ∧ popped u ∧
            u.arch = begins { r with ras := l } c.fr (r.depth - 1))))) ∧
    (s.cur.ask = some k → k.ras = l ++ [e] → k.anchor = some e →
      (k.reply = some (0, true) → reads (k.target + 0x10) 0x80 →
        (∃ u, exec .tend s = .next u ∧ u.mem = s.mem ∧ u.cur.ask = none ∧ u.cur.pend = kept s.cur.pend ∧
          u.arch = goesOn { r with ras := k.ras, rstop := k.rstop } k.depth) ∧
        (r.ras.length < 16 → ∃ u, exec (.jdec d a) s = .next u ∧ u.mem = s.mem ∧ u.cur.ask = none ∧
          u.cur.pend = kept (s.cur.pend ++ landsAt d 1 (s.unit.now + 1)) ∧
          u.arch = goesOn { r with ras := r.ras ++ [s.unit.next ||| 2] } (r.depth + 1))) ∧
      (k.reply = some (0, false) → ∃ u, exec .tend s = .next u ∧ u.mem = s.mem ∧ u.cur.ask = none ∧
        u.arch = { r with ras := l, rstop := k.rstop, depth := k.depth - 1, pc := e &&& ~~~(3 : Word) }) ∧
      (∀ code, code ≠ 0 → k.reply = some (code, false) → Traps .tend s code k.target ∧ Traps (.jdec d a) s code k.target) ∧
      (k.reply = some (0, false) → lands (.jdec d a) (s.modCur fun t => { t with ask := none }) 0)) ∧
    (target = 0 → exec .sync s = .next s) ∧
    (target ≠ 0 → reads target 8 →
      (v % 2 ^ 32 = 0 → exec .sync s = .next w) ∧
      (let stores : List UnitStore := [⟨target + 0x10, 24, (s.unit.next.toNat + 2 ^ 64 * ((r.getX 16).toNat + 2 ^ 64 * (r.getX 17).toNat))⟩,
         ⟨target + 0x70, 32, r.h.toList.foldr (fun x n => x.toNat + 2 ^ 64 * n) 0⟩, ⟨target + 4, 4, v / 2 ^ 32 ||| 2⟩]
       let ps := pieces (target + 0x10) 24 ++ pieces (target + 0x70) 32 ++ pieces (target + 4) 4
       v % 2 ^ 32 ≠ 0 → w.parkable = true → anchored → w.owes sid = false → s.mayAccess [target + 0x10] 24 8 true false →
        s.mayAccess [target + 0x70] 32 8 true false → s.mayAccess [target] 8 8 true false →
        w.missFree sid (w.linesOf s.eid s.curCore.asid ps) = true →
        w.coreStore s.eid s.curCore.asid r.wld (UnitStore.data stores) ps = (z, .value 0) →
        ∃ u, exec .sync s = .next u ∧ u.mem = z.mem ∧ u.arch = { back with depth := passed - 1 }) ∧
      (v % 2 ^ 32 ≠ 0 → w.parkable = false → v / 2 ^ 32 / 4 % 2 = 0 → s.mayAccess [target] 8 8 true false →
        w.missFree sid (w.linesOf s.eid s.curCore.asid (pieces (target + 4) 4)) = true →
        w.coreStore s.eid s.curCore.asid r.wld ((v / 2 ^ 32 % 8 + 4 + sid % 4 * 2 ^ 8 + s.eid * 2 ^ 10) % 2 ^ 32) (pieces (target + 4) 4) =
          (z, .value 0) →
        ∃ u, exec .sync s = .next u ∧ u.mem = z.mem ∧ u.cur.st = .blocked ∧ u.cur.wait = .sync ∧ u.arch = { r with pc := s.unit.pc })) ∧
    (s.cur.ask = none →
      (g = 0 → lands (.jdec d a) s 0) ∧
      (g ≠ 0 → s.admits [g] 8 256 false → s.routed .int g = true → s.owes sid = false → s.unitFree g 8 = true →
        asks (.jdec d a) { id := 0, target := g, ras := [], rstop := 0, depth := 0, anchor := none, reply := none }))

/-- R317-R320, R413, R416: DONATE places its oldest record in the queue and DPULL takes one from it and starts it; QUIET waits in the steal
loop, starts what it brings, or gives the detection's number; ETQ reads the bucket, the status or the pool, or charges tokens; BOOST sets the
core's request. -/
def Obligations.TasksAreShared : Prop :=
  ∀ (s w1 w2 w3 : State) (d a b : XReg) (c : LaneEntry) (rest : List LaneEntry) (v x n0 : Nat),
    let g := s.rx a
    let r := s.arch
    let sid := s.unit.sid
    let asid := s.curCore.asid
    let lands := fun (i : Instr) (t : State) (x : Word) =>
      exec i s = .next (if d = 0 then t else t.modCur fun k => { k with pend := k.pend ++ landsAt d x (s.unit.now + 1) })
    let capl := v / 2 ^ 128 % 2 ^ 32
    let slot := fun (pos : Word) => g + 0x40 + BitVec.ofNat 64 (64 * (pos.toNat % 2 ^ capl))
    let open_ := s.admits [g] 8 64 false ∧ s.routed .int g = true ∧ s.owes sid = false
    let reads := fun (s : State) (g : Word) (n : Nat) (w : State) (v : Nat) => s.unitFree g n = true ∧ s.unitRead g n = (w, .value v)
    let stores := fun (s : State) (l : List UnitStore) (w : State) =>
      let ps := l.flatMap fun q => pieces q.gva q.len
      s.missFree sid (s.linesOf s.eid asid ps) = true ∧ s.coreStore s.eid asid r.wld (UnitStore.data l) ps = (w, .value n0)
    let kept := fun (l : List Pend) =>
      l.map fun p => if p.reg = some (.x 16) ∨ p.reg = some (.x 17) then { p with reg := none } else p
    (r.ahead = false →
      (s.cur.worker = false → exec (.donate a b) s = .next s ∧ lands (.dpull d a) s 0) ∧
      (s.withheld s.eid = true → lands (.dpull d a) s 0) ∧
      (let t := wordAt v 0
       let s1 := s.modCur fun k => { k with lane := { c with resv := some sid } :: rest, progress := some 1 }
       s.cur.worker = true → open_ → s.rx b = 1 → s.cur.progress = none → s.cur.lane = c :: rest → c.work = true → c.mark = true →
        c.resv = none → (∀ x ∈ s.cur.lane, x.spilled = false) → (∀ x ∈ rest, x.resv = none ∧ x.num ≠ c.num) →
        reads s1 g 20 w1 v → 1 ≤ capl → capl ≤ 12 → s.rowBarred (r.prv == 0) false 40 (slot t) = false →
        reads w1 (slot t + 32) 8 w2 t.toNat →
        stores w2 [⟨g, 8, (t + 1).toNat⟩, ⟨slot t, 40, packWords [c.w0 ||| 2, c.fr, c.a0, c.a1, t + 1]⟩] w3 →
        ∃ u, exec (.donate a b) s = .next u ∧ u.mem = w3.mem ∧ u.arch = r ∧ u.cur.lane = rest ∧ u.cur.progress = none ∧
          (u.core s.eid).cnt = (s.core s.eid).cnt + 1 ∧ (u.core s.eid).marked = true) ∧
      (let h := wordAt v 1
       s.cur.worker = true → s.withheld s.eid = false → open_ → reads s g 20 w1 v →
        (capl = 0 ∨ 12 < capl → lands (.dpull d a) w1 0) ∧
        (1 ≤ capl → capl ≤ 12 → s.rowBarred (r.prv == 0) false 40 (slot h) = false → reads w1 (slot h) 40 w2 x →
          (seqCompare (wordAt x 4) (h + 1) = 1 → lands (.dpull d a) w2 0) ∧
          (wordAt x 4 = h + 1 → frameOf (wordAt x 1) = 0 → r.ras.length < 16 → s.unit.status = .running →
            stores w2 [⟨g + 8, 8, (h + 1).toNat⟩, ⟨slot h + 32, 8, (h + BitVec.ofNat 64 (2 ^ capl)).toNat⟩] w3 →
            ∃ u, exec (.dpull d a) s = .next u ∧ u.mem = w3.mem ∧
              u.cur.pend = kept (s.cur.pend ++ landsAt d 1 (s.unit.now + 1)) ∧ (u.core s.eid).cnt = (s.core s.eid).cnt - 1 ∧
                u.arch.pc = wordAt x 0 &&& ~~~(3 : Word) ∧ u.arch.depth = r.depth + 1 ∧
              u.arch.ras = r.ras ++ [s.unit.next ||| 2] ∧ u.arch.getX 16 = wordAt x 2 ∧ u.arch.getX 17 = wordAt x 3))) ∧
      (s.cur.worker = false ∨ r.depth ≠ 0 → Traps (.quiet d) s cIllegal 0x10001) ∧
      (s.cur.worker = true → r.depth = 0 →
        (∀ n, s.cur.start = none → s.cur.stolen = [] → s.cur.detect = some n →
          lands (.quiet d) (s.modCur fun k => { k with detect := none }) (BitVec.ofNat 64 n)) ∧
        (s.cur.start = none → s.cur.stolen = [] → s.cur.detect = none → ∃ u, exec (.quiet d) s = .next u ∧ u.mem = s.mem ∧
          u.cur.st = .blocked ∧ u.cur.wait = .steal ∧ u.arch = { r with pc := s.unit.pc } ∧ sid ∈ (u.core s.eid).steal.queue ∧
          ((s.core s.eid).steal.busy = false → Ev.stealProbe s.eid ∈ u.flight)) ∧
        (∀ st h0 h1 h2 h3, s.cur.start = some st → st.hs = [h0, h1, h2, h3] → st.fault = none → s.cur.stolen = [c] → r.ras.length < 16 →
          ∃ u, exec (.quiet d) s = .next u ∧ u.mem = s.mem ∧ u.cur.stolen = [] ∧ u.cur.start = none ∧
            u.arch = { ((r.setX 16 c.a0).setX 17 c.a1) with
              ras := r.ras ++ [s.unit.pc ||| 2], frame := putBit (if c.work then putBit c.fr 0 false else c.fr) 1 false &&& ~~~(0xFC : Word),
              h := (#v[h0, h1, h2, h3] : Vector Word 4).map fun x => x &&& ~~~(0x7F : Word), depth := 1, pc := c.w0 &&& ~~~(3 : Word) })) ∧
      (field g 0 2 ≠ 3 → exec (.boost a) s = .next (s.modCore s.eid fun c => { c with boost := field g 0 2 })) ∧
      (field g 0 2 = 3 → exec (.boost a) s = .next (s.modCore s.eid fun c =>
        { c with boost := if (s.cluster (s.eid / 32)).vlim then 1 else 2 }))) ∧
    (let clu := s.eid / 32
     let k := s.cluster clu
     let bit := fun (i : Nat) (x : Bool) => if x then 2 ^ i else 0
     let p := s.pkg (s.eid / 4096)
     (field g 0 4 = 0 ∨ field g 0 4 = 3 ∧ field g 16 16 = 0 →
       lands (.etq d a) (s.setCluster clu s.bucket) (BitVec.ofInt 64 s.bucket.tokens)) ∧
     (field g 0 4 = 1 → lands (.etq d a) s (BitVec.ofNat 64 (k.refill + bit 8 k.hot + bit 9 k.overBit + k.level * 2 ^ 10 +
       s.rawRequest clu * 2 ^ 12 + bit 14 k.retd + bit 15 k.vlim + clu % 128 * 2 ^ 16))) ∧
     (field g 0 4 = 2 → lands (.etq d a) s (BitVec.ofNat 64 (p.pool + p.pcap * 2 ^ 32))) ∧
     (field g 0 4 = 3 → field g 16 16 ≠ 0 → s.canPay (field g 16 16) →
       lands (.etq d a) (s.setCluster clu { s.bucket with tokens := s.bucket.tokens - field g 16 16 })
         (BitVec.ofInt 64 (s.bucket.tokens - field g 16 16))) ∧
     (4 ≤ field g 0 4 → lands (.etq d a) s 0))

/-- R306, R314, R321-R326, R329: a join decrement counts down, wakes the strand that waits and resumes a parked frame; the steal engine probes,
rests and searches again; a theft takes what R322 lists and starts at the thief; the token passes through the passive cores. -/
def Obligations.TaskEnginesStep : Prop :=
  ∀ (s u : State) (m : Msg) (p : Place) (pg : Option Page) (n eid sid thief probe victim job : Nat) (h c : LaneEntry) (r : List LaneEntry)
    (t : Taking) (b : Job),
    let word := Mem.read u.mem (p.keys 8)
    let fst := word / 2 ^ 32
    let left := (word % 2 ^ 32 + (2 ^ 32 - 1)) % 2 ^ 32
    let waits := left = 0 ∧ fst / 4 % 2 = 1
    let parks := left = 0 ∧ fst / 2 % 2 = 1
    let taken := (∀ k, m.kind ≠ .reserved k) ∧ s.genTable (m.src / 512) (m.src % 512) = m.gen
    (taken → m.addr = 0 → exec (.joinDecrement m) s = .next { s with flight := s.flight ++ [.reply (s.answer m 0 0)] }) ∧
    (taken → s.framePlace m.src m.asid m.wld m.addr = (u, .at_ p pg) → u.plainPage m.asid pg →
      ∃ v, exec (.joinDecrement m) s = .next v ∧ Ev.reply (v.answer m 0 (if parks then 1 else 0)) ∈ v.flight ∧
        v.mem = Mem.write u.mem (p.keys 8) (left + 2 ^ 32 * (fst - (if waits then 4 else 0) - (if parks then 2 else 0))) ∧
        (waits → (s.strand (fstSid fst)).wait = .sync → (v.strand (fstSid fst)).arch.ev = true ∧ (v.strand (fstSid fst)).st ≠ .blocked) ∧
        (¬ waits → v.strands = u.strands)) ∧
    (∀ code, taken → s.framePlace m.src m.asid m.wld m.addr = (u, .bad code) →
      exec (.joinDecrement m) s = .next { u with flight := u.flight ++ [.reply (u.answer m code 0)] }) ∧
    (∀ k, (s.strand sid).poll = some k → k ≤ (s.core (sid / 4)).cycle → (s.strand sid).st = .blocked →
      ∃ v, exec (.syncPoll sid) s = .next v ∧ v.mem = s.mem ∧ (v.strand sid).poll = none ∧ (v.strand sid).st ≠ .blocked) ∧
    ((s.core eid).steal.queue = [sid] → (s.strand sid).st = .blocked → (s.strand sid).wait = .steal → (s.strand sid).stolen = [] →
      s.withheld eid = false →
      ((s.core eid).steal.probe = 0 → ∃ v, exec (.stealProbe eid) s = .next v ∧ v.mem = s.mem ∧ v.strands = s.strands ∧
        Ev.theft sid eid 0 ∈ v.flight) ∧
      ((s.core eid).steal.probe = 9 → ∃ v, exec (.stealProbe eid) s = .next v ∧ v.mem = s.mem ∧ v.strands = s.strands ∧
        Ev.stealRoundTimer eid ∈ v.flight)) ∧
    (∃ v, exec (.stealRoundTimer eid) s = .next v ∧ v.mem = s.mem ∧ v.strands = s.strands ∧
      v.flight = s.flight ++ [.stealProbe eid] ∧ (v.core eid).steal = { (s.core eid).steal with probe := 0, drawn := [] }) ∧
    ((h.work = false → h.mark = true → takeFrom n (h :: r) = none) ∧
      (h.work = false → h.mark = false → takeFrom n (h :: r) =
        some { recs := [h], gone := [h.num], keep := none, incs := [frameOf h.fr] }) ∧
      (h.work = true → c.work = true → ∃ k, takeFrom n (h :: c :: r) = some k ∧ k.keep = none ∧
        k.recs.length = min (((h :: c :: r).takeWhile LaneEntry.work).length / 2) n ∧
        k.recs = ((h :: c :: r).take k.recs.length).map (fun (e : LaneEntry) => { e with w0 := putBit e.w0 1 true }) ∧
        k.gone = k.recs.map (fun (e : LaneEntry) => e.num)) ∧
      (h.work = true → (r = [] ∨ r = [c] ∧ c.work = false) → 2 ≤ h.hi - h.lo →
        let mid := h.lo + (h.hi - h.lo + 1) / 2
        takeFrom n (h :: r) = some { recs := [{ h with w0 := putBit h.w0 1 true, a1 := BitVec.ofNat 64 (mid + h.hi * 2 ^ 32) }], gone := [],
                                     keep := some { h with a1 := BitVec.ofNat 64 (h.lo + mid * 2 ^ 32) }, incs := [frameOf h.fr] })) ∧
    ((s.cluster (victim / 32)).gated = false → (s.strand thief).wait = .steal → (s.strand thief).taking = none →
      let most := 1 + (s.laneCap thief - (s.strand thief).lane.length)
      (s.pickLane victim most = none → ∃ v, exec (.theft thief victim probe) s = .next v ∧ v.mem = s.mem ∧ v.strands = s.strands ∧
        (v.core (thief / 4)).steal.probe = probe + 1 ∧ Ev.stealProbe (thief / 4) ∈ v.flight) ∧
      (s.pickLane victim most = some (sid, t) → t.incs = [] → t.keep = none → sid / 4 = victim → sid ≠ thief →
        (∀ e ∈ (s.strand sid).lane, e.resv = none ∧ e.spilled = false) →
        ∃ v, exec (.theft thief victim probe) s = .next v ∧ v.mem = s.mem ∧ (v.strand thief).stolen = t.recs ∧
          (v.strand sid).lane = (s.strand sid).lane.filter (fun e => e.num ∉ t.gone) ∧ (v.core victim).marked = true ∧
          Ev.stolenRecordStart thief ∈ v.flight)) ∧
    ((s.strand sid).stolen = c :: r → (s.strand sid).start = none → (∀ e ∈ c :: r, s.pushOpen e = false) → frameOf c.fr = 0 →
      (s.strand sid).st = .blocked →
      ∃ v, exec (.stolenRecordStart sid) s = .next v ∧ v.mem = s.mem ∧ (v.strand sid).st ≠ .blocked ∧
        (v.strand sid).start = some { desc := some [], hs := [0, 0, 0, 0], fault := none }) ∧
    (s.job job = some b →
      (∀ e, b.token < b.cores.length → b.cores.getD b.token 0 = e → s.passive e = true →
        ∃ v, exec (.tokenPass job) s = .next v ∧ v.mem = s.mem ∧ v.strands = s.strands ∧ (v.core e).marked = false ∧
          v.job job = some { b with token := b.token + 1, mark := b.mark || (s.core e).marked, sum := b.sum + (s.core e).cnt } ∧
          Ev.tokenPass job ∈ v.flight) ∧
      (∀ e, b.cores.length ≤ b.token → b.cores.getD 0 0 = e → s.passive e = true →
        let round := { b with token := 0, mark := false, sum := 0 }
        (b.mark = false → b.sum = 0 → (s.core e).marked = false → ∃ v, exec (.tokenPass job) s = .next v ∧ v.mem = s.mem ∧
          v.job job = some { round with detections := b.detections + 1 } ∧
          ∀ k ∈ b.members, (s.strand (b.sidOf k)).idleInQuiet = true → (v.strand (b.sidOf k)).detect = some (b.detections + 1)) ∧
        (b.mark = true ∨ b.sum ≠ 0 ∨ (s.core e).marked = true → ∃ v, exec (.tokenPass job) s = .next v ∧ v.mem = s.mem ∧
          v.strands = s.strands ∧ v.job job = some round)))

/-! ## Registers that stores and the host write, and events of strands -/

/-- R134, R215, R440-R442, R446: a write of CFSUM clears flags and one of SLCFG changes the pinned ways; a store to a control page sets off its
effect; the host's writes reach XTGT, the launch windows, the mailbox and the MSI-X masks; a word is posted to the strand that XTGT names. -/
def Obligations.ControlRegistersAreWritten : Prop :=
  ∀ (s : State) (c p fn q w vec : Nat) (val : Word) (b : Job),
    let k := s.cluster c
    let g := s.pkg p
    let n := val.toNat % 16
    let old := k.pinw.toNat
    let area := (Place.slice (c / 16) (c % 16) 0).key 0
    let quiet := fun (t : State) => t.mem = s.mem ∧ t.strands = s.strands
    let win := g.window fn q
    let named := (Map.get 0 g.xtgt fn).toNat % 2 ^ 22 * 4 + (Map.get 0 g.xtgt fn).toNat / 2 ^ 22 % 4
    (∃ t, exec (.cfsumWrite c val) s = .next t ∧ quiet t ∧ t.cluster c = { k with eflg := (t.cluster c).eflg } ∧
      ∀ i, i < 5 → (t.cluster c).eflg.getLsbD i =
        (k.eflg.getLsbD i && (!val.getLsbD (8 + i) || (k.reportedAt == s.clusterTime c && k.reported.getLsbD i)))) ∧
    (k.slBusy = true ∨ 12 < n → exec (.slcfgWrite c val) s = .next s) ∧
    (k.slBusy = false → n ≤ 12 → n ≠ old → ∃ t, exec (.slcfgWrite c val) s = .next t ∧ t.strands = s.strands ∧
      t.cluster c = { k with pinw := BitVec.ofNat 4 n, slBusy := true } ∧ t.flight = s.flight ++ [.slcfgDone c] ∧
      ∀ a, Mem.byte t.mem a = if area + min n old * 262144 ≤ a ∧ a < area + max n old * 262144 then 0 else Mem.byte s.mem a) ∧
    (∃ t, exec (.slcfgDone c) s = .next t ∧ quiet t ∧ t.cluster c = { k with slBusy := false }) ∧
    exec (.registerWrite (.control c 0) val) s = exec (.cfsumWrite c val) s ∧
    exec (.registerWrite (.control c 0x40) val) s = exec (.mdepWrite c val) s ∧
    exec (.registerWrite (.control c 0x80) val) s = exec (.slcfgWrite c val) s ∧
    (w ≠ 0 → w ≠ 0x40 → w ≠ 0x80 → exec (.registerWrite (.control c w) val) s = .next s) ∧
    (fn < 64 → ∃ t, exec (.registerWrite (.xtgt p fn) val) s = .next t ∧ quiet t ∧
      Map.get 0 (t.pkg p).xtgt fn = val.setWidth 24 ∧ ∀ i, i ≠ fn → Map.get 0 (t.pkg p).xtgt i = Map.get 0 g.xtgt i) ∧
    (w < 16 → q < 16 → fn < 64 → ∃ t, exec (.registerWrite (.window p fn q w) val) s = .next t ∧ quiet t ∧
      (t.pkg p).window fn q = (if win.busy then win else { win with buf := win.buf.set w val })) ∧
    (g.ready.getLsbD 79 = true → 79 ∉ g.refused →
      (8 ≤ w → w < 512 → ∃ t, exec (.registerWrite (.mailbox p w) val) s = .next t ∧ quiet t ∧ Map.get 0 (t.pkg p).mdata w = val) ∧
      (g.recovery = false → val.toNat % 256 = 1 → ∃ t, exec (.registerWrite (.mailbox p 0) val) s = .next t ∧ quiet t ∧
        t.flight = s.flight ++ [.readAlmanac p] ∧ (t.pkg p).mbox = putField val 8 8 0) ∧
      (∀ n e, g.recovery = false → val.toNat % 256 = n → (n, e) ∈ [(2, Ev.checkpoint p), (3, .restore p)] →
        ∃ t, exec (.registerWrite (.mailbox p 0) val) s = .next t ∧ quiet t ∧ t.flight = s.flight ++ [e] ∧
          (t.pkg p).tier = Config.tier g.mboxData) ∧
      (g.recovery = false → 7 < val.toNat % 256 → ∃ t, exec (.registerWrite (.mailbox p 0) val) s = .next t ∧ quiet t ∧
        t.flight = s.flight ∧ field (t.pkg p).mbox 8 8 = 4) ∧
      (g.recovery = true → val.toNat % 256 ≠ 7 → ∃ t, exec (.registerWrite (.mailbox p 0) val) s = .next t ∧ quiet t ∧
        t.flight = s.flight ∧ field (t.pkg p).mbox 8 8 = 2) ∧
      (val.toNat % 256 = 7 → ∃ t, exec (.registerWrite (.mailbox p 0) val) s = .next t ∧ quiet t ∧
        t.flight = s.flight ++ [.loadImage p])) ∧
    (let n := msixNo fn vec
     let entry := Map.get (0, 0) g.msixTab n
     (fn < 64 → vec < (if fn = 0 then 2048 else 48) →
      (∃ t, exec (.registerWrite (.msixMask p fn vec) val) s = .next t ∧ quiet t ∧ n ∈ (t.pkg p).msixMask ∧ (t.pkg p).msixSent = g.msixSent) ∧
      (∃ t, exec (.registerWrite (.msixAddr p fn vec) val) s = .next t ∧ quiet t ∧ Map.get (0, 0) (t.pkg p).msixTab n = (val, entry.2)) ∧
      (∃ t, exec (.registerWrite (.msixData p fn vec) val) s = .next t ∧ quiet t ∧ Map.get (0, 0) (t.pkg p).msixTab n = (entry.1, val)) ∧
      (∃ t, exec (.msixUnmask p fn vec) s = .next t ∧ quiet t ∧ n ∉ (t.pkg p).msixMask ∧ n ∉ (t.pkg p).msixPend ∧
        (t.pkg p).msixSent = (if n ∈ g.msixPend then g.msixSent ++ [n] else g.msixSent) ∧
        (t.pkg p).msixOut = (if n ∈ g.msixPend then g.msixOut ++ [entry] else g.msixOut))) ∧
     (64 ≤ fn ∨ (if fn = 0 then 2048 else 48) ≤ vec →
      exec (.registerWrite (.msixMask p fn vec) val) s = .next s ∧ exec (.msixUnmask p fn vec) s = .next s)) ∧
    (64 ≤ fn → exec (.xword p fn val) s = .next s) ∧
    (fn < 64 → s.jobOf (named / 4) = none ∨ s.jobOf (named / 4) = some b ∧ s.launchRights p fn (pktAsid b.words) = true →
      ∃ t, exec (.xword p fn val) s = .next t ∧ t.mem = s.mem ∧ (t.strand named).ext = some ((s.strand named).ext.getD 0 ||| val) ∧
        (t.strand named).arch = (s.strand named).arch ∧ ∀ i, i ≠ named → t.strand i = s.strand i) ∧
    (s.jobOf (named / 4) = some b → s.launchRights p fn (pktAsid b.words) = false → exec (.xword p fn val) s = .next s)

/-- R17, R20, R38, R40, R46, R72, R112, R114, R369, R460: a load wait becomes BLOCKED, the watchdog and EXTERNAL reach their strands, a
pre-empt's deadline stops them, a delegated trap is recorded, dispatched and reloaded, or taken on the strand itself where its handler
strand is no longer DORMANT, and an encoding that means nothing traps, or ends the table command with its status. -/
def Obligations.StrandEventsStep : Prop :=
  ∀ (s u : State) (sid eid i h d job v : Nat) (word : Word) (b : Job) (p : Pend),
    let k := s.strand sid
    let a := k.arch
    let c := s.core eid
    let others := fun (t : State) (l : List Nat) => t.mem = s.mem ∧ ∀ n, n ∉ l → t.strand n = s.strand n
    (k.st = .active → 24 ≤ k.waited → k.wait ≠ .none → ∃ t, exec (.loadWaitSwitch sid) s = .next t ∧ others t [sid] ∧
      t.strand sid = { k with st := .blocked, waited := 0 } ∧ (t.core (sid / 4)).wcount = 0) ∧
    (k.st = .blocked → k.wait = .result v → k.pend.find? (fun p => p.id == v) = some p → p.due = some d → d ≤ s.cycleOf sid → k.preempt = false →
      ∃ t, exec (.loadWaitSwitch sid) s = .next t ∧ others t [sid] ∧
        t.strand sid = { k with st := .ready, stamp := d, yielded := false, wait := .none, waited := 0, why := .none }) ∧
    (c.wdog ≠ 0 → c.wdog.toNat ≤ c.wcount → i < 4 → (s.strand (4 * eid + i)).st = .active →
      (∀ j, j < i → (s.strand (4 * eid + j)).st ≠ .active) → ∃ t, exec (.watchdog eid) s = .next t ∧ others t [4 * eid + i] ∧
        t.strand (4 * eid + i) = { s.strand (4 * eid + i) with wdog := true } ∧ (t.core eid).wcount = 0) ∧
    (c.wdog = 0 → exec (.watchdog eid) s = .next s) ∧
    (k.ext.isSome = true → k.st = .blocked → k.wait = .event → a.ie = true → ∃ t, exec (.external { sid := sid, word := none }) s = .next t ∧
      others t [sid] ∧
      (t.strand sid).ext = k.ext ∧ (t.strand sid).st ≠ .blocked ∧ (k.preempt = false → (t.strand sid).st = .ready)) ∧
    (∃ t, exec (.external { sid := sid, word := some word }) s = .next t ∧ others t [sid] ∧ (t.strand sid).arch = a ∧
      (t.strand sid).ext = some (k.ext.getD 0 ||| word) ∧
      (k.st = .blocked → k.wait = .event → a.ie = true → (t.strand sid).st ≠ .blocked)) ∧
    (s.job job = some b → b.preempt = true → b.cores.Nodup → sid ∈ b.sids → k.preempt = true →
      ∃ t, exec (.preemptDeadline job) s = .next t ∧ others t b.sids ∧
        (k.owesReply = true → t.strand sid = k) ∧
        (k.owesReply = false → k.st = .active ∨ k.st = .ready → a.prv ≠ 0 → t.strand sid = { k with forced := true }) ∧
        (k.owesReply = false → k.st = .active ∨ k.st = .ready → a.prv = 0 →
          t.strand sid = { k with st := .held, prior := k.st, why := .preempted, dispatched := false, wait := .none, waited := 0 }) ∧
        (k.owesReply = false → k.st = .held → k.why = .delegated h → t.strand sid = { k with why := .preempted })) ∧
    (let rec_ := packWords (ctxWords a (ctxInfo k.sent (sid % 4) a .active))
     k.why = .delegated h → h ≠ sid → (s.strand h).st = .dormant →
      s.coreStore (sid / 4) (s.core (sid / 4)).asid a.wld rec_ (pieces a.ctxbase 512) = (u, .value v) →
      ∃ t, exec (.delegatedDispatch sid) s = .next t ∧ t.mem = u.mem ∧ (∀ n, n ≠ h → t.strand n = u.strand n) ∧
        (t.strand h).st = .ready ∧ (t.strand h).dispatched = true ∧ (t.strand h).origin = .delegated sid ∧
        (t.strand h).arch.cause = a.cause ∧ (t.strand h).arch.epc = a.epc ∧ (t.strand h).arch.eval = a.eval ∧
        (t.strand h).arch.pc = a.tvec &&& ~~~(0xFF : Word) ∧ (t.strand h).arch.getX 4 = a.ctxbase ∧
        (t.strand h).arch.getX 5 = BitVec.ofNat 64 (sid % 4) ∧ (t.strand h).arch.prv = 1 ∧ (t.strand h).arch.wld = a.wld) ∧
    (k.why = .delegated h → (s.strand h).st ≠ .dormant → (s.core (sid / 4)).swq = [] → k.preempt = false →
      ∃ t, exec (.delegatedDispatch sid) s = .next t ∧ others t [sid] ∧ (t.strand sid).st = .ready ∧
        (t.strand sid).arch = { a with status := statusOnTrap a.status, pc := a.tvec &&& ~~~(0xFF : Word) }) ∧
    (k.why = .delegated h → k.reread = some v →
      ∃ t, exec (.delegatedReload sid) s = .next t ∧ others t [sid] ∧
        (t.strand sid).arch = reload (k.land (s.cycleOf sid)).arch v ∧ (t.strand sid).why ≠ .delegated h ∧
        (k.preempt = false → (t.strand sid).st = .ready)) ∧
    Traps (.reservedEncoding .misaligned) s cMisaligned 0 ∧ Traps (.reservedEncoding .cWord) s cIllegal 0x10000 ∧
    Traps (.reservedEncoding .aWord) s cIllegal 0x20000 ∧ Traps (.reservedEncoding .pair) s cIllegal 0x30000 ∧
    (s.takeCmd d (fun n => !s.cmdFormed d n) = some (u, i) → EndsCommand (.reservedEncoding (.tableCmd d)) s u d i 4)

/-! ## The table agent (R264-R268, R357, R366-R384, R404) -/

/-- R266-R268, R357, R369, R372-R374, R376: faults are opened and recorded, the side log takes stores and replays them, the dirty log is
merged, walks fill the TLB, commands are taken in turn, INVAL empties a range of the TLB, and RESOLVE lets go, or refuses, what a fault holds. -/
def Obligations.FaultsAreServed : Prop :=
  ∀ (s u w : State) (sid eid asid region d i size data v : Nat) (gva : Word) (kind : FaultKind) (rel : Bool) (e : SideEntry) (p : Piece)
    (ps : List Piece) (f : OpenFault) (g : Page) (l : Leaf),
    let c := s.core eid
    let core := s.core (sid / 4)
    let by_ := s.faultAsid (sid / 4) gva
    let dg := gvaDie gva
    let tail := s.hbm64 dg (TA + 0x18)
    let rec_ := recordAt tail.toNat
    let first := BitVec.ofNat 64 (f.region * 2 ^ 16)
    let inRange := fun (q : TlbEntry) =>
      let all := u.cmdWord d i 2 == 0
      q.asid == u.cmdAsid d i && meet (q.page * 2 ^ q.size) (2 ^ q.size) (if all then 0 else gvaOff (u.cmdWord d i 1))
        (if all then 2 ^ 51 else (u.cmdWord d i 2).toNat)
    (core.side.length < 32 → (∀ q ∈ core.side, q.id ≠ s.fresh) → pieces gva size = p :: ps →
      ∃ t, exec (.sideLogRetire sid gva size data rel) s = .next t ∧ t.mem = s.mem ∧
      t.strands = s.strands ∧
      (t.core (sid / 4)).side = core.side ++ [sideEntry s.fresh (sid % 4) core.asid (s.strand sid).arch.wld rel none p data] ∧
      t.flight = s.flight ++ [.faultOpen (4 * (sid / 4) + sid % 4) gva .store]) ∧
    (c.side.find? (fun q => q.line.toNat / 2 ^ 16 == region) = some e → e.red = none → e.denied = false →
      sidePieces e = [(p, data)] →
      let told := fun (t : State) (code : Nat) (g : Word) => t.mem = u.mem ∧ (t.core eid).side = (u.core eid).side.erase e ∧
        Ev.sideLogReplay eid region ∈ t.flight ∧ (t.strand (4 * eid + e.snum)).posted =
          (u.strand (4 * eid + e.snum)).posted ++ [{ code := BitVec.ofNat 8 code, eval := g, epc := none, acc := 0 }]
      (s.coreStore eid e.asid e.wld data [p] = (u, .value v) → ∃ t, exec (.sideLogReplay eid region) s = .next t ∧ t.mem = u.mem ∧
        (t.core eid).side = (u.core eid).side.erase e ∧ Ev.sideLogReplay eid region ∈ t.flight) ∧
      (s.coreStore eid e.asid e.wld data [p] = (u, .unmapped gva) →
        exec (.sideLogReplay eid region) s = .next { u with flight := u.flight ++ [.faultOpen (4 * eid + e.snum) e.line .store] }) ∧
      (s.coreStore eid e.asid e.wld data [p] = (u, .denied gva) → ∃ t, exec (.sideLogReplay eid region) s = .next t ∧ told t cAccess gva) ∧
      (s.coreStore eid e.asid e.wld data [p] = (u, .poison gva) → ∃ t, exec (.sideLogReplay eid region) s = .next t ∧ told t cLoadFault gva)) ∧
    (c.side = [e] → e.line.toNat / 2 ^ 16 = region → e.denied = true → ∃ t, exec (.sideLogReplay eid region) s = .next t ∧ t.mem = s.mem ∧
      (t.core eid).side = [] ∧ (t.strand (4 * eid + e.snum)).posted = (s.strand (4 * eid + e.snum)).posted ++
        [{ code := BitVec.ofNat 8 cAccess, eval := sideFirst e, epc := none, acc := 0 }]) ∧
    ((s.die dg).faults.find? (OpenFault.isFor by_ (regionOf gva)) = none → s.awaits (sid / 4) by_ (regionOf gva) = true →
      (tail - s.hbm64 dg (TA + 0x20)).toNat < 1024 → ∃ t, exec (.faultOpen sid gva kind) s = .next t ∧
        t.hbm64 dg rec_ = (gva &&& ~~~(0xFFFF : Word)) + by_.zeroExtend 64 ∧
        t.hbm64 dg (rec_ + 8) = BitVec.ofNat 64 (sid / 4 + sid % 4 * 2 ^ 22 + faultCode kind * 2 ^ 24 + (if faultWrites kind then 2 ^ 28 else 0)) ∧
        t.hbm64 dg (TA + 0x18) = tail + 1 ∧
        (t.die dg).faults = (s.die dg).faults ++ [{ num := some tail.toNat, asid := by_, region := regionOf gva, held := [] }] ∧
        ((s.hbm64 dg (TA + 0x10)).getLsbD 63 = false → t.strands = s.strands)) ∧
    ((s.die dg).faults.find? (OpenFault.isFor by_ (regionOf gva)) = some f →
      (f.num.isSome = true ∨ s.wanted f = false → exec (.faultOpen sid gva kind) s = .next s) ∧
      (f.num = none → s.wanted f = true → (tail - s.hbm64 dg (TA + 0x20)).toNat < 1024 → ∃ t, exec (.faultOpen sid gva kind) s = .next t ∧
        t.hbm64 dg (TA + 0x18) = tail + 1 ∧
        { num := some tail.toNat, asid := by_, region := regionOf gva, held := f.held } ∈ (t.die dg).faults)) ∧
    ((s.die dg).tlb.find? (fun q => q.hits (BitVec.ofNat 16 asid) (gvaOff gva)) = none →
      (s.walk dg (BitVec.ofNat 16 asid) (gvaOff gva) = none → exec (.tlbWalk asid gva) s = .next s) ∧
      (s.walk dg (BitVec.ofNat 16 asid) (gvaOff gva) = some l →
        (leafPlace dg l.size l.word (fun c => (s.cluster (dg * 16 + c)).pinw.toNat) 0).isSome = true →
        ∃ t, exec (.tlbWalk asid gva) s = .next t ∧ t.strands = s.strands ∧ (t.die dg).tlb.head? =
          some { asid := BitVec.ofNat 16 asid, size := l.size, page := gvaOff gva / 2 ^ l.size, leaf := l.word, loaded := l.word, at_ := l.at_ })) ∧
    (let entry : Word := BitVec.ofNat 64 (s.readAt (.tile (eid / 512) (eid / 32 % 16) (eid / 2 % 16) (0xFE000 + 0x1000 * (eid % 2)) 6) 8)
     c.dirtyN = 1 → s.walk (gvaDie entry) c.asid (gvaOff (entry &&& ~~~(0xFFFF : Word))) = some l →
      ∃ t, exec (.dirtyLogMerge eid) s = .next t ∧ t.strands = s.strands ∧ (t.core eid).dirtyN = 0 ∧
        t.hbm64 (gvaDie entry) l.at_ = putBit l.word 6 true) ∧
    ((s.die d).cmd = some i → s.cmdWord d i v = (s.die d).cmdw.getD v 0) ∧
    ((s.die d).cmd = some i → s.isCmd d v i = true → s.takeCmd d (s.isCmd d v) = some (s, i)) ∧
    ((s.die d).cmd = none → s.chead d ≠ s.ctail d → s.isCmd d v (s.chead d).toNat = true →
      ∃ t, s.takeCmd d (s.isCmd d v) = some (t, (s.chead d).toNat) ∧ t.chead d = s.chead d + 1 ∧ t.strands = s.strands ∧
        (t.die d).cmd = some (s.chead d).toNat ∧ (t.die d).cmdw = [0, 1, 2, 3].map (s.cmdWord d (s.chead d).toNat)) ∧
    (s.takeCmd d (s.isCmd d 1) = some (u, i) →
      (let all := u.cmdWord d i 2 == 0
       let lo := if all then 0 else gvaOff (u.cmdWord d i 1)
       let n := if all then 2 ^ 51 else (u.cmdWord d i 2).toNat
       u.moving d (u.cmdAsid d i) lo n = false → u.engineHolds d (u.cmdAsid d i) lo n = false →
        (∃ t, exec (.inval d) s = .next t ∧ (t.die d).tlb = ((u.die d).tlb.filter fun q => !inRange q) ∧
          (t.die d).walks = (u.die d).walks.filter fun q =>
            !(q.asid == u.cmdAsid d i && meet (q.index * 2 ^ q.shift) (2 ^ q.shift) lo n)) ∧
        EndsCommand (.inval d) s (u.tlbDrop d (u.cmdAsid d i) lo n) d i 1)) ∧
    (s.takeCmd d (s.isCmd d 2) = some (u, i) →
      ((u.die d).faults.find? (fun q => q.num == some (u.cmdWord d i 1).toNat) = none → EndsCommand (.resolve d) s u d i 1) ∧
      ((u.die d).faults.find? (fun q => q.num == some (u.cmdWord d i 1).toNat) = some f →
        u.moving d f.asid (f.region % 2 ^ 35 * 2 ^ 16) (2 ^ 16) = false →
        (u.wanted f = false → ∃ t, exec (.resolve d) s = .next t ∧ (∀ q ∈ (t.die d).faults, q.isFor f.asid f.region = false) ∧
          Mem.byte t.mem ((Place.hbm d (slotAt i + 1) false).key 0) = 1) ∧
        (u.wanted f = true → (u.cmdWord d i 2).getLsbD 0 = true → u.findPage f.asid first = (w, some g) → (w.pagePlace g first).isSome = true →
          EndsCommand (.resolve d) s (w.faultMapped d f) d i 1 ∧ ∃ t, exec (.resolve d) s = .next t ∧
            (∀ q ∈ f.held, q.2 ∈ t.flight) ∧ (∀ q ∈ (t.die d).faults, q.isFor f.asid f.region = false) ∧
            (∀ n j, n ∈ w.eids → j < 4 → (w.core n).asid = f.asid → heldIn f.region (w.strand (4 * n + j)) = true →
              (w.strand (4 * n + j)).preempt = false → (t.strand (4 * n + j)).st = .ready)) ∧
        (u.wanted f = true → (u.cmdWord d i 2).getLsbD 0 = false → ∃ t, exec (.resolve d) s = .next t ∧
          (∀ q ∈ (t.die d).faults, q.isFor f.asid f.region = false) ∧
          (∀ n j a, f.held = [(gva, .accessPerformed n j)] → (u.core n).accs = [a] → a.id = j → a.bad = none → (∀ m, (u.core m).side = []) →
            (∀ q ∈ u.dies, ∀ o ∈ q.2.faults, (q.1 = d ∧ o.isFor f.asid f.region = true) ∨ ∀ x ∈ o.held, x.2 ≠ .accessPerformed n j) →
            (t.core n).accs = [{ a with held := false, bad := some (BitVec.ofNat 64 (lowestIn (regionOf gva) a.pieces)) }] ∧
              Ev.accessPerformed n j ∈ t.flight))))

/-- R377-R384, R404: MIGRATE makes the copy of a page and its commit rewrites the leaf, or abandons the move; SCRUB advances an agent's
generation and takes it out of use until RESET_AGENT; WSYNC loads the hardware copy of the world table. -/
def Obligations.PagesMoveAndAgentsReset : Prop :=
  ∀ (s u w : State) (d i slot a : Nat) (p : Page) (src tgt : Place) (m : Mig) (l : Leaf),
    let asid := u.cmdAsid d i
    let g := u.cmdWord d i 1
    let leaf := u.cmdWord d i 2
    let dst := d / 8 * 8 + (u.cmdWord d i 3).toNat % 8
    let base := g &&& ~~~(BitVec.ofNat 64 (2 ^ p.size - 1))
    let agent := (u.cmdWord d i 1).toNat
    let table := fun (o : Nat) => u.hbm64 d (TA + 0x300000 + o)
    (s.takeCmd d (s.isCmd d 3) = some (u, i) → (u.die d).migs.length < 16 → u.moving d asid (gvaOff g) 1 = false →
      (gvaDie g ≠ d → EndsCommand (.migrate d) s u d i 3) ∧
      (gvaDie g = d → u.findPage asid g = (w, none) → EndsCommand (.migrate d) s w d i 3) ∧
      (gvaDie g = d → u.findPage asid g = (w, some p) → w.pagePlace p base = some src → w.newPlace dst p.size leaf = some tgt →
        (w.mayMove d dst asid base p leaf = false → EndsCommand (.migrate d) s w d i 3) ∧
        (w.mayMove d dst asid base p leaf = true → ∃ t, exec (.migrate d) s = .next t ∧ t.strands = s.strands ∧
          t.mem = (w.copyBytes src tgt (2 ^ p.size)).mem ∧ Ev.migrateCommit d i ∈ t.flight ∧ (t.die d).cmd = none ∧
          (t.die d).migs = (w.die d).migs ++ [⟨i, asid, base, p.size, leaf, dst, field p.leaf 40 24, w.dieTime d, false,
            (u.cmdWord d i 0).getLsbD 32⟩] ∧
          (∀ e b o, tgt = .hbm e b o → (∀ x y, x < 2 ^ p.size → y < 2 ^ p.size → src.key x ≠ tgt.key y) →
            ∀ x, x < 2 ^ p.size → Mem.byte t.mem (tgt.key x) = Mem.byte w.mem (src.key x))))) ∧
    ((s.die d).migs.find? (fun q => q.slot == slot) = some m → m.slot = slot → s.findPage m.asid m.gva = (u, some p) →
      (u.engineHolds d m.asid (gvaOff m.gva) (2 ^ m.size) = false → field p.leaf 40 24 ≠ m.wv ∨ m.host = true ∨ 2 ^ 18 < u.dieTime d - m.start →
        ∃ t, exec (.migrateCommit d slot) s = .next t ∧ (∀ q ∈ (t.die d).migs, q.slot ≠ slot) ∧
          t.hbm64 d (TA + 0x30) = u.hbm64 d (TA + 0x30) + 1 ∧ Mem.byte t.mem ((Place.hbm d (slotAt slot + 1) false).key 0) = 2) ∧
      (u.engineHolds d m.asid (gvaOff m.gva) (2 ^ m.size) = false → field p.leaf 40 24 = m.wv → m.host = false → u.dieTime d - m.start ≤ 2 ^ 18 →
        p.size = m.size → m.dst = d →
        (u.walk d m.asid (gvaOff m.gva) = some l → l.at_ + 8 ≤ TA → (∀ q ∈ u.dies, ∀ x ∈ q.2.lines, x.dirty = none) →
          ∃ t, exec (.migrateCommit d slot) s = .next t ∧ (∀ q ∈ (t.die d).migs, q.slot ≠ slot) ∧
            t.hbm64 d l.at_ = putField m.leaf 40 24 m.wv ∧ Mem.byte t.mem ((Place.hbm d (slotAt slot + 1) false).key 0) = 1) ∧
        (∀ (n : Nat) (way : Bool) (x : Line), let old := fun (y : Line) => meet (y.line * 128) 128 n (2 ^ m.size)
          u.pagePlace p m.gva = some (.hbm d n way) → (u.die d).lines = [x] → x.dirty.isSome = true → old x = true →
          (∀ e ∈ (u.die d).tlb, e.leaf = e.loaded) → (u.discardLines d old).walk d m.asid (gvaOff m.gva) = some l → l.at_ + 8 ≤ TA →
          x.line * 128 + 128 ≤ TA → meet l.at_ 8 (x.line * 128) 128 = false →
          ∃ t, exec (.migrateCommit d slot) s = .next t ∧ ∀ y, y < 128 →
            Mem.byte t.mem ((Place.hbm d (x.line * 128) way).key y) = x.back.extractLsb' (8 * y) 8))) ∧
    (s.takeCmd d (s.isCmd d 4) = some (u, i) →
      (0x438 < agent → EndsCommand (.scrub d) s u d i 3) ∧
      (agent < 0x420 → u.jobsOn (agentCores d agent) = [] → (∀ e ∈ (u.die d).tlb, e.at_ + 8 ≤ TA) →
        ∃ t, exec (.scrub d) s = .next t ∧ t.genTable d agent = u.genTable d agent + 1 ∧
        agent ∈ (t.die d).dead ∧ (t.die d).tlb = [] ∧ (t.die d).walks = [] ∧ (t.pkg (d / 8)).ready.getLsbD (agentBit d agent) = false ∧
        Mem.byte t.mem ((Place.hbm d (slotAt i + 1) false).key 0) = 1 ∧ (t.die d).migs = [] ∧
        (∀ e, (u.die d).tlb = [e] → e.leaf ≠ e.loaded → u.hbm64 d e.at_ = e.loaded → t.hbm64 d e.at_ = e.leaf) ∧
        (agent < 0x200 → let eid := d * 512 + agent
          (t.core eid).accs = [] ∧ (t.core eid).side = [] ∧ (t.core eid).reqs = [] ∧ (t.core eid).swq = [] ∧
          ∀ (x : Acc) (y : Piece) (r : List Piece), (u.core eid).accs = [x] → (u.core eid).reqs = [] → x.pieces = y :: r →
            (u.strand (4 * eid + x.snum)).st ≠ .off → (t.strand (4 * eid + x.snum)).posted =
              (u.strand (4 * eid + x.snum)).posted ++ [{ code := BitVec.ofNat 8 cAccess, eval := y.gva, epc := none, acc := 0 }]))) ∧
    (∃ t, exec (.resetAgent d a) s = .next t ∧ t.mem = s.mem ∧ (0x200 ≤ a → t.strands = s.strands) ∧ t.ownGen d a = s.genTable d a ∧
      a ∉ (t.die d).dead ∧
      ((∀ b ∈ (s.die d).dead, b ≠ a → agentBit d b ≠ agentBit d a) → agentBit d a < 128 →
        (t.pkg (d / 8)).ready.getLsbD (agentBit d a) = true ∧
        (msixNo 0 1 ∉ (s.pkg (d / 8)).msixMask → (t.pkg (d / 8)).msixSent = (s.pkg (d / 8)).msixSent ++ [msixNo 0 1]))) ∧
    (s.takeCmd d (s.isCmd d 5) = some (u, i) → ∃ t, exec (.wsync d) s = .next t ∧
      (t.die d).cmd = none ∧ Mem.byte t.mem ((Place.hbm d (slotAt i + 1) false).key 0) = 1 ∧
      (∀ r, r ∈ (t.die d).regions ↔ ∃ n, n < 64 ∧ (table (16 * n)).getLsbD 0 = true ∧
        r = { sec := (table (16 * n)).getLsbD 1, first := field (table (16 * n)) 16 24, last := field (table (16 * n + 8)) 16 24 }) ∧
      ∀ n, n < 512 → (t.die d).blocks.getLsbD n = (table (0x400 + 8 * (n / 64))).getLsbD (n % 64))

/-! ## Jobs (R16, R24-R26, R62, R72, R359-R365, R403, R441) -/

/-- R24-R26, R62, R72, R200, R330, R359-R364, R403, R441: packets are submitted and queued, candidates ask for reservations and become resident
on their cores; a pre-empted gang is written to its contexts and queued to resume, and is restored from them; a job that completes or is killed
stores DONEV and frees its cores. -/
def Obligations.JobsAreLaunchedSavedAndEnded : Prop :=
  ∀ (s u : State) (p q fn sid id a st n job from_ v : Nat) (w : List Word) (es : List (Nat × Nat)) (k : Packet) (r : List Packet) (b : Job)
    (l cores : List Nat) (t : List Word),
    let g := s.pkg p
    let win := g.window fn q
    let value := fun (_ : Reg) => BitVec.ofNat 4096 st
    let freed := fun (x : State) (cs : List Nat) => ∀ e, e ∈ cs → (x.core e).job = none ∧ ∀ i, i < 4 → (x.strand (4 * e + i)).st = .off
    (win.busy = true ∨ 64 ≤ fn ∨ 16 ≤ q → exec (.doorbell p fn q) s = .next s) ∧
    (win.busy = false → fn < 64 → q < 16 → ∃ x : State, exec (.doorbell p fn q) s = .next x ∧ x.mem = s.mem ∧ x.strands = s.strands ∧
      (x.pkg p).window fn q = { win with busy := true, nsub := win.nsub + 1 } ∧
      x.flight = s.flight ++ [.launchPacketArrival p q (.host fn) none win.buf]) ∧
    ((pktFormed w = false → s.submit p q (.job a) w = (s, some 3)) ∧
      (pktFormed w = true → pktNpkg w ≤ 16 → s.pktList p w ((plist w).take (pktNpkg w)) = none → s.submit p q (.job a) w = (s, some 3)) ∧
      (pktFormed w = true → pktNpkg w ≤ 16 → s.pktList p w ((plist w).take (pktNpkg w)) = some es →
        (s.aclAccepts p q (.job a) w = false → s.submit p q (.job a) w = (s, some 2)) ∧
        (s.aclAccepts p q (.job a) w = true → 32 ≤ (g.queue q).length → s.submit p q (.job a) w = (s, some 1)) ∧
        (s.aclAccepts p q (.job a) w = true → (g.queue q).length < 32 → ∃ x : State, s.submit p q (.job a) w = (x, some 0) ∧
          (x.pkg p).queue q = g.queue q ++ [{ words := w, list := es, src := .job a, arrival := s.fresh, ticks := 0, resume := none }] ∧
          x.mem = s.mem ∧ x.strands = s.strands ∧ x.flight = s.flight)) ∧
      ∀ ws : List Nat, ws ≠ [0] →
        let asks := fun (i : Nat) (y : List Nat) => ((y.filter fun e => e % 2 ^ 10 == i).map fun e => e / 2 ^ 16).sum
        ((∃ e ∈ ws, e / 2 ^ 10 % 64 ≠ 0 ∨ s.pkgCores (e % 2 ^ 10) < e / 2 ^ 16) ∨ (ws.map fun e => e / 2 ^ 16).sum ≠ pktN w →
          s.pktList p w ws = none) ∧
        ((∀ e ∈ ws, e / 2 ^ 10 % 64 = 0 ∧ e / 2 ^ 16 ≤ s.pkgCores (e % 2 ^ 10)) → (ws.map fun e => e / 2 ^ 16).sum = pktN w →
          ∃ y, s.pktList p w ws = some y ∧ (y.map (·.1)).Nodup ∧ ∀ i, ((y.filter fun e => e.1 == i).map (·.2)).sum = asks i ws)) ∧
    (g.ready.getLsbD 76 = false → s.gone p 76 = true →
      (∃ x : State, exec (.launchPacketArrival p q (.job a) (some (sid, id)) w) s = .next x ∧ x.mem = s.mem ∧ (x.strand sid).posted =
        (s.strand sid).posted ++ [{ code := BitVec.ofNat 8 cAccess, eval := BitVec.ofNat 64 (p * 4096), epc := none, acc := 0 }]) ∧
      ∃ x : State, exec (.launchPacketArrival p q (.host fn) none w) s = .next x ∧ (x.pkg p).window fn q = { win with st := 2, busy := false }) ∧
    (g.ready.getLsbD 76 = true → s.submit p q (.job a) w = (u, some st) →
      (st ≠ 0 → ∃ x : State, exec (.launchPacketArrival p q (.job a) (some (sid, id)) w) s = .next x ∧ x.mem = u.mem ∧ x.pkgs = u.pkgs ∧
        (x.strand sid).pend = fillPend (u.cycleOf sid) id value (u.strand sid).pend) ∧
      (st = 0 → ∃ x : State, exec (.launchPacketArrival p q (.job a) (some (sid, id)) w) s = .next (x.consider p) ∧ x.mem = u.mem ∧ x.pkgs = u.pkgs ∧
        (x.strand sid).pend = fillPend (u.cycleOf sid) id value (u.strand sid).pend)) ∧
    (g.ready.getLsbD 76 = true → s.submit p q (.host fn) w = (u, some st) → st ≠ 0 →
      ∃ x : State, exec (.launchPacketArrival p q (.host fn) none w) s = .next x ∧ x.mem = u.mem ∧
        (x.pkg p).window fn q = { (u.pkg p).window fn q with st := st, busy := false }) ∧
    (∃ x : State, exec (.placementTick p) s = .next (x.consider p) ∧ x.mem = s.mem ∧ x.strands = s.strands ∧ (x.pkg p).clock = g.clock + 1 ∧
      (g.queue q = k :: r → (x.pkg p).queue q = { k with ticks := k.ticks + 1 } :: r)) ∧
    exec (.launchRetry p q) s = .next (if g.queue q = [] then s else s.consider p) ∧
    (g.stopped = true ∨ g.ready.getLsbD 76 = false ∨ s.candidates p = [] → s.consider p = s) ∧
    (g.stopped = false → g.ready.getLsbD 76 = true → (∀ i, Ev.residence p i ∉ s.flight) → firstOf (s.candidates p) = some (q, k) →
      (∀ e ∈ k.list, s.neverHolds e.1 e.2 (pktPair k.words) = false) → s.consider p =
        { s with flight := s.flight ++ (k.list.map fun e => Ev.placementReservation e.1 p q .reserve e.2) ++ [.residence p q] }) ∧
    (g.ready.getLsbD 76 = true → s.gone p 76 = false → (s.pkg from_).queue q = k :: r →
      let pick := s.pickCores p n (pktPair k.words) (fun d => s.dieOpen d [] (· == resvKey from_ q)) s.freeCore
      (g.stopped = false → pick = some l →
        ∃ x : State, exec (.placementReservation p from_ q .reserve n) s = .next x ∧ x.mem = s.mem ∧ x.strands = s.strands ∧
          Map.find (x.pkg p).held (resvKey from_ q) = some l) ∧
      (g.stopped = true ∨ pick = none →
        ∃ x : State, exec (.placementReservation p from_ q .reserve n) s = .next x ∧ Map.find (x.pkg p).held (resvKey from_ q) = some [])) ∧
    (∃ x : State, exec (.placementReservation p from_ q .release n) s = .next x ∧ Map.find (x.pkg p).held (resvKey from_ q) = none ∧
      exec (.placementReservation p from_ q .commit n) s = .next x) ∧
    (∀ d : Nat, 256 ≤ s.setsOn d [] (fun _ => false) → s.dieOpen d [] (fun _ => false) = false) ∧
    (let list := s.victims k
     let fits := fun (y : List Nat) => s.fitsWithout p q k y
     let chosen := s.chooseVictims p q k (list.map (·.1))
     (∀ y ∈ list, y ∈ s.jobs ∧ pktPrio y.2.words < pktPrio k.words ∧ pktNp y.2.words = false ∧ y.2.preempt = false ∧
       ∃ e ∈ y.2.cores, ∃ h ∈ k.list, h.1 = e / 4096) ∧
     list.Pairwise (fun x y => pktPrio x.2.words < pktPrio y.2.words ∨ pktPrio x.2.words = pktPrio y.2.words ∧ y.2.order ≤ x.2.order) ∧
     (∀ y, y.Sublist (list.map (·.1)) → fits y = true → fits chosen = true ∧ chosen.length ≤ y.length) ∧
     (g.queue q = k :: r → k.resume = none → s.reservedCores p q k = some cores → cores.length ≠ pktN k.words → pktPe k.words = true →
       ∃ x : State, exec (.residence p q) s = .next (x.consider p) ∧ ∀ j ∈ chosen, s.job j = some b → b.preempt = false → b.cores ≠ [] →
         x.job j = some { b with preempt := true } ∧ Ev.contextSave j ∈ x.flight ∧ Ev.preemptDeadline j ∈ x.flight)) ∧
    (g.queue q = k :: r → k.resume = none → s.reservedCores p q k = some cores →
      (cores.length ≠ pktN k.words → ∃ x : State, exec (.residence p q) s = .next (x.consider p) ∧ Ev.launchRetry p q ∈ x.flight) ∧
      (s.jobFor p q k cores = some (job, b) → cores.length = pktN k.words → s.planeOpen b = true → g.stopped = false → cores.Nodup →
        (∀ e ∈ cores, (s.cluster (e / 32)).gated = false ∧ s.setsOn (e / 512) [] (fun _ => false) ≤ 256) → s.template p k = (u, .ok t) →
        ∃ x : State, exec (.residence p q) s = .next (x.consider p) ∧ x.mem = u.mem ∧ (x.pkg p).queue q = ((u.pkg p).queue q).drop 1 ∧
          x.job job = some b ∧ Ev.tokenPass job ∈ x.flight ∧
          ∀ j i e, j < cores.length → i < 4 → e = cores.getD j 0 →
            (x.core e).job = some job ∧ (x.core e).lcn = BitVec.ofNat 22 j ∧ (x.core e).asid = b.asid ∧
            (x.strand (4 * e + i)).worker = decide (i < pktW k.words) ∧
            (x.strand (4 * e + i)).st = (if i < pktW k.words then .ready else .dormant) ∧
            (i < pktW k.words → (x.strand (4 * e + i)).arch.pc = pktEntry k.words ∧
              (x.strand (4 * e + i)).arch.mbidx = BitVec.ofNat 32 (j * pktW k.words + i)) ∧
            (x.strand (4 * e + i)).arch.rstop = tmplRsb t (4 * j + i) ∧ (x.strand (4 * e + i)).arch.ctxbase = tmplCtx t (4 * j + i))) ∧
    (∀ ls : List (List Nat), let of_ := fun (j i : Nat) => (ls.getD j []).getD i 0
     let back : Job := { b with cores := cores, order := s.fresh }
     g.queue q = k :: r → k.resume = some job → s.job job = some b → s.reservedCores p q k = some cores → cores.length = pktN k.words →
      s.planeOpen back = true → g.stopped = false → cores.Nodup →
      (∀ e ∈ cores, (s.cluster (e / 32)).gated = false ∧ s.setsOn (e / 512) [] (fun _ => false) ≤ 256) →
      s.readSaved back (List.range cores.length) = (u, .ok ls) →
      (∀ j i, j < cores.length → i < b.w → of_ j (6 + i) % 2 ^ 32 ≤ laneH b.w) →
      ∃ x : State, exec (.residence p q) s = .next (x.consider p) ∧ x.mem = u.mem ∧ (x.pkg p).queue q = ((u.pkg p).queue q).drop 1 ∧
        x.job job = some { back with saved := [], ctx := [], sems := [] } ∧ Ev.tokenPass job ∈ x.flight ∧
        ∀ j e, j < cores.length → e = cores.getD j 0 →
          (x.core e).job = some job ∧ (x.core e).lcn = BitVec.ofNat 22 j ∧ (x.core e).asid = b.asid ∧
          (x.core e).swq.length = of_ j 5 % 2 ^ 32 ∧ (x.core e).cnt = (wordAt (of_ j 6) 1).toInt ∧
          (e % 2 = 1 → b.saved.getD j 0 % 2 = 1 → (x.matrix (e / 2)).palette = wordAt (of_ j 4) 0) ∧
          (∀ i, i < b.w → (x.strand (4 * e + i)).lane.map (fun h => [h.w0, h.fr, h.a0, h.a1]) =
            (List.range (of_ j (6 + i) % 2 ^ 32)).map fun h => (List.range 4).map fun y => wordAt (of_ j (6 + i)) (8 + 4 * h + y)) ∧
          ∀ i, i < 4 →
            let rec_ := of_ j i
            let y := x.strand (4 * e + i)
            let code := (wordAt rec_ 1).toNat % 8
            y.st = (if code = 0 then .off else if code = 1 then .dormant else .ready) ∧ y.sent = (wordAt rec_ 1).getLsbD 6 ∧
            y.arch.pc = wordAt rec_ 0 &&& ~~~(3 : Word) ∧ y.arch.status = wordAt rec_ 2 &&& 0x1FF ∧
            (∀ h, h < 31 → y.arch.getX (BitVec.ofNat 5 (h + 1)) = wordAt rec_ (33 + h)) ∧
            (∀ h, h < 16 → y.arch.getV (BitVec.ofNat 4 h) = BitVec.ofNat 4096 (rec_ / 2 ^ (8 * (0x700 + 512 * h)))) ∧
            (∀ h, 0 < h → h < 8 → y.arch.getM (BitVec.ofNat 3 h) = BitVec.ofNat 1024 (rec_ / 2 ^ (8 * (0x300 + 128 * h)))) ∧
            y.arch.depth = (wordAt rec_ 13).setWidth 32 ∧ y.arch.cseq = (wordAt rec_ 15).setWidth 16 ∧
            y.arch.ctxbase = b.ctx.getD (4 * j + i) 0 ∧ y.arch.ev = true) ∧
    (let saved := fun (y : State) => y = { s with strands := y.strands, flight := (s.dropKept b.cores).flight } ∧
       ∀ i, y.strand i = if i ∈ b.sids then (s.strand i).folded else s.strand i
     s.job job = some b → b.preempt = true → b.cores ≠ [] → b.cores.Nodup → b.members.all b.returned.contains = false →
      (∀ i ∈ b.sids, (s.strand i).pend = [] ∧ (s.strand i).posted = [] ∧ (s.strand i).midUnit = false ∧
        ((s.strand i).st = .off ∨ (s.strand i).st = .dormant ∨ (s.strand i).st = .held ∧ (s.strand i).why = .preempted)) →
      (∀ e ∈ b.cores, (s.core e).accs = [] ∧ (s.core e).side = [] ∧ (s.core e).reqs = []) → s.jobMoves b.cores job = false →
      s.isHeld (evOf b.cores job) = false → s.engineWork b.cores = false →
      ∃ y x : State, saved y ∧ exec (.contextSave job) s = .next x ∧
        (match y.writeContexts b b.cores with
         | (z, _, .value _) => ∃ u : State, x = u.considerAll ∧ u.mem = z.mem ∧ freed u b.cores ∧
            (∃ h rest, (u.pkg b.pkg).queue b.queue = h :: rest ∧ h.resume = some job ∧ h.words = b.words ∧ h.arrival = b.arrival) ∧
            ∃ c, u.job job = some c ∧ c.saved = b.cores ∧ c.cores = [] ∧ c.words = b.words ∧
              c.ctx = b.sids.map fun i => (y.strand i).arch.ctxbase
         | (z, i, .unmapped g) => x = z.holdEv i b.asid g .store (.contextSave job)
         | (z, i, .denied g) => x = (z.loseArea job i g).notYet
         | (z, i, .poison g) => x = (z.loseArea job i g).notYet
         | (z, _, .wait) => x = z.notYet)) ∧
    (let stores := fun (y : State) => pktDonea b.words = 0 ∧ u = y ∨ pktDonea b.words ≠ 0 ∧
       y.hwStore (b.cores.headD 0 / 32) b.asid (pktWld b.words) (pktDonev b.words).toNat (pieces (pktDonea b.words) 8) = (u, .value v)
     (∀ d i o, o.job = some job → Map.find ((s.dropObjects job b.asid).die d).objs i = some o → o.live = false) ∧
     (s.job job = some b → b.cores ≠ [] →
      (stores (s.dropObjects job b.asid) → b.members.all b.returned.contains = true → s.engineWork b.cores = false →
        (∀ e ∈ b.cores, (s.core e).accs = [] ∧ (s.core e).side = []) →
        ∃ x : State, exec (.jobCompletion job) s = .next x ∧ x = u.endJob job b ∧ x.job job = none ∧ freed x b.cores) ∧
      (∀ g : Word, pktDonea b.words ≠ 0 → (s.dropObjects job b.asid).hwStore (b.cores.headD 0 / 32) b.asid (pktWld b.words) (pktDonev b.words).toNat
          (pieces (pktDonea b.words) 8) = (u, .unmapped g) → b.members.all b.returned.contains = true → s.engineWork b.cores = false →
        (∀ e ∈ b.cores, (s.core e).accs = [] ∧ (s.core e).side = []) →
        exec (.jobCompletion job) s = .next (u.holdEv (4 * b.cores.headD 0) b.asid g .store (.jobCompletion job))) ∧
      (stores ((s.quiet job b.cores).dropObjects job b.asid) → (∀ e ∈ b.cores, ∀ r, (s.matrix (e / 2)).worker = some r → r.row = none) →
        ∃ x : State, exec (.kill job) s = .next x ∧ x = u.endJob job b ∧ x.job job = none ∧ freed x b.cores)))

/-! ## Energy, boost and power (R409-R427, R451) -/

/-- R204, R409, R411, R412, R415-R421, R425-R427, R451: buckets fill and charges are taken in order; a boundary refills the pool, charges and
claims permits; clocks switch at a quiesce point; clusters are gated and wake; marks, counts, settings and the power limit take effect. -/
def Obligations.PowerSteps : Prop :=
  ∀ (s : State) (c p hours val granule : Nat) (on : Bool) (h : Charge) (r : List Charge),
    let k := s.cluster c
    let g := s.pkg p
    let quiet := fun (t : State) => t.mem = s.mem ∧ t.strands = s.strands
    let only := fun (i : Instr) (f : Cluster) => ∃ t : State, exec i s = .next t ∧ quiet t ∧ t.flight = s.flight ∧ t.cluster c = f
    let now := k.runTo (s.clusterTime c)
    let die := granule * 8 / 2 ^ 44
    let kind := granule * 8 / 2 ^ 42 % 4
    let crossed := fun (f : Cluster → Cluster) (above : Bool) => ∃ t : State, exec (.powerLimitCrossing p above) s = .next t ∧ quiet t ∧
      (t.pkg p).limited = above ∧ ∀ i, i < s.dieCount p * 16 →
        t.cluster (p * 128 + i) = f ((s.cluster (p * 128 + i)).runTo (s.clusterTime (p * 128 + i)))
    (∃ t : State, exec (.energyRefill c) s = .next t ∧ quiet t ∧ (t.cluster c).time = k.time + 1 ∧
      ((∀ x ∈ k.charges, x.taken = true) → (t.cluster c).tokens = min 4096 (k.tokens + k.refill))) ∧
    (k.charges = [h] → h.sid = none → h.taken = false → now.charges = [h] → covers now.tokens h.cost = true →
      ∃ t : State, exec (.energyCharge c) s = .next t ∧ quiet t ∧
      (t.cluster c).tokens = now.tokens - h.cost ∧ ∃ x, (t.cluster c).charges = [x] ∧ x.taken = true ∧ x.req = h.req ∧ x.cost = h.cost) ∧
    ((∀ x ∈ now.charges, x.head = false) → only (.headCharge c) { now with charges := now.charges.map fun x =>
      if x.taken = false ∧ 64 ≤ now.time - x.since then { x with head := true } else x }) ∧
    (∀ (t : Nat) (bal : Int), let l := takeCharges (markHead t (h :: r)) bal
      h.taken = false → covers bal h.cost = false → 64 ≤ t - h.since → l.2 = bal ∧ ∀ x ∈ l.1, x.taken = true → x ∈ markHead t r) ∧
    only (.hotMark c on) { k with hot := on } ∧
    (let clock := if k.below = true ∧ k.level = 0 then 3 else k.level
     (clock ≠ k.clk → s.quiesced c = true → ∃ t : State, exec (.clockSwitch c) s = .next t ∧ quiet t ∧
       t.cluster c = { now with clk := clock, hold := none } ∧ Ev.quiesceTimeout c ∉ t.flight ∧
       (clock = 1 ∨ clock = 2 → (t.pkg (c / 128)).raised = true)) ∧
     (clock ≠ k.clk → Ev.clockSwitch c ∈ s.flight → ∃ t : State, exec (.quiesceTimeout c) s = .next t ∧ quiet t ∧
       t.cluster c = { k with hold := none } ∧ Ev.clockSwitch c ∉ t.flight ∧ (k.clk = 1 ∨ k.clk = 2 → (t.pkg (c / 128)).raised = true))) ∧
    ((∀ i, i < 32 → (s.core (c * 32 + i)).job = none) → (∀ l ∈ (s.die (c / 16)).lines, l.dirty ≠ some (c % 16)) →
      k.gather = Engine.reset → k.sortc = Engine.reset →
      (∀ i, i < 16 → (s.tile (c * 16 + i)).copy = Engine.reset ∧ (s.tile (c * 16 + i)).matrix = Matrix.reset) →
      only (.clusterGate c) { now with gated := true, level := 0, clk := 0, grace := false, below := false, hold := none }) ∧
    (∀ i, i < 32 → (s.core (c * 32 + i)).job.isSome = true → exec (.clusterGate c) s = .next s) ∧
    only (.clusterWake c) { k with gated := false } ∧
    only (.vernierMeasure c hours) { k with vlim := k.vlim || hours < 8760, retd := k.retd || hours < 2000 } ∧
    (∃ t : State, exec (.almanacWrite p) s = .next t ∧ quiet t ∧ t.pkg p = { g with almanac := g.counts }) ∧
    (∃ t : State, exec (.patrolScrub granule true) s = .next t ∧ quiet t ∧ granule ∈ t.poison ∧
      Map.get 0 (t.pkg (die / 8)).counts almHard = Map.get 0 (s.pkg (die / 8)).counts almHard + 1) ∧
    (∃ t : State, exec (.patrolScrub granule false) s = .next t ∧ quiet t ∧ t.poison = s.poison ∧
      Map.get 0 (t.pkg (die / 8)).counts (almSoft die kind) = Map.get 0 (s.pkg (die / 8)).counts (almSoft die kind) + 1) ∧
    (∃ n, crossed (fun x => { x with refill := x.refill - min n x.refill, cut := x.cut + min n x.refill }) true) ∧
    crossed (fun x => { x with refill := min 64 (x.refill + x.cut), cut := 0 }) false ∧
    (∀ what, ∃ t : State, exec (.powerManagerSetting p what val) s = .next t ∧ quiet t ∧
      (what = .pool → (t.pkg p).pool = min g.pcap val) ∧
      (what = .pcap → (t.pkg p).pcap = val % 2 ^ 32 ∧ (t.pkg p).pool = min g.pool (val % 2 ^ 32)) ∧ (what = .rf → (t.pkg p).rf = val) ∧
      (what = .refill c → t.cluster c = { now with refill := min 64 val, cut := 0 }) ∧
      (what = .belowNominal c → (t.cluster c).below = true ∧ (t.cluster c).level = 0 ∧ (t.cluster c).grace = false ∧
        (t.cluster c).clk = k.clk ∧ (k.clk ≠ 3 → Ev.clockSwitch c ∈ t.flight))) ∧
    (let free := if g.raised || (s.cluster (p * 128)).clk == 1 || (s.cluster (p * 128)).clk == 2 then g.pool else min g.pcap (g.pool + g.rf)
     let x := p * 128
     (∃ t : State, exec (.boostBoundary p) s = .next t ∧ quiet t) ∧
     ((∀ i, i < s.dieCount p * 16 → i ≠ 0 → (s.cluster (x + i)).level = 0 ∧ (s.cluster (x + i)).clk = 0 ∧ s.request_ (x + i) = 0) →
      let k := s.cluster x
      k.hot = false → k.retd = false → k.gated = false → k.vlim = false → k.clk = k.level → k.below = false →
        ∃ t : State, exec (.boostBoundary p) s = .next t ∧ quiet t ∧
        (k.level = 2 → s.request_ x = 2 → 2 ≤ free → (t.cluster x).level = 2 ∧ (t.cluster x).grace = false ∧ (t.pkg p).pool = free - 2 ∧
          (t.pkg p).raised = true) ∧
        (k.level = 1 → 1 ≤ s.request_ x → free = 0 → (t.cluster x).level = 0 ∧ (t.pkg p).pool = 0 ∧ (t.pkg p).raised = false ∧
          Ev.clockSwitch x ∈ t.flight) ∧
        (k.level = 2 → s.request_ x = 2 → free = 0 → (t.cluster x).level = 1 ∧ (t.cluster x).grace = true ∧ (t.pkg p).pool = 0 ∧
          Ev.clockSwitch x ∈ t.flight) ∧
        (k.level = 0 → s.request_ x = 2 → g.limited = false → 2 ≤ free → (t.cluster x).level = 2 ∧ (t.pkg p).pool = free - 2 ∧
          Ev.clockSwitch x ∈ t.flight) ∧
        (k.level = 0 → s.request_ x = 2 → g.limited = false → free = 1 → (t.cluster x).level = 1 ∧ (t.pkg p).pool = 0) ∧
        (k.level = 0 → s.request_ x = 2 → g.limited = true → (t.cluster x).level = 0 ∧ (t.pkg p).pool = free)))

/-! ## Links and the host (R203, R204, R238, R424, R429-R433, R439-R451) -/

/-- R424, R429-R433: each slot of a port carries a flit, a replay before new bytes; the receiver takes flits in order, refuses others and reads
ACK; a timeout sends the replay buffer again, or retrains; a port that returns sends it again, and one that is down is reported. -/
def Obligations.LinkSteps : Prop :=
  ∀ (s : State) (p n : Nat) (f : Flit) (q : BitVec 12) (b : Nat) (r : List (BitVec 12 × Nat)),
    let k := s.port p n
    let j := s.loadPort p n k
    let alone := fun (t : State) => t.mem = s.mem ∧ t.strands = s.strands ∧ ∀ i, i ≠ n → t.port p i = s.port p i
    let becomes := fun (i : Instr) (x : Port) => ∃ t : State, exec i s = .next t ∧ alone t ∧ t.port p n = x
    let gate := gateOf p n
    let flit := fun (typ : BitVec 4) (seq : BitVec 12) (body : Nat) => ({ intact := true, typ := typ, seq := seq, ack := k.last, nak := k.nak,
                                                                           cred := freeCredit p n k.tx, body := body } : Flit)
    let sent := fun (x : Port) (g : Flit) => { x with tx := k.tx + 1, nak := false, sent := (k.tx, g) :: k.sent }
    let got := { k with rx := k.rx + 1 }
    (s.portUp p n = false → exec (.flitSlot p n) s = .next s ∧ exec (.flitReceive p n f) s = .next s ∧ exec (.replayTimeout p n) s = .next s) ∧
    (s.portUp p n = true → k.tx < 2 ^ 95 → s.genTable gate.1 gate.2 ≠ s.ownGen gate.1 gate.2 →
      ∃ t : State, exec (.flitSlot p n) s = .next t ∧ t.pkgs = s.pkgs ∧ Ev.resetAgent gate.1 gate.2 ∈ t.flight) ∧
    (s.portUp p n = true → k.tx < 2 ^ 95 → s.genTable gate.1 gate.2 = s.ownGen gate.1 gate.2 →
      (k.marker = true → becomes (.flitSlot p n) { sent j (flit 2 0 0) with marker := false }) ∧
      (k.marker = false → k.resend = (q, b) :: r → becomes (.flitSlot p n) { sent j (flit 1 q b) with resend := r }) ∧
      (k.marker = false → k.resend = [] → j.out = [] ∨ 512 ≤ k.replay.length → becomes (.flitSlot p n) (sent j (flit 0 0 0))) ∧
      (k.marker = false → k.resend = [] → j.out ≠ [] → k.replay.length < 512 →
        let body := bodyOf (j.out.take 232)
        becomes (.flitSlot p n) { sent j (flit 1 (k.seq + 1) body) with
          out := j.out.drop 232, gone := j.gone + 232, seq := k.seq + 1, replay := k.replay ++ [(k.seq + 1, body)] })) ∧
    (∀ m : Msg, s.flight = [.mailboxInsert m] → s.leaves p n m.src m.dest = true → k.loaded = [] → j.out = k.out ++ msgBytes m) ∧
    (s.portUp p n = true → k.rx < 2 ^ 95 →
      (f.intact = false ∨ 2 < f.typ.toNat → k.nakSent = false → becomes (.flitReceive p n f) { got with nak := true, nakSent := true }) ∧
      (f.intact = false ∨ 2 < f.typ.toNat → k.nakSent = true → becomes (.flitReceive p n f) got) ∧
      (f.intact = true → f.nak = false → (∀ x ∈ k.replay, x.1 ≠ f.ack) →
        (f.typ = 0 ∨ f.typ = 2 → becomes (.flitReceive p n f) got) ∧
        (f.typ = 1 → f.seq = k.last + 1 →
          becomes (.flitReceive p n f) { got with last := f.seq, inbox := k.inbox ++ [f.body], nakSent := false }) ∧
        (f.typ = 1 → f.seq ≠ k.last + 1 → ∃ t : State, exec (.flitReceive p n f) s = .next t ∧ alone t ∧ (t.port p n).inbox = k.inbox ∧
          (t.port p n).nakSent = true)) ∧
      (f.intact = true → f.nak = false → f.typ = 0 → k.replay = (f.ack, b) :: r → k.resend = [] →
        becomes (.flitReceive p n f) { got with replay := r, tries := 0 })) ∧
    (s.portUp p n = true → k.replay ≠ [] →
      (k.tries < 8 → ∃ t : State, exec (.replayTimeout p n) s = .next t ∧ alone t ∧ t.port p n = { k with resend := k.replay, tries := k.tries + 1 } ∧
        Map.get 0 (t.pkg p).counts (almRetry n) = Map.get 0 (s.pkg p).counts (almRetry n) + 1) ∧
      (8 ≤ k.tries → ∃ t : State, exec (.replayTimeout p n) s = .next t ∧ alone t ∧ Ev.retrain p n ∈ t.flight)) ∧
    (k.state = 0 → ∃ t : State, exec (.retrain p n) s = .next t ∧ alone t ∧ Ev.retrainDone p n ∈ t.flight ∧ Ev.portDown p n ∈ t.flight ∧
      t.port p n = { k with state := 1, txKey := k.txKey + 1, rxKey := k.rxKey + 1, tx := (t.port p n).tx, rx := (t.port p n).rx,
                            marker := true } ∧
      (t.port p n).tx < 2 ^ 95 ∧ (t.port p n).rx < 2 ^ 95) ∧
    (k.state = 1 → ∃ t : State, exec (.retrainDone p n) s = .next t ∧ alone t ∧ t.port p n = { k with state := 0, resend := k.replay, tries := 0 } ∧
      Ev.portDown p n ∉ t.flight) ∧
    (k.state = 1 → ∃ t : State, exec (.portDown p n) s = .next t ∧ (t.port p n).state = 2 ∧ (t.port p n).replay = [] ∧ n ∈ (t.pkg p).down ∧
      ((∀ e ∈ s.flight, s.usedFrom p n e = none) → alone t ∧ t.flight = s.flight.filter fun e => e != .retrainDone p n) ∧
      ∀ (e : Ev) (x : Nat), s.flight = [e] → e ≠ .retrainDone p n → s.usedFrom p n e = some x →
        ((s.port x n).passed (s.carried e).1 = true → t.flight = [e]) ∧
        ((s.port x n).passed (s.carried e).1 = false → ∀ (c i : Nat) (o : Acc) (y : Piece) (l : List Piece) (ld : LdDst),
          e = .accessPerformed c i → (s.core c).accs = [o] → o.id = i → o.op = .load ld → o.pieces = y :: l →
          t.flight = [] ∧ (t.core c).accs = [] ∧ (t.strand (4 * c + o.snum)).posted =
            (s.strand (4 * c + o.snum)).posted ++ [{ code := BitVec.ofNat 8 cAccess, eval := y.gva, epc := none, acc := i }])) ∧
    (2 ^ 95 ≤ k.tx → ∃ x, x < 2 ^ 95 ∧ becomes (.rekey p n true) { k with tx := x, txKey := k.txKey + 1, marker := true }) ∧
    (2 ^ 95 ≤ k.rx → ∃ x, x < 2 ^ 95 ∧ becomes (.rekey p n false) { k with rx := x, rxKey := k.rxKey + 1 })

/-- R203, R238, R439, R442-R451: the host's reads and writes of the memory window, the mailbox commands, a checkpoint and its restore, power-up,
and the readiness of functions. -/
def Obligations.HostSteps : Prop :=
  ∀ (s u : State) (p h size v d a job bit i : Nat) (mask : BitVec 64) (data : BitVec 512) (b : Job) (img : Image),
    let k := s.pkg p
    let x := Place.hbm d a true
    let args := k.mboxData
    let done := fun (t : State) (st : Nat) => field (t.pkg p).mbox 8 8 = st
    let quiet := fun (t : State) => t.mem = s.mem ∧ t.strands = s.strands
    let ends := fun (i : Instr) (st : Nat) => ∃ t : State, exec i s = .next t ∧ quiet t ∧ done t st
    let started := fun (t : State) => (t.pkg p).stopped = true ∧ (t.pkg p).killed = [] ∧ t.mem = s.mem ∧ Ev.checkpointComplete p ∈ t.flight ∧
      ∀ c ∈ s.jobs, c.2.on p = true → Ev.checkpointKillTimeout p c.1 ∈ t.flight
    let usable := ∀ c ∈ State.hostBits d, s.gone p c = false ∧ s.ready p c = true
    (s.hdm p h size = none → ∀ wr, exec (.hostAccess p h size wr) s = .next s) ∧
    (s.hdm p h size = some (d, a) → usable → size ≠ 0 →
      (s.hostReach d a size = true →
        (∃ t : State, exec (.hostAccess p h size (some v)) s = .next t ∧ t.strands = s.strands ∧
          t.mem = Mem.write s.mem (x.keys size) (v % 256 ^ size)) ∧
        (s.poisoned x size = false → ∃ t : State, exec (.hostAccess p h size none) s = .next t ∧ quiet t ∧
          (t.pkg p).hostData = some (false, Mem.read s.mem (x.keys size))) ∧
        (s.poisoned x size = true → ∃ t : State, exec (.hostAccess p h size none) s = .next t ∧ quiet t ∧ (t.pkg p).hostData = some (true, 0))) ∧
      (s.hostReach d a size = false → exec (.hostAccess p h size (some v)) s = .next s ∧
        ∃ t : State, exec (.hostAccess p h size none) s = .next t ∧ quiet t ∧ (t.pkg p).hostData = some (true, 0))) ∧
    (s.hdm p (h / 64 * 64) 64 = some (d, a) → s.hostReach d a 64 = true → s.hostOwned d a = true → mask ≠ 0 →
      ∃ t : State, exec (.hostSectorWriteback p h mask data) s = .next t ∧ t.strands = s.strands ∧
        (∀ j, j < 64 → Mem.byte t.mem (x.key j) = if mask.getLsbD j then BitVec.ofNat 8 (data.toNat / 256 ^ j) else Mem.byte s.mem (x.key j)) ∧
        ∀ n, (∀ j, j < 64 → n ≠ x.key j) → Mem.byte t.mem n = Mem.byte s.mem n) ∧
    (∃ t : State, exec (.readAlmanac p) s = .next t ∧ quiet t ∧ done t 1 ∧
      ∀ j, j < 504 → Map.get 0 (t.pkg p).mdata (8 + j) = Config.almanacWord k.almanac j) ∧
    (let ok := k.tier.ranges.length ≤ 16 ∧ ∀ r ∈ k.tier.ranges, gvaPkg r.gva ≠ p ∧ r.gva.toNat % 65536 = 0 ∧ r.len % 65536 = 0
     let closes := fun (st : Nat) => ∃ t : State, exec (.checkpoint p) s = .next t ∧ quiet t ∧ done t st ∧
       (msixNo 0 3 ∉ k.msixMask → ∃ l, (t.pkg p).msixSent = l ++ [msixNo 0 3])
     (s.gone p 77 = true → closes 2) ∧
     (s.gone p 77 = false → s.ready p 77 = true →
      (¬ ok → closes 4) ∧ (ok → k.stopped = true → closes 2) ∧
      (ok → k.stopped = false → ∃ t : State, exec (.checkpoint p) s = .next t ∧ started t ∧
        (t.pkg p).armed = if k.tier.arm then some k.tier else none))) ∧
    (s.job job = some b → k.stopped = true → b.on p = true → ∃ t : State, exec (.checkpointKillTimeout p job) s = .next t ∧ quiet t ∧
      (t.pkg p).killed = k.killed ++ [job] ∧ Ev.kill job ∈ t.flight) ∧
    (let y := s.mapDies p fun e => { e with lines := e.lines.map fun z => { z with dirty := none } }
     let units := imageUnits (s.dieCount p)
     let room := tierUnits k.tier.ranges
     k.stopped = true → (∀ c ∈ s.jobs, c.2.on p = false) → field k.mbox 0 8 = 2 → field k.mbox 8 8 = 0 →
      (room.length < units + 2 → ∃ t : State, exec (.checkpointComplete p) s = .next (t.consider p) ∧ quiet t ∧ (t.pkg p).stopped = false ∧
        (t.pkg p).image = k.image ∧ done t 2) ∧
      (units + 2 ≤ room.length → y.stream p (y.manifestOf p) room 0 = (u, .value v) → u.pkg p = k →
        ∃ (t : State) (m : Image), exec (.checkpointComplete p) s = .next (t.consider p) ∧ t.mem = u.mem ∧ t.strands = u.strands ∧
        (t.pkg p).stopped = false ∧ (t.pkg p).image = some m ∧ m.queues = k.queues ∧ m.killed = k.killed ∧ done t 1)) ∧
    (let units := imageUnits (s.dieCount p)
     (∀ man, s.streamUnit p man units = some k.queueUnit ∧ s.streamUnit p man (units + 1) = some man ∧ s.streamUnit p man (units + 2) = none) ∧
     (∀ man q, i < units → imageUnit (s.dieCount p) p i = some q → s.streamUnit p man i = some (s.readAt q 65536)) ∧
     (∀ man (r : Config.TierRange) g l, s.streamUnit p man i = some v → s.hwStore (p * 128) r.asid r.wld v (pieces g 65536) = (u, .value size) →
       s.stream p man ((r, g) :: l) i = u.stream p man l (i + 1)) ∧
     (∀ c, c < s.dieCount p → a < hbmUnits → imageUnit (s.dieCount p) p (c * hbmUnits + a) = some (.hbm (p * 8 + c) (a * 65536) true)) ∧
     (∀ c, c < s.dieCount p → a < 4096 → imageUnit (s.dieCount p) p (s.dieCount p * hbmUnits + c * 4096 + a) =
       some (.tile (p * 8 + c) (a / 256) (a / 16 % 16) (a % 16 * 65536) 6)) ∧
     (∀ c, c < s.dieCount p → a < 1024 → imageUnit (s.dieCount p) p (s.dieCount p * (hbmUnits + 4096) + c * 1024 + a) =
       some (.slice (p * 8 + c) (a / 64) (a % 64 * 65536)))) ∧
    (∀ r, k.armed = some r → k.stopped = false → ∃ t : State, exec (.inputPowerLoss p) s = .next t ∧ started t ∧ (t.pkg p).tier = r) ∧
    (k.armed = none → exec (.inputPowerLoss p) s = .next s) ∧
    (let units := imageUnits (s.dieCount p)
     let room := (tierUnits k.tier.ranges).take (units + 2)
     let closes := fun (t w : State) (st : Nat) => field (w.pkg p).mbox 0 8 = 3 → field (w.pkg p).mbox 8 8 = 0 → done t st
     (∀ e, e ≠ .wait → s.readTier p room = (u, .error e) → ∃ t : State, exec (.restore p) s = .next t ∧ t.mem = u.mem ∧ t.strands = u.strands ∧
       closes t u 2) ∧
     (∀ l : List Nat, s.readTier p room = (u, .ok l) →
      let signed := Config.manifestOk (u.pkg p).alias_ (l.getD (units + 1) 0 % 2 ^ (8 * 4096)) (Config.imageDigest (l.take (units + 1)))
      (u.dieCount p = s.dieCount p → signed = false →
        ∃ t : State, exec (.restore p) s = .next t ∧ t.mem = u.mem ∧ t.strands = u.strands ∧ closes t u 2) ∧
      (u.dieCount p = s.dieCount p → signed = true → ∃ t : State, exec (.restore p) s = .next (t.consider p) ∧ t.strands = u.strands ∧ closes t u 1 ∧
        (t.pkg p).killed = (u.pkg p).imageOr.killed ∧ (t.pkg p).ready.getLsbD 77 = true ∧
        (∀ n, keyOf p n = false → Mem.byte t.mem n = Mem.byte u.mem n) ∧
        (∀ q j, i < l.length → imageUnit (s.dieCount p) p i = some q → j < 65536 →
          Mem.byte t.mem (q.key j) = BitVec.ofNat 8 (l.getD i 0 / 256 ^ j)) ∧
        (∀ h b, (u.pkg p).image = some img → (h, b) ∈ img.jobs → (img.jobs.map (·.1)).Nodup → t.job h = some b)))) ∧
    (let w := Config.argument 4 args
     (1000 ≤ w → w ≤ 4600 → ∃ t : State, exec (.setPlim p) s = .next t ∧ quiet t ∧ done t 1 ∧ (t.pkg p).plim = w) ∧
     (w < 1000 ∨ 4600 < w → ∃ t : State, exec (.setPlim p) s = .next t ∧ quiet t ∧ done t 4 ∧ (t.pkg p).plim = k.plim)) ∧
    (s.ready p 78 = true → ∃ t : State, exec (.spdm p) s = .next t ∧ quiet t ∧ done t 1 ∧
      (let said := fun (j : Nat) => Map.get 0 (t.pkg p).mdata (8 + j)
       let kind := fun (c : Nat) => wordByte args 1 = c
       let ver := wordByte args 0 = 0x12 ∨ wordByte args 0 = 0x13
       (kind 0x84 → wordByte [said 0] 1 = 4 ∧ wordByte [said 0] 5 = 2 ∧ field (said 0) 48 16 = 0x1200 ∧ field (said 1) 0 16 = 0x1300) ∧
       (¬ kind 0x84 → ¬ ver → wordByte [said 0] 1 = 0x7F) ∧
       (kind 0xE6 ∨ kind 0xE9 → wordByte [said 0] 1 = 0x7F) ∧
       (ver → kind 0xE1 → field (said 1) 0 32 = 0x2D6) ∧
       (ver → kind 0xE3 → (wordByte args 8).testBit 7 = true → (wordByte args 12).testBit 1 = true →
         field (said 1) 32 32 = 0x80 ∧ field (said 2) 0 32 = 2) ∧
       (ver → kind 0xE0 → wordByte args 3 = 0 → wordByte [said 0] 1 = 0x60 ∧ wordByte [said 0] 2 = 5) ∧
       (ver → kind 0xE0 → 5 < wordByte args 3 → wordByte args 3 ≠ 0xFF → wordByte [said 0] 1 = 0x7F) ∧
       (ver → kind 0xE5 → k.spdm.session ≠ 1 → wordByte [said 0] 1 = 0x7F ∧ (t.pkg p).spdm = k.spdm) ∧
       (ver → kind 0xE4 → (t.pkg p).spdm.session = 1) ∧ (ver → kind 0xE5 → k.spdm.session = 1 → (t.pkg p).spdm.session = 2))) ∧
    (s.ready p 78 = false → s.gone p 78 = true → ends (.spdm p) 2) ∧
    (Config.argument 6 args % 505 = 1 →
      let q := Config.argument 16 args
      let plane := Config.argument 17 args
      let limit := min (s.planesOf p) (s.planesOf q)
      (plane < limit → ∃ t : State, exec (.setPlane p) s = .next t ∧ quiet t ∧ done t 1 ∧ Map.get 0 (t.pkg p).route q = plane ∧
        ∀ j, j ≠ q → Map.get 0 (t.pkg p).route j = Map.get 0 k.route j) ∧
      (limit ≤ plane → ∃ t : State, exec (.setPlane p) s = .next t ∧ quiet t ∧ done t 2 ∧ (t.pkg p).route = k.route)) ∧
    (let runs := fun (f : Config.Firmware) => f.digest = Config.sha384 f.body ∧ Config.verifies f.key f.svn f.digest f.sig = true ∧
       Config.fuseSvn p ≤ f.svn ∧ ∃ j, j < 4 ∧ Config.fuseSlot p j = (Config.sha384 f.key, false)
     let f := Config.imageIn args
     (runs f → ∃ t : State, exec (.loadImage p) s = .next t ∧ quiet t ∧ done t 1 ∧ (t.pkg p).recovery = false ∧
       (t.pkg p).imageAt p 0 = f ∧ (t.pkg p).alias_ = Config.alias_ (Config.identity p) (Config.sha384 f.body)) ∧
     (¬ runs f → ∃ t : State, exec (.loadImage p) s = .next t ∧ quiet t ∧ done t 2 ∧ (t.pkg p).recovery = k.recovery ∧
       (t.pkg p).images = k.images ∧ (t.pkg p).alias_ = k.alias_) ∧
     ∃ t : State, exec (.powerUp p) s = .next t ∧
       (runs (k.imageAt p 0) → (t.pkg p).recovery = false ∧ (t.pkg p).alias_ =
         Config.alias_ (Config.identity p) (Config.sha384 (k.imageAt p 0).body)) ∧
       (¬ runs (k.imageAt p 0) → runs (k.imageAt p 1) → (t.pkg p).recovery = false) ∧
       (¬ runs (k.imageAt p 0) → ¬ runs (k.imageAt p 1) → (t.pkg p).recovery = true)) ∧
    (∃ t : State, exec (.powerUp p) s = .next t ∧
      (∀ n, Mem.byte t.mem n = if keyOf p n then 0 else Mem.byte s.mem n) ∧ (t.pkg p).ready = 0 ∧ (t.pkg p).almanac = k.almanac ∧
      (∀ n, n / 16384 = p → t.strand n = Strand.reset) ∧ (∀ n, n / 4096 = p → t.core n = Core.reset) ∧
      ∀ n, n / 128 = p → (t.cluster n).retd = (s.cluster n).retd ∧ (t.cluster n).vlim = (s.cluster n).vlim) ∧
    (s.maySet p bit = true → s.ready p bit = false → ∃ t : State, exec (.readySet p bit) s = .next (t.consider p) ∧ quiet t ∧
      ∀ j, (t.pkg p).ready.getLsbD j = (k.ready.getLsbD j || j == bit)) ∧
    (s.readyBit p bit = true → s.ready p bit = false → bit ∉ k.failed → ∃ t : State, exec (.bringupFailure p bit) s = .next t ∧ quiet t ∧
      (t.pkg p).failed = k.failed ++ [bit] ∧ (t.pkg p).ready = k.ready ∧ Ev.bringupFailureTimeout p bit ∈ t.flight) ∧
    (bit ∈ k.failed → bit ∉ k.refused → ∃ t : State, exec (.bringupFailureTimeout p bit) s = .next t ∧ quiet t ∧
      (t.pkg p).refused = k.refused ++ [bit] ∧ (t.pkg p).reports = k.reports ++ [bit] ∧
      (msixNo 0 1 ∉ k.msixMask → (t.pkg p).msixSent = k.msixSent ++ [msixNo 0 1]))

/-! ## The machine as a whole (R36-R41, R59, R65, R71, R203, R204, R216) -/

/-- R38, R39, R41: a step of a core whose active strand has a well-formed unit ahead runs exactly that unit: a lone C word's meaning, or VXP and
the A word under it, or the A word and then the C word, from the PC behind the unit, no earlier than its wait count allows; when it completes
the loop-end events follow, and one cycle has passed. Results of RLQ follow the lock table up to the step (R401); without any, nothing does. -/
def Obligations.StepRunsTheDecodedInstruction : Prop :=
  (∀ s : State, (∀ i, i < 4 → (s.strand (4 * s.focus + i)).rlqs = []) → s.lockTurn s.focus = s) ∧
  (∀ (s s1 : State) (sid w0 w1 : Nat) (u : IssueUnit),
    let k := s1.strand sid
    let size := BitVec.ofNat 64 (unitSize u)
    let s0 := s.lockTurn s.focus
    s.agenda = [] → s0.active s.focus = some sid → s0.dispatchPending sid = false → s0.boundary sid = none → s0.fetch sid = (s1, .words w0 w1) →
    decodeUnit (field k.arch.pc 0 3 == 4) w0 w1 = .ok u → waitsOn k.pend k.xop (s1.core (sid / 4)).cycle u = [] → k.arch.chk = false →
    ∃ (t : Nat) (g : State), (s1.core (sid / 4)).cycle ≤ t ∧ (s1.core (sid / 4)).free ≤ t ∧
      (∀ l, k.lastIssue = some l → l + unitWait u + 1 ≤ t) ∧
      (∀ n, s1.watchRoom (sid / 4) = some n → n ≤ t - (s1.core (sid / 4)).cycle → k.arch.ahead = false →
        step s = .next ((s1.pass (sid / 4) (max 1 n)).watch (sid / 4))) ∧
      g.unit = { sid := sid, pc := k.arch.pc, next := k.arch.pc + size, lone := unitSize u == 4, now := t, vxp := Vxp.none, status := .running } ∧
      g.arch = { (k.land t).arch with pc := k.arch.pc + size } ∧ g.mem = s1.mem ∧ (∀ n, n ≠ sid → g.strand n = s1.strand n) ∧
      ((∀ n, s1.watchRoom (sid / 4) = some n → t - (s1.core (sid / 4)).cycle < n ∨ k.arch.ahead = true) →
        step s = (match runUnit u g with
          | .next r => r.finish sid t
          | o => o))) ∧
  (∀ (g : State) (w : BitVec 3) (c : Instr), runUnit (.lone w c) g = exec c g) ∧
  (∀ (g : State) (w : BitVec 3) (a : Instr) (mk : MReg) (mz vce : Bool) (rm : Rm) (vc : VReg),
    runUnit (.pair w (.vxp mk mz rm vce vc) a) g = (match exec (.vxp mk mz rm vce vc) g with
      | .next x => exec a x
      | o => o)) ∧
  (∀ (g x y z : State) (w : BitVec 3) (c a : Instr), (∀ mk mz rm vce vc, c ≠ .vxp mk mz rm vce vc) → exec a g = .next x → exec c g = .next z →
    (x.unit.status = .running → z.unit.status = .running ∨ z.unit.status = .jumped → exec c x = .next y →
      y.unit.status = .running ∨ y.unit.status = .jumped → runUnit (.pair w c a) g = .next y) ∧
    (x.unit.status = .waiting → z.unit.status = .running ∨ z.unit.status = .jumped → runUnit (.pair w c a) g = .next x) ∧
    (x.unit.status = .running → z.unit.status = .waiting → runUnit (.pair w c a) g = .next z)) ∧
  (∀ (r : State) (sid t : Nat), r.active (sid / 4) = some sid → (r.core (sid / 4)).cycle ≤ t + 1 →
    r.unit.status = .running ∨ r.unit.status = .jumped →
    ∃ v, r.finish sid t = .next v ∧ v.mem = r.mem ∧ (v.core (sid / 4)).cycle = t + 1 ∧ (∀ n, n ≠ sid → v.strand n = r.strand n) ∧
      (r.unit.status = .running → (v.strand sid).arch = loopEnd r.unit.next (r.strand sid).arch) ∧
      (r.unit.status = .jumped → (v.strand sid).arch = (r.strand sid).arch))

/-- R47, R48, R52, R53: words that the spec spells out are decoded to the instructions it names. -/
def Obligations.DecodedWords : Prop :=
  let lone := fun (w : Nat) (i : Instr) => decodeUnit false w 0 = .ok (.lone 0 i)
  lone 0x80400000 .nop ∧ lone 0x8254AB2D (.addi 10 10 (-1235)) ∧ lone 0x83D40004 (.lui 10 4) ∧ lone 0x8216A630 (.gaddr 11 10 12) ∧
  lone 0x844A0FFE (.bne 5 0 (-2)) ∧ lone 0x86000002 .ret ∧ lone 0x810A0005 (.srd 5 5) ∧
  lone 0x880AA802 (.ld 5 10 .w .plain 2) ∧ lone 0x884EBEFF (.st 7 11 .d .rel (-1)) ∧ lone 0x8908A35F (.casq 2 10 3 .ar) ∧
  lone 0x89400012 (.fence .die .rel) ∧ lone 0x87105003 (.cvoteAnd 8 5 3) ∧ lone 0x8780A583 (.wpush 10 11) ∧
  lone 0x898AA003 (.sld 5 10 3) ∧ lone 0x8B2AD71A (.mma 21 13 14 3) ∧ lone 0x8A4CA591 (.copy 6 10 11 2) ∧
  decodeUnit false 0x224A5FFF 0x10420FC0 = .ok (.pair 2 (.addi 5 5 (-1)) (.fadd 8 8 7 .dyn .f64)) ∧
  decodeUnit false 0x01D7D000 0x23312100 = .ok (.pair 0 (.vxp 2 true .dyn true 4) (.vfma 3 1 2 .f32)) ∧
  decodeUnit false 0x00400000 0x34112102 = .ok (.pair 0 .nop (.vcmp .lt 1 1 2 .f32)) ∧
  decodeUnit true 0x00400000 0 = .error .misaligned ∧ decodeUnit false 0x8940001C 0 = .error .cWord

/-- R36-R38, R45-R53: decoding what encoding gives is the instruction itself, for every well-formed instruction with every operand, wait count and
lone bit; and a word that is decoded is the encoding of what it is decoded to, so that no other word means the same. -/
def Obligations.DecodingInvertsEncoding : Prop :=
  (∀ (i : Instr) (b : Nat) (lone : Bool) (w : BitVec 3), i.wellFormed = true → encodeCBits i = some b →
    b < 2 ^ 28 ∧ decodeC (bit lone * 2 ^ 31 + w.toNat * 2 ^ 28 + b) = some ⟨lone, w, i⟩) ∧
  (∀ (i : Instr) (a : Nat), i.wellFormed = true → encodeA i = some a → a < 2 ^ 31 ∧ decodeA a = some i) ∧
  (∀ (i : Instr) (c : Nat) (at4 : Bool), i.wellFormed = true → encode i = some [c] → (∀ mk mz rm vce vc, i ≠ .vxp mk mz rm vce vc) →
    decodeUnit at4 c 0 = .ok (.lone 0 i)) ∧
  (∀ (i : Instr) (c a : Nat), i.wellFormed = true → encode i = some [c, a] → decodeUnit false c a = .ok (.pair 0 .nop i)) ∧
  (∀ (i : Instr) (b : Nat), b < 2 ^ 28 → decodeCBits b = some i → i.wellFormed = true ∧ encodeCBits i = some b) ∧
  (∀ (i : Instr) (a : Nat), a < 2 ^ 32 → decodeA a = some i → i.wellFormed = true ∧ encodeA i = some a)

/-- R4, R204, R211, R216: what is written at a place is read there, other bytes keep what they hold, granules written whole lose their poison; and
under every SPAN code a tile's offsets name its bytes one to one, each within its 64 KiB frame. -/
def Obligations.WritesAreReadBack : Prop :=
  ∀ (s : State) (p : Place) (n v a b span : Nat),
    let t := s.writeAt p n v
    let inside := ∀ d c i o sp, p = .tile d c i o sp → sp ≤ 6 ∧ o + n ≤ 2 ^ 20
    (span ≤ 6 → a < 2 ^ 20 → b < 2 ^ 20 →
      (spanByte span a = spanByte span b → a = b) ∧ spanByte span a / 2 ^ 16 = a / 2 ^ 16 ∧ spanByte span a % 16 = a % 16) ∧
    (inside → t.readAt p n = v % 256 ^ n) ∧ (∀ k, (∀ i, i < n → k ≠ p.key i) → Mem.byte t.mem k = Mem.byte s.mem k) ∧
    (∀ g, (∀ i, i < 8 → g * 8 + i ∈ p.keys n) → g ∉ t.poison) ∧ (Memory.wf s.mem = true → Memory.wf t.mem = true)

/-- R59, R65, R71, R203, R404: after reset every register holds the value that the spec gives it, every strand is OFF, every byte of the memories
is zero and no line is present, no function is usable and the world table's copy is empty; the memory is in its canonical form. -/
def Obligations.ResetState : Prop :=
  ∀ (sid eid d p k : Nat) (x : XReg) (y : VReg) (m : MReg) (g : GReg),
    let s := State.reset
    let a := (s.strand sid).arch
    let c := s.core eid
    a.getX x = 0 ∧ a.getV y = 0 ∧ a.getM m = (if m = 0 then BitVec.allOnes 1024 else 0) ∧ a.getG g = .free ∧
    (a.lc0 = 0 ∧ a.ls0 = 0 ∧ a.le0 = 0 ∧ a.lc1 = 0 ∧ a.ls1 = 0 ∧ a.le1 = 0) ∧ a.ras = [] ∧ a.h = Vector.replicate 4 0 ∧
    (a.mbset = 0 ∧ a.mbidx = 0 ∧ a.mbcnt = 0 ∧ a.cseq = 0 ∧ a.ev = false ∧ a.pc = 0) ∧
    a.status = 0xE7 ∧ (a.cause = 0 ∧ a.epc = 0 ∧ a.eval = 0 ∧ a.tvec = 0 ∧ a.fmode = 0) ∧ a.vshape = 0x381 ∧
    (a.rsbase = 0 ∧ a.rslim = 0 ∧ a.rstop = 0 ∧ a.depth = 0 ∧ a.ctxbase = 0 ∧ a.frame = 0) ∧ (s.strand sid).st = .off ∧
    c.wdog = 0x100000 ∧ (c.jobid = 0 ∧ c.asid = 0 ∧ c.lcn = 0 ∧ c.dqbase = 0 ∧ c.cycle = 0 ∧ c.evc = Vector.replicate 8 0 ∧
      c.evsel = Vector.replicate 8 0) ∧
    s.ready0 p = 0 ∧ s.ready1 p = 0 ∧ (s.die d).regions = [] ∧ (s.die d).blocks = 0 ∧ (s.die d).lines = [] ∧
    Mem.byte s.mem k = 0 ∧ Memory.wf s.mem = true

/-- The memory keeps its canonical form (the model's own invariant, log entry 41): every step, and every instruction's meaning, keeps the list
of written bytes rising and free of zeros, so that equal memories are equal data. -/
def Obligations.MemoryStaysCanonical : Prop :=
  (∀ (s t : State), Memory.wf s.mem = true → step s = .next t → Memory.wf t.mem = true) ∧
  (∀ (i : Instr) (s t : State), Memory.wf s.mem = true → exec i s = .next t → Memory.wf t.mem = true)
end

