-- ==== Sys2Proof/Laws/Maps.lean ====
section
/-!
SUPPORT. Sparse data: reading what was stored, and the canonical form that storing and removing keep.
-/
namespace Sys2Proof.Machine

@[simp] theorem Map.find_put_self {α : Type} (m : Map α) (k : Nat) (v : α) : Map.find (Map.put m k v) k = some v := by
  induction m with
  | nil => simp [Map.put, Map.find]
  | cons p r ih =>
    obtain ⟨j, u⟩ := p
    simp only [Map.put]
    split
    · simp [Map.find]
    · split
      · simp [Map.find]
      · simp [Map.find, *]

theorem Map.find_put_other {α : Type} (m : Map α) (k j : Nat) (v : α) (h : j ≠ k) :
    Map.find (Map.put m k v) j = Map.find m j := by
  induction m with
  | nil => simp [Map.put, Map.find, h]
  | cons p r ih =>
    obtain ⟨i, u⟩ := p
    simp only [Map.put]
    split
    · subst_vars; simp [Map.find, h]
    · split
      · simp [Map.find, h]
      · simp [Map.find, ih]

@[simp] theorem Map.get_put_self {α : Type} (d : α) (m : Map α) (k : Nat) (v : α) : Map.get d (Map.put m k v) k = v := by
  simp [Map.get]

theorem Map.get_put_other {α : Type} (d : α) (m : Map α) (k j : Nat) (v : α) (h : j ≠ k) :
    Map.get d (Map.put m k v) j = Map.get d m j := by
  simp [Map.get, Map.find_put_other m k j v h]

/-- A second value at a key takes the place of the first. -/
theorem Map.put_put {α : Type} (m : Map α) (k : Nat) (u v : α) : Map.put (Map.put m k u) k v = Map.put m k v := by
  induction m with
  | nil => simp [Map.put]
  | cons p r ih =>
    obtain ⟨j, w⟩ := p
    by_cases h : k = j
    · simp [Map.put, h]
    · by_cases h2 : k < j
      · simp [Map.put, h, h2]
      · simp [Map.put, h, h2, ih]

theorem Map.get_put {α : Type} (d : α) (m : Map α) (k j : Nat) (v : α) :
    Map.get d (Map.put m k v) j = if j = k then v else Map.get d m j := by
  split
  · subst_vars; simp
  · exact Map.get_put_other d m k j v ‹_›

/-! ## The canonical form -/

/-- Every key of a map lies above `n`. -/
def Map.above {α : Type} (n : Nat) (m : Map α) : Prop := ∀ p ∈ m, n < p.1

/-- The canonical form without its order of evaluation: keys rising, no entry equal to the default. -/
def Map.good {α : Type} (d : α) : Map α → Prop
  | [] => True
  | (k, v) :: r => v ≠ d ∧ Map.above k r ∧ Map.good d r

theorem Map.above_trans {α : Type} {n k : Nat} {m : Map α} (h : n < k) (hm : Map.above k m) : Map.above n m :=
  fun p hp => Nat.lt_trans h (hm p hp)

theorem Map.wf_iff_good {α : Type} [DecidableEq α] (d : α) (m : Map α) : Map.wf d m = true ↔ Map.good d m := by
  induction m with
  | nil => simp [Map.wf, Map.good]
  | cons p r ih =>
    obtain ⟨k, v⟩ := p
    cases r with
    | nil => simp [Map.wf, Map.good, Map.above]
    | cons q t =>
      obtain ⟨j, u⟩ := q
      simp only [Map.wf, Bool.and_eq_true, decide_eq_true_eq, Bool.and_assoc]
      rw [ih]
      simp only [Map.good, Map.above, List.mem_cons, forall_eq_or_imp]
      constructor
      · rintro ⟨hv, hk, hu, ha, hg⟩
        exact ⟨by simpa using hv, ⟨hk, fun p hp => Nat.lt_trans hk (ha p hp)⟩, hu, ha, hg⟩
      · rintro ⟨hv, ⟨hk, -⟩, hu, ha, hg⟩
        exact ⟨by simpa using hv, hk, hu, ha, hg⟩

theorem Map.above_put {α : Type} {n k : Nat} {v : α} {m : Map α} (h : Map.above n m) (hk : n < k) :
    Map.above n (Map.put m k v) := by
  induction m with
  | nil => simpa [Map.put, Map.above] using hk
  | cons p r ih =>
    obtain ⟨j, u⟩ := p
    simp only [Map.above, List.mem_cons, forall_eq_or_imp] at h
    simp only [Map.put]
    split
    · simp only [Map.above, List.mem_cons, forall_eq_or_imp]; exact ⟨hk, h.2⟩
    · split
      · simp only [Map.above, List.mem_cons, forall_eq_or_imp]; exact ⟨hk, h.1, h.2⟩
      · simp only [Map.above, List.mem_cons, forall_eq_or_imp]; exact ⟨h.1, ih h.2⟩

theorem Map.good_put {α : Type} {d : α} {k : Nat} {v : α} {m : Map α} (h : Map.good d m) (hv : v ≠ d) :
    Map.good d (Map.put m k v) := by
  induction m with
  | nil => simpa [Map.put, Map.good, Map.above] using hv
  | cons p r ih =>
    obtain ⟨j, u⟩ := p
    simp only [Map.good] at h
    simp only [Map.put]
    split
    · subst_vars; exact ⟨hv, h.2.1, h.2.2⟩
    · split
      · refine ⟨hv, ?_, h⟩
        simp only [Map.above, List.mem_cons, forall_eq_or_imp]
        exact ⟨‹_›, Map.above_trans ‹_› h.2.1⟩
      · exact ⟨h.1, Map.above_put h.2.1 (by omega), ih h.2.2⟩

theorem Map.good_filter {α : Type} {d : α} (p : Nat × α → Bool) {m : Map α} (h : Map.good d m) : Map.good d (m.filter p) := by
  induction m with
  | nil => simpa using h
  | cons q r ih =>
    obtain ⟨j, u⟩ := q
    simp only [List.filter_cons]
    split
    · exact ⟨h.1, fun x hx => h.2.1 x ((List.mem_filter.1 hx).1), ih h.2.2⟩
    · exact ih h.2.2

theorem Map.good_putC {α : Type} [DecidableEq α] {d : α} {k : Nat} {v : α} {m : Map α} (h : Map.good d m) :
    Map.good d (Map.putC d m k v) := by
  unfold Map.putC
  split
  · exact Map.good_filter _ h
  · exact Map.good_put h ‹_›

theorem Map.find_filter {α : Type} (p : Nat → Bool) (m : Map α) (k : Nat) (hk : p k = true) :
    Map.find (m.filter fun q => p q.1) k = Map.find m k := by
  induction m with
  | nil => rfl
  | cons q r ih =>
    obtain ⟨j, u⟩ := q
    simp only [List.filter_cons]
    split
    · simp [Map.find, ih]
    · have : k ≠ j := by rintro rfl; simp_all
      simp [Map.find, this, ih]

theorem Map.find_filter_out {α : Type} (p : Nat → Bool) (m : Map α) (k : Nat) (hk : p k = false) :
    Map.find (m.filter fun q => p q.1) k = none := by
  induction m with
  | nil => rfl
  | cons q r ih =>
    obtain ⟨j, u⟩ := q
    simp only [List.filter_cons]
    split
    · have : k ≠ j := by rintro rfl; simp_all
      simp [Map.find, this, ih]
    · exact ih

theorem Map.get_putC {α : Type} [DecidableEq α] (d : α) (m : Map α) (k j : Nat) (v : α) :
    Map.get d (Map.putC d m k v) j = if j = k then v else Map.get d m j := by
  unfold Map.putC
  split
  · next hv =>
    unfold Map.del Map.get
    split
    · next h => rw [Map.find_filter_out (fun x => x != k) m j (by simp [h])]; simp [hv]
    · next h => rw [Map.find_filter (fun x => x != k) m j (by simp [h])]
  · exact Map.get_put d m k j v

end Sys2Proof.Machine
end

