-- ==== Sys2Proof/Laws/State.lean ====
section
/-!
SUPPORT. One lemma for each field of State under each update of a record, and one for each record read back.
-/
namespace Sys2Proof.Machine

/-! ## Strand records -/

@[simp] theorem State.setStrand_focus (s : State) (sid : Nat) (k : Strand) : (s.setStrand sid k).focus = s.focus := rfl
@[simp] theorem State.modStrand_focus (s : State) (sid : Nat) (f : Strand → Strand) : (s.modStrand sid f).focus = s.focus := rfl
@[simp] theorem State.setStrand_unit (s : State) (sid : Nat) (k : Strand) : (s.setStrand sid k).unit = s.unit := rfl
@[simp] theorem State.modStrand_unit (s : State) (sid : Nat) (f : Strand → Strand) : (s.modStrand sid f).unit = s.unit := rfl
@[simp] theorem State.setStrand_agenda (s : State) (sid : Nat) (k : Strand) : (s.setStrand sid k).agenda = s.agenda := rfl
@[simp] theorem State.modStrand_agenda (s : State) (sid : Nat) (f : Strand → Strand) : (s.modStrand sid f).agenda = s.agenda := rfl
@[simp] theorem State.setStrand_flight (s : State) (sid : Nat) (k : Strand) : (s.setStrand sid k).flight = s.flight := rfl
@[simp] theorem State.modStrand_flight (s : State) (sid : Nat) (f : Strand → Strand) : (s.modStrand sid f).flight = s.flight := rfl
@[simp] theorem State.setStrand_fresh (s : State) (sid : Nat) (k : Strand) : (s.setStrand sid k).fresh = s.fresh := rfl
@[simp] theorem State.modStrand_fresh (s : State) (sid : Nat) (f : Strand → Strand) : (s.modStrand sid f).fresh = s.fresh := rfl
@[simp] theorem State.setStrand_cores (s : State) (sid : Nat) (k : Strand) : (s.setStrand sid k).cores = s.cores := rfl
@[simp] theorem State.modStrand_cores (s : State) (sid : Nat) (f : Strand → Strand) : (s.modStrand sid f).cores = s.cores := rfl
@[simp] theorem State.setStrand_tiles (s : State) (sid : Nat) (k : Strand) : (s.setStrand sid k).tiles = s.tiles := rfl
@[simp] theorem State.modStrand_tiles (s : State) (sid : Nat) (f : Strand → Strand) : (s.modStrand sid f).tiles = s.tiles := rfl
@[simp] theorem State.setStrand_clusters (s : State) (sid : Nat) (k : Strand) : (s.setStrand sid k).clusters = s.clusters := rfl
@[simp] theorem State.modStrand_clusters (s : State) (sid : Nat) (f : Strand → Strand) : (s.modStrand sid f).clusters = s.clusters := rfl
@[simp] theorem State.setStrand_dies (s : State) (sid : Nat) (k : Strand) : (s.setStrand sid k).dies = s.dies := rfl
@[simp] theorem State.modStrand_dies (s : State) (sid : Nat) (f : Strand → Strand) : (s.modStrand sid f).dies = s.dies := rfl
@[simp] theorem State.setStrand_pkgs (s : State) (sid : Nat) (k : Strand) : (s.setStrand sid k).pkgs = s.pkgs := rfl
@[simp] theorem State.modStrand_pkgs (s : State) (sid : Nat) (f : Strand → Strand) : (s.modStrand sid f).pkgs = s.pkgs := rfl
@[simp] theorem State.setStrand_jobs (s : State) (sid : Nat) (k : Strand) : (s.setStrand sid k).jobs = s.jobs := rfl
@[simp] theorem State.modStrand_jobs (s : State) (sid : Nat) (f : Strand → Strand) : (s.modStrand sid f).jobs = s.jobs := rfl
@[simp] theorem State.setStrand_mem (s : State) (sid : Nat) (k : Strand) : (s.setStrand sid k).mem = s.mem := rfl
@[simp] theorem State.modStrand_mem (s : State) (sid : Nat) (f : Strand → Strand) : (s.modStrand sid f).mem = s.mem := rfl
@[simp] theorem State.setStrand_poison (s : State) (sid : Nat) (k : Strand) : (s.setStrand sid k).poison = s.poison := rfl
@[simp] theorem State.modStrand_poison (s : State) (sid : Nat) (f : Strand → Strand) : (s.modStrand sid f).poison = s.poison := rfl

theorem State.strand_setStrand (s : State) (i j : Nat) (k : Strand) :
    (s.setStrand i k).strand j = if j = i then k else s.strand j := Map.get_put _ _ _ _ _

@[simp] theorem State.strand_setStrand_self (s : State) (i : Nat) (k : Strand) : (s.setStrand i k).strand i = k := Map.get_put_self _ _ _ _

theorem State.strand_setStrand_other (s : State) (i j : Nat) (k : Strand) (h : j ≠ i) : (s.setStrand i k).strand j = s.strand j :=
  Map.get_put_other _ _ _ _ _ h

@[simp] theorem State.strand_modStrand_self (s : State) (i : Nat) (f : Strand → Strand) : (s.modStrand i f).strand i = f (s.strand i) :=
  Map.get_put_self _ _ _ _

theorem State.strand_modStrand_other (s : State) (i j : Nat) (f : Strand → Strand) (h : j ≠ i) : (s.modStrand i f).strand j = s.strand j :=
  Map.get_put_other _ _ _ _ _ h

@[simp] theorem State.core_setStrand (s : State) (i j : Nat) (k : Strand) : (s.setStrand i k).core j = s.core j := rfl
@[simp] theorem State.core_modStrand (s : State) (i j : Nat) (f : Strand → Strand) : (s.modStrand i f).core j = s.core j := rfl
@[simp] theorem State.tile_setStrand (s : State) (i j : Nat) (k : Strand) : (s.setStrand i k).tile j = s.tile j := rfl
@[simp] theorem State.tile_modStrand (s : State) (i j : Nat) (f : Strand → Strand) : (s.modStrand i f).tile j = s.tile j := rfl
@[simp] theorem State.cluster_setStrand (s : State) (i j : Nat) (k : Strand) : (s.setStrand i k).cluster j = s.cluster j := rfl
@[simp] theorem State.cluster_modStrand (s : State) (i j : Nat) (f : Strand → Strand) : (s.modStrand i f).cluster j = s.cluster j := rfl
@[simp] theorem State.die_setStrand (s : State) (i j : Nat) (k : Strand) : (s.setStrand i k).die j = s.die j := rfl
@[simp] theorem State.die_modStrand (s : State) (i j : Nat) (f : Strand → Strand) : (s.modStrand i f).die j = s.die j := rfl
@[simp] theorem State.pkg_setStrand (s : State) (i j : Nat) (k : Strand) : (s.setStrand i k).pkg j = s.pkg j := rfl
@[simp] theorem State.pkg_modStrand (s : State) (i j : Nat) (f : Strand → Strand) : (s.modStrand i f).pkg j = s.pkg j := rfl

/-! ## Core records -/

@[simp] theorem State.setCore_focus (s : State) (eid : Nat) (k : Core) : (s.setCore eid k).focus = s.focus := rfl
@[simp] theorem State.modCore_focus (s : State) (eid : Nat) (f : Core → Core) : (s.modCore eid f).focus = s.focus := rfl
@[simp] theorem State.setCore_unit (s : State) (eid : Nat) (k : Core) : (s.setCore eid k).unit = s.unit := rfl
@[simp] theorem State.modCore_unit (s : State) (eid : Nat) (f : Core → Core) : (s.modCore eid f).unit = s.unit := rfl
@[simp] theorem State.setCore_agenda (s : State) (eid : Nat) (k : Core) : (s.setCore eid k).agenda = s.agenda := rfl
@[simp] theorem State.modCore_agenda (s : State) (eid : Nat) (f : Core → Core) : (s.modCore eid f).agenda = s.agenda := rfl
@[simp] theorem State.setCore_flight (s : State) (eid : Nat) (k : Core) : (s.setCore eid k).flight = s.flight := rfl
@[simp] theorem State.modCore_flight (s : State) (eid : Nat) (f : Core → Core) : (s.modCore eid f).flight = s.flight := rfl
@[simp] theorem State.setCore_fresh (s : State) (eid : Nat) (k : Core) : (s.setCore eid k).fresh = s.fresh := rfl
@[simp] theorem State.modCore_fresh (s : State) (eid : Nat) (f : Core → Core) : (s.modCore eid f).fresh = s.fresh := rfl
@[simp] theorem State.setCore_strands (s : State) (eid : Nat) (k : Core) : (s.setCore eid k).strands = s.strands := rfl
@[simp] theorem State.modCore_strands (s : State) (eid : Nat) (f : Core → Core) : (s.modCore eid f).strands = s.strands := rfl
@[simp] theorem State.setCore_tiles (s : State) (eid : Nat) (k : Core) : (s.setCore eid k).tiles = s.tiles := rfl
@[simp] theorem State.modCore_tiles (s : State) (eid : Nat) (f : Core → Core) : (s.modCore eid f).tiles = s.tiles := rfl
@[simp] theorem State.setCore_clusters (s : State) (eid : Nat) (k : Core) : (s.setCore eid k).clusters = s.clusters := rfl
@[simp] theorem State.modCore_clusters (s : State) (eid : Nat) (f : Core → Core) : (s.modCore eid f).clusters = s.clusters := rfl
@[simp] theorem State.setCore_dies (s : State) (eid : Nat) (k : Core) : (s.setCore eid k).dies = s.dies := rfl
@[simp] theorem State.modCore_dies (s : State) (eid : Nat) (f : Core → Core) : (s.modCore eid f).dies = s.dies := rfl
@[simp] theorem State.setCore_pkgs (s : State) (eid : Nat) (k : Core) : (s.setCore eid k).pkgs = s.pkgs := rfl
@[simp] theorem State.modCore_pkgs (s : State) (eid : Nat) (f : Core → Core) : (s.modCore eid f).pkgs = s.pkgs := rfl
@[simp] theorem State.setCore_jobs (s : State) (eid : Nat) (k : Core) : (s.setCore eid k).jobs = s.jobs := rfl
@[simp] theorem State.modCore_jobs (s : State) (eid : Nat) (f : Core → Core) : (s.modCore eid f).jobs = s.jobs := rfl
@[simp] theorem State.setCore_mem (s : State) (eid : Nat) (k : Core) : (s.setCore eid k).mem = s.mem := rfl
@[simp] theorem State.modCore_mem (s : State) (eid : Nat) (f : Core → Core) : (s.modCore eid f).mem = s.mem := rfl
@[simp] theorem State.setCore_poison (s : State) (eid : Nat) (k : Core) : (s.setCore eid k).poison = s.poison := rfl
@[simp] theorem State.modCore_poison (s : State) (eid : Nat) (f : Core → Core) : (s.modCore eid f).poison = s.poison := rfl

theorem State.core_setCore (s : State) (i j : Nat) (k : Core) :
    (s.setCore i k).core j = if j = i then k else s.core j := Map.get_put _ _ _ _ _

@[simp] theorem State.core_setCore_self (s : State) (i : Nat) (k : Core) : (s.setCore i k).core i = k := Map.get_put_self _ _ _ _

theorem State.core_setCore_other (s : State) (i j : Nat) (k : Core) (h : j ≠ i) : (s.setCore i k).core j = s.core j :=
  Map.get_put_other _ _ _ _ _ h

@[simp] theorem State.core_modCore_self (s : State) (i : Nat) (f : Core → Core) : (s.modCore i f).core i = f (s.core i) :=
  Map.get_put_self _ _ _ _

theorem State.core_modCore_other (s : State) (i j : Nat) (f : Core → Core) (h : j ≠ i) : (s.modCore i f).core j = s.core j :=
  Map.get_put_other _ _ _ _ _ h

@[simp] theorem State.strand_setCore (s : State) (i j : Nat) (k : Core) : (s.setCore i k).strand j = s.strand j := rfl
@[simp] theorem State.strand_modCore (s : State) (i j : Nat) (f : Core → Core) : (s.modCore i f).strand j = s.strand j := rfl
@[simp] theorem State.tile_setCore (s : State) (i j : Nat) (k : Core) : (s.setCore i k).tile j = s.tile j := rfl
@[simp] theorem State.tile_modCore (s : State) (i j : Nat) (f : Core → Core) : (s.modCore i f).tile j = s.tile j := rfl
@[simp] theorem State.cluster_setCore (s : State) (i j : Nat) (k : Core) : (s.setCore i k).cluster j = s.cluster j := rfl
@[simp] theorem State.cluster_modCore (s : State) (i j : Nat) (f : Core → Core) : (s.modCore i f).cluster j = s.cluster j := rfl
@[simp] theorem State.die_setCore (s : State) (i j : Nat) (k : Core) : (s.setCore i k).die j = s.die j := rfl
@[simp] theorem State.die_modCore (s : State) (i j : Nat) (f : Core → Core) : (s.modCore i f).die j = s.die j := rfl
@[simp] theorem State.pkg_setCore (s : State) (i j : Nat) (k : Core) : (s.setCore i k).pkg j = s.pkg j := rfl
@[simp] theorem State.pkg_modCore (s : State) (i j : Nat) (f : Core → Core) : (s.modCore i f).pkg j = s.pkg j := rfl

/-! ## Tile records -/

@[simp] theorem State.setTile_focus (s : State) (t : Nat) (k : Tile) : (s.setTile t k).focus = s.focus := rfl
@[simp] theorem State.modTile_focus (s : State) (t : Nat) (f : Tile → Tile) : (s.modTile t f).focus = s.focus := rfl
@[simp] theorem State.setTile_unit (s : State) (t : Nat) (k : Tile) : (s.setTile t k).unit = s.unit := rfl
@[simp] theorem State.modTile_unit (s : State) (t : Nat) (f : Tile → Tile) : (s.modTile t f).unit = s.unit := rfl
@[simp] theorem State.setTile_agenda (s : State) (t : Nat) (k : Tile) : (s.setTile t k).agenda = s.agenda := rfl
@[simp] theorem State.modTile_agenda (s : State) (t : Nat) (f : Tile → Tile) : (s.modTile t f).agenda = s.agenda := rfl
@[simp] theorem State.setTile_flight (s : State) (t : Nat) (k : Tile) : (s.setTile t k).flight = s.flight := rfl
@[simp] theorem State.modTile_flight (s : State) (t : Nat) (f : Tile → Tile) : (s.modTile t f).flight = s.flight := rfl
@[simp] theorem State.setTile_fresh (s : State) (t : Nat) (k : Tile) : (s.setTile t k).fresh = s.fresh := rfl
@[simp] theorem State.modTile_fresh (s : State) (t : Nat) (f : Tile → Tile) : (s.modTile t f).fresh = s.fresh := rfl
@[simp] theorem State.setTile_strands (s : State) (t : Nat) (k : Tile) : (s.setTile t k).strands = s.strands := rfl
@[simp] theorem State.modTile_strands (s : State) (t : Nat) (f : Tile → Tile) : (s.modTile t f).strands = s.strands := rfl
@[simp] theorem State.setTile_cores (s : State) (t : Nat) (k : Tile) : (s.setTile t k).cores = s.cores := rfl
@[simp] theorem State.modTile_cores (s : State) (t : Nat) (f : Tile → Tile) : (s.modTile t f).cores = s.cores := rfl
@[simp] theorem State.setTile_clusters (s : State) (t : Nat) (k : Tile) : (s.setTile t k).clusters = s.clusters := rfl
@[simp] theorem State.modTile_clusters (s : State) (t : Nat) (f : Tile → Tile) : (s.modTile t f).clusters = s.clusters := rfl
@[simp] theorem State.setTile_dies (s : State) (t : Nat) (k : Tile) : (s.setTile t k).dies = s.dies := rfl
@[simp] theorem State.modTile_dies (s : State) (t : Nat) (f : Tile → Tile) : (s.modTile t f).dies = s.dies := rfl
@[simp] theorem State.setTile_pkgs (s : State) (t : Nat) (k : Tile) : (s.setTile t k).pkgs = s.pkgs := rfl
@[simp] theorem State.modTile_pkgs (s : State) (t : Nat) (f : Tile → Tile) : (s.modTile t f).pkgs = s.pkgs := rfl
@[simp] theorem State.setTile_jobs (s : State) (t : Nat) (k : Tile) : (s.setTile t k).jobs = s.jobs := rfl
@[simp] theorem State.modTile_jobs (s : State) (t : Nat) (f : Tile → Tile) : (s.modTile t f).jobs = s.jobs := rfl
@[simp] theorem State.setTile_mem (s : State) (t : Nat) (k : Tile) : (s.setTile t k).mem = s.mem := rfl
@[simp] theorem State.modTile_mem (s : State) (t : Nat) (f : Tile → Tile) : (s.modTile t f).mem = s.mem := rfl
@[simp] theorem State.setTile_poison (s : State) (t : Nat) (k : Tile) : (s.setTile t k).poison = s.poison := rfl
@[simp] theorem State.modTile_poison (s : State) (t : Nat) (f : Tile → Tile) : (s.modTile t f).poison = s.poison := rfl

theorem State.tile_setTile (s : State) (i j : Nat) (k : Tile) :
    (s.setTile i k).tile j = if j = i then k else s.tile j := Map.get_put _ _ _ _ _

@[simp] theorem State.tile_setTile_self (s : State) (i : Nat) (k : Tile) : (s.setTile i k).tile i = k := Map.get_put_self _ _ _ _

theorem State.tile_setTile_other (s : State) (i j : Nat) (k : Tile) (h : j ≠ i) : (s.setTile i k).tile j = s.tile j :=
  Map.get_put_other _ _ _ _ _ h

@[simp] theorem State.tile_modTile_self (s : State) (i : Nat) (f : Tile → Tile) : (s.modTile i f).tile i = f (s.tile i) :=
  Map.get_put_self _ _ _ _

theorem State.tile_modTile_other (s : State) (i j : Nat) (f : Tile → Tile) (h : j ≠ i) : (s.modTile i f).tile j = s.tile j :=
  Map.get_put_other _ _ _ _ _ h

@[simp] theorem State.strand_setTile (s : State) (i j : Nat) (k : Tile) : (s.setTile i k).strand j = s.strand j := rfl
@[simp] theorem State.strand_modTile (s : State) (i j : Nat) (f : Tile → Tile) : (s.modTile i f).strand j = s.strand j := rfl
@[simp] theorem State.core_setTile (s : State) (i j : Nat) (k : Tile) : (s.setTile i k).core j = s.core j := rfl
@[simp] theorem State.core_modTile (s : State) (i j : Nat) (f : Tile → Tile) : (s.modTile i f).core j = s.core j := rfl
@[simp] theorem State.cluster_setTile (s : State) (i j : Nat) (k : Tile) : (s.setTile i k).cluster j = s.cluster j := rfl
@[simp] theorem State.cluster_modTile (s : State) (i j : Nat) (f : Tile → Tile) : (s.modTile i f).cluster j = s.cluster j := rfl
@[simp] theorem State.die_setTile (s : State) (i j : Nat) (k : Tile) : (s.setTile i k).die j = s.die j := rfl
@[simp] theorem State.die_modTile (s : State) (i j : Nat) (f : Tile → Tile) : (s.modTile i f).die j = s.die j := rfl
@[simp] theorem State.pkg_setTile (s : State) (i j : Nat) (k : Tile) : (s.setTile i k).pkg j = s.pkg j := rfl
@[simp] theorem State.pkg_modTile (s : State) (i j : Nat) (f : Tile → Tile) : (s.modTile i f).pkg j = s.pkg j := rfl

/-! ## Cluster records -/

@[simp] theorem State.setCluster_focus (s : State) (c : Nat) (k : Cluster) : (s.setCluster c k).focus = s.focus := rfl
@[simp] theorem State.modCluster_focus (s : State) (c : Nat) (f : Cluster → Cluster) : (s.modCluster c f).focus = s.focus := rfl
@[simp] theorem State.setCluster_unit (s : State) (c : Nat) (k : Cluster) : (s.setCluster c k).unit = s.unit := rfl
@[simp] theorem State.modCluster_unit (s : State) (c : Nat) (f : Cluster → Cluster) : (s.modCluster c f).unit = s.unit := rfl
@[simp] theorem State.setCluster_agenda (s : State) (c : Nat) (k : Cluster) : (s.setCluster c k).agenda = s.agenda := rfl
@[simp] theorem State.modCluster_agenda (s : State) (c : Nat) (f : Cluster → Cluster) : (s.modCluster c f).agenda = s.agenda := rfl
@[simp] theorem State.setCluster_flight (s : State) (c : Nat) (k : Cluster) : (s.setCluster c k).flight = s.flight := rfl
@[simp] theorem State.modCluster_flight (s : State) (c : Nat) (f : Cluster → Cluster) : (s.modCluster c f).flight = s.flight := rfl
@[simp] theorem State.setCluster_fresh (s : State) (c : Nat) (k : Cluster) : (s.setCluster c k).fresh = s.fresh := rfl
@[simp] theorem State.modCluster_fresh (s : State) (c : Nat) (f : Cluster → Cluster) : (s.modCluster c f).fresh = s.fresh := rfl
@[simp] theorem State.setCluster_strands (s : State) (c : Nat) (k : Cluster) : (s.setCluster c k).strands = s.strands := rfl
@[simp] theorem State.modCluster_strands (s : State) (c : Nat) (f : Cluster → Cluster) : (s.modCluster c f).strands = s.strands := rfl
@[simp] theorem State.setCluster_cores (s : State) (c : Nat) (k : Cluster) : (s.setCluster c k).cores = s.cores := rfl
@[simp] theorem State.modCluster_cores (s : State) (c : Nat) (f : Cluster → Cluster) : (s.modCluster c f).cores = s.cores := rfl
@[simp] theorem State.setCluster_tiles (s : State) (c : Nat) (k : Cluster) : (s.setCluster c k).tiles = s.tiles := rfl
@[simp] theorem State.modCluster_tiles (s : State) (c : Nat) (f : Cluster → Cluster) : (s.modCluster c f).tiles = s.tiles := rfl
@[simp] theorem State.setCluster_dies (s : State) (c : Nat) (k : Cluster) : (s.setCluster c k).dies = s.dies := rfl
@[simp] theorem State.modCluster_dies (s : State) (c : Nat) (f : Cluster → Cluster) : (s.modCluster c f).dies = s.dies := rfl
@[simp] theorem State.setCluster_pkgs (s : State) (c : Nat) (k : Cluster) : (s.setCluster c k).pkgs = s.pkgs := rfl
@[simp] theorem State.modCluster_pkgs (s : State) (c : Nat) (f : Cluster → Cluster) : (s.modCluster c f).pkgs = s.pkgs := rfl
@[simp] theorem State.setCluster_jobs (s : State) (c : Nat) (k : Cluster) : (s.setCluster c k).jobs = s.jobs := rfl
@[simp] theorem State.modCluster_jobs (s : State) (c : Nat) (f : Cluster → Cluster) : (s.modCluster c f).jobs = s.jobs := rfl
@[simp] theorem State.setCluster_mem (s : State) (c : Nat) (k : Cluster) : (s.setCluster c k).mem = s.mem := rfl
@[simp] theorem State.modCluster_mem (s : State) (c : Nat) (f : Cluster → Cluster) : (s.modCluster c f).mem = s.mem := rfl
@[simp] theorem State.setCluster_poison (s : State) (c : Nat) (k : Cluster) : (s.setCluster c k).poison = s.poison := rfl
@[simp] theorem State.modCluster_poison (s : State) (c : Nat) (f : Cluster → Cluster) : (s.modCluster c f).poison = s.poison := rfl

theorem State.cluster_setCluster (s : State) (i j : Nat) (k : Cluster) :
    (s.setCluster i k).cluster j = if j = i then k else s.cluster j := Map.get_put _ _ _ _ _

@[simp] theorem State.cluster_setCluster_self (s : State) (i : Nat) (k : Cluster) : (s.setCluster i k).cluster i = k := Map.get_put_self _ _ _ _

theorem State.cluster_setCluster_other (s : State) (i j : Nat) (k : Cluster) (h : j ≠ i) : (s.setCluster i k).cluster j = s.cluster j :=
  Map.get_put_other _ _ _ _ _ h

@[simp] theorem State.cluster_modCluster_self (s : State) (i : Nat) (f : Cluster → Cluster) : (s.modCluster i f).cluster i = f (s.cluster i) :=
  Map.get_put_self _ _ _ _

theorem State.cluster_modCluster_other (s : State) (i j : Nat) (f : Cluster → Cluster) (h : j ≠ i) : (s.modCluster i f).cluster j = s.cluster j :=
  Map.get_put_other _ _ _ _ _ h

@[simp] theorem State.strand_setCluster (s : State) (i j : Nat) (k : Cluster) : (s.setCluster i k).strand j = s.strand j := rfl
@[simp] theorem State.strand_modCluster (s : State) (i j : Nat) (f : Cluster → Cluster) : (s.modCluster i f).strand j = s.strand j := rfl
@[simp] theorem State.core_setCluster (s : State) (i j : Nat) (k : Cluster) : (s.setCluster i k).core j = s.core j := rfl
@[simp] theorem State.core_modCluster (s : State) (i j : Nat) (f : Cluster → Cluster) : (s.modCluster i f).core j = s.core j := rfl
@[simp] theorem State.tile_setCluster (s : State) (i j : Nat) (k : Cluster) : (s.setCluster i k).tile j = s.tile j := rfl
@[simp] theorem State.tile_modCluster (s : State) (i j : Nat) (f : Cluster → Cluster) : (s.modCluster i f).tile j = s.tile j := rfl
@[simp] theorem State.die_setCluster (s : State) (i j : Nat) (k : Cluster) : (s.setCluster i k).die j = s.die j := rfl
@[simp] theorem State.die_modCluster (s : State) (i j : Nat) (f : Cluster → Cluster) : (s.modCluster i f).die j = s.die j := rfl
@[simp] theorem State.pkg_setCluster (s : State) (i j : Nat) (k : Cluster) : (s.setCluster i k).pkg j = s.pkg j := rfl
@[simp] theorem State.pkg_modCluster (s : State) (i j : Nat) (f : Cluster → Cluster) : (s.modCluster i f).pkg j = s.pkg j := rfl

/-! ## Die records -/

@[simp] theorem State.setDie_focus (s : State) (d : Nat) (k : Die) : (s.setDie d k).focus = s.focus := rfl
@[simp] theorem State.modDie_focus (s : State) (d : Nat) (f : Die → Die) : (s.modDie d f).focus = s.focus := rfl
@[simp] theorem State.setDie_unit (s : State) (d : Nat) (k : Die) : (s.setDie d k).unit = s.unit := rfl
@[simp] theorem State.modDie_unit (s : State) (d : Nat) (f : Die → Die) : (s.modDie d f).unit = s.unit := rfl
@[simp] theorem State.setDie_agenda (s : State) (d : Nat) (k : Die) : (s.setDie d k).agenda = s.agenda := rfl
@[simp] theorem State.modDie_agenda (s : State) (d : Nat) (f : Die → Die) : (s.modDie d f).agenda = s.agenda := rfl
@[simp] theorem State.setDie_flight (s : State) (d : Nat) (k : Die) : (s.setDie d k).flight = s.flight := rfl
@[simp] theorem State.modDie_flight (s : State) (d : Nat) (f : Die → Die) : (s.modDie d f).flight = s.flight := rfl
@[simp] theorem State.setDie_fresh (s : State) (d : Nat) (k : Die) : (s.setDie d k).fresh = s.fresh := rfl
@[simp] theorem State.modDie_fresh (s : State) (d : Nat) (f : Die → Die) : (s.modDie d f).fresh = s.fresh := rfl
@[simp] theorem State.setDie_strands (s : State) (d : Nat) (k : Die) : (s.setDie d k).strands = s.strands := rfl
@[simp] theorem State.modDie_strands (s : State) (d : Nat) (f : Die → Die) : (s.modDie d f).strands = s.strands := rfl
@[simp] theorem State.setDie_cores (s : State) (d : Nat) (k : Die) : (s.setDie d k).cores = s.cores := rfl
@[simp] theorem State.modDie_cores (s : State) (d : Nat) (f : Die → Die) : (s.modDie d f).cores = s.cores := rfl
@[simp] theorem State.setDie_tiles (s : State) (d : Nat) (k : Die) : (s.setDie d k).tiles = s.tiles := rfl
@[simp] theorem State.modDie_tiles (s : State) (d : Nat) (f : Die → Die) : (s.modDie d f).tiles = s.tiles := rfl
@[simp] theorem State.setDie_clusters (s : State) (d : Nat) (k : Die) : (s.setDie d k).clusters = s.clusters := rfl
@[simp] theorem State.modDie_clusters (s : State) (d : Nat) (f : Die → Die) : (s.modDie d f).clusters = s.clusters := rfl
@[simp] theorem State.setDie_pkgs (s : State) (d : Nat) (k : Die) : (s.setDie d k).pkgs = s.pkgs := rfl
@[simp] theorem State.modDie_pkgs (s : State) (d : Nat) (f : Die → Die) : (s.modDie d f).pkgs = s.pkgs := rfl
@[simp] theorem State.setDie_jobs (s : State) (d : Nat) (k : Die) : (s.setDie d k).jobs = s.jobs := rfl
@[simp] theorem State.modDie_jobs (s : State) (d : Nat) (f : Die → Die) : (s.modDie d f).jobs = s.jobs := rfl
@[simp] theorem State.setDie_mem (s : State) (d : Nat) (k : Die) : (s.setDie d k).mem = s.mem := rfl
@[simp] theorem State.modDie_mem (s : State) (d : Nat) (f : Die → Die) : (s.modDie d f).mem = s.mem := rfl
@[simp] theorem State.setDie_poison (s : State) (d : Nat) (k : Die) : (s.setDie d k).poison = s.poison := rfl
@[simp] theorem State.modDie_poison (s : State) (d : Nat) (f : Die → Die) : (s.modDie d f).poison = s.poison := rfl

theorem State.die_setDie (s : State) (i j : Nat) (k : Die) :
    (s.setDie i k).die j = if j = i then k else s.die j := Map.get_put _ _ _ _ _

@[simp] theorem State.die_setDie_self (s : State) (i : Nat) (k : Die) : (s.setDie i k).die i = k := Map.get_put_self _ _ _ _

theorem State.die_setDie_other (s : State) (i j : Nat) (k : Die) (h : j ≠ i) : (s.setDie i k).die j = s.die j :=
  Map.get_put_other _ _ _ _ _ h

@[simp] theorem State.die_modDie_self (s : State) (i : Nat) (f : Die → Die) : (s.modDie i f).die i = f (s.die i) :=
  Map.get_put_self _ _ _ _

theorem State.die_modDie_other (s : State) (i j : Nat) (f : Die → Die) (h : j ≠ i) : (s.modDie i f).die j = s.die j :=
  Map.get_put_other _ _ _ _ _ h

@[simp] theorem State.strand_setDie (s : State) (i j : Nat) (k : Die) : (s.setDie i k).strand j = s.strand j := rfl
@[simp] theorem State.strand_modDie (s : State) (i j : Nat) (f : Die → Die) : (s.modDie i f).strand j = s.strand j := rfl
@[simp] theorem State.core_setDie (s : State) (i j : Nat) (k : Die) : (s.setDie i k).core j = s.core j := rfl
@[simp] theorem State.core_modDie (s : State) (i j : Nat) (f : Die → Die) : (s.modDie i f).core j = s.core j := rfl
@[simp] theorem State.tile_setDie (s : State) (i j : Nat) (k : Die) : (s.setDie i k).tile j = s.tile j := rfl
@[simp] theorem State.tile_modDie (s : State) (i j : Nat) (f : Die → Die) : (s.modDie i f).tile j = s.tile j := rfl
@[simp] theorem State.cluster_setDie (s : State) (i j : Nat) (k : Die) : (s.setDie i k).cluster j = s.cluster j := rfl
@[simp] theorem State.cluster_modDie (s : State) (i j : Nat) (f : Die → Die) : (s.modDie i f).cluster j = s.cluster j := rfl
@[simp] theorem State.pkg_setDie (s : State) (i j : Nat) (k : Die) : (s.setDie i k).pkg j = s.pkg j := rfl
@[simp] theorem State.pkg_modDie (s : State) (i j : Nat) (f : Die → Die) : (s.modDie i f).pkg j = s.pkg j := rfl

/-! ## Pkg records -/

@[simp] theorem State.setPkg_focus (s : State) (p : Nat) (k : Pkg) : (s.setPkg p k).focus = s.focus := rfl
@[simp] theorem State.modPkg_focus (s : State) (p : Nat) (f : Pkg → Pkg) : (s.modPkg p f).focus = s.focus := rfl
@[simp] theorem State.setPkg_unit (s : State) (p : Nat) (k : Pkg) : (s.setPkg p k).unit = s.unit := rfl
@[simp] theorem State.modPkg_unit (s : State) (p : Nat) (f : Pkg → Pkg) : (s.modPkg p f).unit = s.unit := rfl
@[simp] theorem State.setPkg_agenda (s : State) (p : Nat) (k : Pkg) : (s.setPkg p k).agenda = s.agenda := rfl
@[simp] theorem State.modPkg_agenda (s : State) (p : Nat) (f : Pkg → Pkg) : (s.modPkg p f).agenda = s.agenda := rfl
@[simp] theorem State.setPkg_flight (s : State) (p : Nat) (k : Pkg) : (s.setPkg p k).flight = s.flight := rfl
@[simp] theorem State.modPkg_flight (s : State) (p : Nat) (f : Pkg → Pkg) : (s.modPkg p f).flight = s.flight := rfl
@[simp] theorem State.setPkg_fresh (s : State) (p : Nat) (k : Pkg) : (s.setPkg p k).fresh = s.fresh := rfl
@[simp] theorem State.modPkg_fresh (s : State) (p : Nat) (f : Pkg → Pkg) : (s.modPkg p f).fresh = s.fresh := rfl
@[simp] theorem State.setPkg_strands (s : State) (p : Nat) (k : Pkg) : (s.setPkg p k).strands = s.strands := rfl
@[simp] theorem State.modPkg_strands (s : State) (p : Nat) (f : Pkg → Pkg) : (s.modPkg p f).strands = s.strands := rfl
@[simp] theorem State.setPkg_cores (s : State) (p : Nat) (k : Pkg) : (s.setPkg p k).cores = s.cores := rfl
@[simp] theorem State.modPkg_cores (s : State) (p : Nat) (f : Pkg → Pkg) : (s.modPkg p f).cores = s.cores := rfl
@[simp] theorem State.setPkg_tiles (s : State) (p : Nat) (k : Pkg) : (s.setPkg p k).tiles = s.tiles := rfl
@[simp] theorem State.modPkg_tiles (s : State) (p : Nat) (f : Pkg → Pkg) : (s.modPkg p f).tiles = s.tiles := rfl
@[simp] theorem State.setPkg_clusters (s : State) (p : Nat) (k : Pkg) : (s.setPkg p k).clusters = s.clusters := rfl
@[simp] theorem State.modPkg_clusters (s : State) (p : Nat) (f : Pkg → Pkg) : (s.modPkg p f).clusters = s.clusters := rfl
@[simp] theorem State.setPkg_dies (s : State) (p : Nat) (k : Pkg) : (s.setPkg p k).dies = s.dies := rfl
@[simp] theorem State.modPkg_dies (s : State) (p : Nat) (f : Pkg → Pkg) : (s.modPkg p f).dies = s.dies := rfl
@[simp] theorem State.setPkg_jobs (s : State) (p : Nat) (k : Pkg) : (s.setPkg p k).jobs = s.jobs := rfl
@[simp] theorem State.modPkg_jobs (s : State) (p : Nat) (f : Pkg → Pkg) : (s.modPkg p f).jobs = s.jobs := rfl
@[simp] theorem State.setPkg_mem (s : State) (p : Nat) (k : Pkg) : (s.setPkg p k).mem = s.mem := rfl
@[simp] theorem State.modPkg_mem (s : State) (p : Nat) (f : Pkg → Pkg) : (s.modPkg p f).mem = s.mem := rfl
@[simp] theorem State.setPkg_poison (s : State) (p : Nat) (k : Pkg) : (s.setPkg p k).poison = s.poison := rfl
@[simp] theorem State.modPkg_poison (s : State) (p : Nat) (f : Pkg → Pkg) : (s.modPkg p f).poison = s.poison := rfl

theorem State.pkg_setPkg (s : State) (i j : Nat) (k : Pkg) :
    (s.setPkg i k).pkg j = if j = i then k else s.pkg j := Map.get_put _ _ _ _ _

@[simp] theorem State.pkg_setPkg_self (s : State) (i : Nat) (k : Pkg) : (s.setPkg i k).pkg i = k := Map.get_put_self _ _ _ _

theorem State.pkg_setPkg_other (s : State) (i j : Nat) (k : Pkg) (h : j ≠ i) : (s.setPkg i k).pkg j = s.pkg j :=
  Map.get_put_other _ _ _ _ _ h

@[simp] theorem State.pkg_modPkg_self (s : State) (i : Nat) (f : Pkg → Pkg) : (s.modPkg i f).pkg i = f (s.pkg i) :=
  Map.get_put_self _ _ _ _

theorem State.pkg_modPkg_other (s : State) (i j : Nat) (f : Pkg → Pkg) (h : j ≠ i) : (s.modPkg i f).pkg j = s.pkg j :=
  Map.get_put_other _ _ _ _ _ h

@[simp] theorem State.strand_setPkg (s : State) (i j : Nat) (k : Pkg) : (s.setPkg i k).strand j = s.strand j := rfl
@[simp] theorem State.strand_modPkg (s : State) (i j : Nat) (f : Pkg → Pkg) : (s.modPkg i f).strand j = s.strand j := rfl
@[simp] theorem State.core_setPkg (s : State) (i j : Nat) (k : Pkg) : (s.setPkg i k).core j = s.core j := rfl
@[simp] theorem State.core_modPkg (s : State) (i j : Nat) (f : Pkg → Pkg) : (s.modPkg i f).core j = s.core j := rfl
@[simp] theorem State.tile_setPkg (s : State) (i j : Nat) (k : Pkg) : (s.setPkg i k).tile j = s.tile j := rfl
@[simp] theorem State.tile_modPkg (s : State) (i j : Nat) (f : Pkg → Pkg) : (s.modPkg i f).tile j = s.tile j := rfl
@[simp] theorem State.cluster_setPkg (s : State) (i j : Nat) (k : Pkg) : (s.setPkg i k).cluster j = s.cluster j := rfl
@[simp] theorem State.cluster_modPkg (s : State) (i j : Nat) (f : Pkg → Pkg) : (s.modPkg i f).cluster j = s.cluster j := rfl
@[simp] theorem State.die_setPkg (s : State) (i j : Nat) (k : Pkg) : (s.setPkg i k).die j = s.die j := rfl
@[simp] theorem State.die_modPkg (s : State) (i j : Nat) (f : Pkg → Pkg) : (s.modPkg i f).die j = s.die j := rfl

/-! ## The strand of the unit in hand -/

@[simp] theorem State.modCur_focus (s : State) (f : Strand → Strand) : (s.modCur f).focus = s.focus := rfl
@[simp] theorem State.modArch_focus (s : State) (f : Arch → Arch) : (s.modArch f).focus = s.focus := rfl
@[simp] theorem State.modCur_unit (s : State) (f : Strand → Strand) : (s.modCur f).unit = s.unit := rfl
@[simp] theorem State.modArch_unit (s : State) (f : Arch → Arch) : (s.modArch f).unit = s.unit := rfl
@[simp] theorem State.modCur_agenda (s : State) (f : Strand → Strand) : (s.modCur f).agenda = s.agenda := rfl
@[simp] theorem State.modArch_agenda (s : State) (f : Arch → Arch) : (s.modArch f).agenda = s.agenda := rfl
@[simp] theorem State.modCur_flight (s : State) (f : Strand → Strand) : (s.modCur f).flight = s.flight := rfl
@[simp] theorem State.modArch_flight (s : State) (f : Arch → Arch) : (s.modArch f).flight = s.flight := rfl
@[simp] theorem State.modCur_fresh (s : State) (f : Strand → Strand) : (s.modCur f).fresh = s.fresh := rfl
@[simp] theorem State.modArch_fresh (s : State) (f : Arch → Arch) : (s.modArch f).fresh = s.fresh := rfl
@[simp] theorem State.modCur_cores (s : State) (f : Strand → Strand) : (s.modCur f).cores = s.cores := rfl
@[simp] theorem State.modArch_cores (s : State) (f : Arch → Arch) : (s.modArch f).cores = s.cores := rfl
@[simp] theorem State.modCur_tiles (s : State) (f : Strand → Strand) : (s.modCur f).tiles = s.tiles := rfl
@[simp] theorem State.modArch_tiles (s : State) (f : Arch → Arch) : (s.modArch f).tiles = s.tiles := rfl
@[simp] theorem State.modCur_clusters (s : State) (f : Strand → Strand) : (s.modCur f).clusters = s.clusters := rfl
@[simp] theorem State.modArch_clusters (s : State) (f : Arch → Arch) : (s.modArch f).clusters = s.clusters := rfl
@[simp] theorem State.modCur_dies (s : State) (f : Strand → Strand) : (s.modCur f).dies = s.dies := rfl
@[simp] theorem State.modArch_dies (s : State) (f : Arch → Arch) : (s.modArch f).dies = s.dies := rfl
@[simp] theorem State.modCur_pkgs (s : State) (f : Strand → Strand) : (s.modCur f).pkgs = s.pkgs := rfl
@[simp] theorem State.modArch_pkgs (s : State) (f : Arch → Arch) : (s.modArch f).pkgs = s.pkgs := rfl
@[simp] theorem State.modCur_jobs (s : State) (f : Strand → Strand) : (s.modCur f).jobs = s.jobs := rfl
@[simp] theorem State.modArch_jobs (s : State) (f : Arch → Arch) : (s.modArch f).jobs = s.jobs := rfl
@[simp] theorem State.modCur_mem (s : State) (f : Strand → Strand) : (s.modCur f).mem = s.mem := rfl
@[simp] theorem State.modArch_mem (s : State) (f : Arch → Arch) : (s.modArch f).mem = s.mem := rfl
@[simp] theorem State.modCur_poison (s : State) (f : Strand → Strand) : (s.modCur f).poison = s.poison := rfl
@[simp] theorem State.modArch_poison (s : State) (f : Arch → Arch) : (s.modArch f).poison = s.poison := rfl
@[simp] theorem State.core_modCur (s : State) (f : Strand → Strand) (i : Nat) : (s.modCur f).core i = s.core i := rfl
@[simp] theorem State.core_modArch (s : State) (f : Arch → Arch) (i : Nat) : (s.modArch f).core i = s.core i := rfl
@[simp] theorem State.tile_modCur (s : State) (f : Strand → Strand) (i : Nat) : (s.modCur f).tile i = s.tile i := rfl
@[simp] theorem State.tile_modArch (s : State) (f : Arch → Arch) (i : Nat) : (s.modArch f).tile i = s.tile i := rfl
@[simp] theorem State.cluster_modCur (s : State) (f : Strand → Strand) (i : Nat) : (s.modCur f).cluster i = s.cluster i := rfl
@[simp] theorem State.cluster_modArch (s : State) (f : Arch → Arch) (i : Nat) : (s.modArch f).cluster i = s.cluster i := rfl
@[simp] theorem State.die_modCur (s : State) (f : Strand → Strand) (i : Nat) : (s.modCur f).die i = s.die i := rfl
@[simp] theorem State.die_modArch (s : State) (f : Arch → Arch) (i : Nat) : (s.modArch f).die i = s.die i := rfl
@[simp] theorem State.pkg_modCur (s : State) (f : Strand → Strand) (i : Nat) : (s.modCur f).pkg i = s.pkg i := rfl
@[simp] theorem State.pkg_modArch (s : State) (f : Arch → Arch) (i : Nat) : (s.modArch f).pkg i = s.pkg i := rfl

@[simp] theorem State.cur_modCur (s : State) (f : Strand → Strand) : (s.modCur f).cur = f s.cur := State.strand_modStrand_self s _ f

@[simp] theorem State.arch_modArch (s : State) (f : Arch → Arch) : (s.modArch f).arch = f s.arch := by
  simp [State.arch, State.modArch]

@[simp] theorem State.cur_modArch (s : State) (f : Arch → Arch) : (s.modArch f).cur = { s.cur with arch := f s.cur.arch } := by
  simp [State.modArch]

theorem State.strand_modCur_other (s : State) (f : Strand → Strand) (j : Nat) (h : j ≠ s.unit.sid) :
    (s.modCur f).strand j = s.strand j := State.strand_modStrand_other s _ j f h

theorem State.strand_modArch_other (s : State) (f : Arch → Arch) (j : Nat) (h : j ≠ s.unit.sid) :
    (s.modArch f).strand j = s.strand j := State.strand_modCur_other s _ j h

/-- Two changes of one record are one. -/
theorem State.modStrand_modStrand (s : State) (i : Nat) (f g : Strand → Strand) :
    (s.modStrand i f).modStrand i g = s.modStrand i (g ∘ f) := by
  simp [State.modStrand, State.setStrand, State.strand, Map.put_put]

theorem State.modCore_modCore (s : State) (i : Nat) (f g : Core → Core) : (s.modCore i f).modCore i g = s.modCore i (g ∘ f) := by
  simp [State.modCore, State.setCore, State.core, Map.put_put]

theorem State.modCur_modCur (s : State) (f g : Strand → Strand) : (s.modCur f).modCur g = s.modCur (g ∘ f) :=
  State.modStrand_modStrand s _ f g

theorem State.modArch_modArch (s : State) (f g : Arch → Arch) : (s.modArch f).modArch g = s.modArch (g ∘ f) :=
  State.modCur_modCur s _ _

/-! ## Numbers and steps set off -/

@[simp] theorem State.later_focus (s : State) (e : Ev) : (s.later e).focus = s.focus := rfl
@[simp] theorem State.bump_focus (s : State) : s.bump.focus = s.focus := rfl
@[simp] theorem State.notYet_focus (s : State) : s.notYet.focus = s.focus := rfl
@[simp] theorem State.later_unit (s : State) (e : Ev) : (s.later e).unit = s.unit := rfl
@[simp] theorem State.bump_unit (s : State) : s.bump.unit = s.unit := rfl
@[simp] theorem State.later_agenda (s : State) (e : Ev) : (s.later e).agenda = s.agenda := rfl
@[simp] theorem State.bump_agenda (s : State) : s.bump.agenda = s.agenda := rfl
@[simp] theorem State.notYet_agenda (s : State) : s.notYet.agenda = s.agenda := rfl
@[simp] theorem State.bump_flight (s : State) : s.bump.flight = s.flight := rfl
@[simp] theorem State.notYet_flight (s : State) : s.notYet.flight = s.flight := rfl
@[simp] theorem State.later_fresh (s : State) (e : Ev) : (s.later e).fresh = s.fresh := rfl
@[simp] theorem State.notYet_fresh (s : State) : s.notYet.fresh = s.fresh := rfl
@[simp] theorem State.later_strands (s : State) (e : Ev) : (s.later e).strands = s.strands := rfl
@[simp] theorem State.bump_strands (s : State) : s.bump.strands = s.strands := rfl
@[simp] theorem State.notYet_strands (s : State) : s.notYet.strands = s.strands := rfl
@[simp] theorem State.later_cores (s : State) (e : Ev) : (s.later e).cores = s.cores := rfl
@[simp] theorem State.bump_cores (s : State) : s.bump.cores = s.cores := rfl
@[simp] theorem State.notYet_cores (s : State) : s.notYet.cores = s.cores := rfl
@[simp] theorem State.later_tiles (s : State) (e : Ev) : (s.later e).tiles = s.tiles := rfl
@[simp] theorem State.bump_tiles (s : State) : s.bump.tiles = s.tiles := rfl
@[simp] theorem State.notYet_tiles (s : State) : s.notYet.tiles = s.tiles := rfl
@[simp] theorem State.later_clusters (s : State) (e : Ev) : (s.later e).clusters = s.clusters := rfl
@[simp] theorem State.bump_clusters (s : State) : s.bump.clusters = s.clusters := rfl
@[simp] theorem State.notYet_clusters (s : State) : s.notYet.clusters = s.clusters := rfl
@[simp] theorem State.later_dies (s : State) (e : Ev) : (s.later e).dies = s.dies := rfl
@[simp] theorem State.bump_dies (s : State) : s.bump.dies = s.dies := rfl
@[simp] theorem State.notYet_dies (s : State) : s.notYet.dies = s.dies := rfl
@[simp] theorem State.later_pkgs (s : State) (e : Ev) : (s.later e).pkgs = s.pkgs := rfl
@[simp] theorem State.bump_pkgs (s : State) : s.bump.pkgs = s.pkgs := rfl
@[simp] theorem State.notYet_pkgs (s : State) : s.notYet.pkgs = s.pkgs := rfl
@[simp] theorem State.later_jobs (s : State) (e : Ev) : (s.later e).jobs = s.jobs := rfl
@[simp] theorem State.bump_jobs (s : State) : s.bump.jobs = s.jobs := rfl
@[simp] theorem State.notYet_jobs (s : State) : s.notYet.jobs = s.jobs := rfl
@[simp] theorem State.later_mem (s : State) (e : Ev) : (s.later e).mem = s.mem := rfl
@[simp] theorem State.bump_mem (s : State) : s.bump.mem = s.mem := rfl
@[simp] theorem State.notYet_mem (s : State) : s.notYet.mem = s.mem := rfl
@[simp] theorem State.later_poison (s : State) (e : Ev) : (s.later e).poison = s.poison := rfl
@[simp] theorem State.bump_poison (s : State) : s.bump.poison = s.poison := rfl
@[simp] theorem State.notYet_poison (s : State) : s.notYet.poison = s.poison := rfl
@[simp] theorem State.later_flight (s : State) (e : Ev) : (s.later e).flight = s.flight ++ [e] := rfl
@[simp] theorem State.bump_fresh (s : State) : s.bump.fresh = s.fresh + 1 := rfl
@[simp] theorem State.notYet_status (s : State) : s.notYet.unit.status = .waiting := rfl

@[simp] theorem State.strand_later (s : State) (e : Ev) (i : Nat) : (s.later e).strand i = s.strand i := rfl
@[simp] theorem State.strand_bump (s : State) (i : Nat) : s.bump.strand i = s.strand i := rfl
@[simp] theorem State.strand_notYet (s : State) (i : Nat) : s.notYet.strand i = s.strand i := rfl
@[simp] theorem State.core_later (s : State) (e : Ev) (i : Nat) : (s.later e).core i = s.core i := rfl
@[simp] theorem State.core_bump (s : State) (i : Nat) : s.bump.core i = s.core i := rfl
@[simp] theorem State.core_notYet (s : State) (i : Nat) : s.notYet.core i = s.core i := rfl
@[simp] theorem State.tile_later (s : State) (e : Ev) (i : Nat) : (s.later e).tile i = s.tile i := rfl
@[simp] theorem State.tile_bump (s : State) (i : Nat) : s.bump.tile i = s.tile i := rfl
@[simp] theorem State.tile_notYet (s : State) (i : Nat) : s.notYet.tile i = s.tile i := rfl
@[simp] theorem State.cluster_later (s : State) (e : Ev) (i : Nat) : (s.later e).cluster i = s.cluster i := rfl
@[simp] theorem State.cluster_bump (s : State) (i : Nat) : s.bump.cluster i = s.cluster i := rfl
@[simp] theorem State.cluster_notYet (s : State) (i : Nat) : s.notYet.cluster i = s.cluster i := rfl
@[simp] theorem State.die_later (s : State) (e : Ev) (i : Nat) : (s.later e).die i = s.die i := rfl
@[simp] theorem State.die_bump (s : State) (i : Nat) : s.bump.die i = s.die i := rfl
@[simp] theorem State.die_notYet (s : State) (i : Nat) : s.notYet.die i = s.die i := rfl
@[simp] theorem State.pkg_later (s : State) (e : Ev) (i : Nat) : (s.later e).pkg i = s.pkg i := rfl
@[simp] theorem State.pkg_bump (s : State) (i : Nat) : s.bump.pkg i = s.pkg i := rfl
@[simp] theorem State.pkg_notYet (s : State) (i : Nat) : s.notYet.pkg i = s.pkg i := rfl

/-! ## Jobs -/

@[simp] theorem State.job_setJob_self (s : State) (j : Nat) (b : Job) : (s.setJob j b).job j = some b := Map.find_put_self _ _ _

theorem State.job_setJob_other (s : State) (i j : Nat) (b : Job) (h : j ≠ i) : (s.setJob i b).job j = s.job j :=
  Map.find_put_other _ _ _ _ h

/-! ## Registers (R45) -/

@[simp] theorem Arch.getX_zero (a : Arch) : a.getX 0 = 0 := by simp [Arch.getX]

@[simp] theorem Arch.setX_zero (a : Arch) (w : Word) : a.setX 0 w = a := by simp [Arch.setX]

theorem Arch.getX_setX (a : Arch) (r q : XReg) (w : Word) :
    (a.setX r w).getX q = if q = r then (if r = 0 then 0 else w) else a.getX q := by
  unfold Arch.setX Arch.getX
  by_cases hr : r = 0
  · subst hr
    by_cases hq : q = 0
    · rw [if_pos hq, if_pos hq, if_pos rfl]
    · rw [if_neg hq, if_neg hq, if_pos rfl, if_neg hq]
  · by_cases hq : q = r
    · subst hq
      rw [if_neg hr, if_neg hr, if_pos rfl, if_neg hr]
      exact Vector.getElem_set_self _
    · have : q.toNat ≠ r.toNat := fun h => hq (BitVec.eq_of_toNat_eq h)
      simp only [hr, if_false, hq]
      split
      · rfl
      · rw [Vector.getElem_set_ne _ _ (Ne.symm this)]

theorem Arch.getV_setV (a : Arch) (r q : VReg) (w : VecVal) : (a.setV r w).getV q = if q = r then w else a.getV q := by
  unfold Arch.setV Arch.getV
  by_cases hq : q = r
  · subst hq; simp
  · have : q.toNat ≠ r.toNat := fun h => hq (BitVec.eq_of_toNat_eq h)
    simp only [hq, if_false]
    rw [Vector.getElem_set_ne _ _ (Ne.symm this)]

@[simp] theorem Arch.getM_zero (a : Arch) : a.getM 0 = BitVec.allOnes 1024 := by simp [Arch.getM]

theorem Arch.getM_setM (a : Arch) (r q : MReg) (w : MaskVal) :
    (a.setM r w).getM q = if q = r then (if r = 0 then BitVec.allOnes 1024 else w) else a.getM q := by
  unfold Arch.setM Arch.getM
  by_cases hr : r = 0
  · subst hr
    by_cases hq : q = 0
    · rw [if_pos hq, if_pos hq, if_pos rfl]
    · rw [if_neg hq, if_neg hq, if_pos rfl, if_neg hq]
  · by_cases hq : q = r
    · subst hq
      rw [if_neg hr, if_neg hr, if_pos rfl, if_neg hr]
      exact Vector.getElem_set_self _
    · have : q.toNat ≠ r.toNat := fun h => hq (BitVec.eq_of_toNat_eq h)
      simp only [hr, if_false, hq]
      split
      · rfl
      · rw [Vector.getElem_set_ne _ _ (Ne.symm this)]

theorem Arch.getG_setG (a : Arch) (r q : GReg) (w : Guard) : (a.setG r w).getG q = if q = r then w else a.getG q := by
  unfold Arch.setG Arch.getG
  by_cases hq : q = r
  · subst hq; simp
  · have : q.toNat ≠ r.toNat := fun h => hq (BitVec.eq_of_toNat_eq h)
    simp only [hq, if_false]
    rw [Vector.getElem_set_ne _ _ (Ne.symm this)]

end Sys2Proof.Machine
end

