-- ==== Sys2Proof/Laws/Access.lean ====
section
/-!
SUPPORT. Accesses: what sending one does, the pieces of an aligned access, and when the checks at issue find no cause.
-/
namespace Sys2Proof.Machine

/-- A result that waits for the event `id`: nothing for x0 and m0. -/
def laterPend (keep : VecVal) (id : Nat) (r : Reg) : Pend :=
  { reg := some r, val := 0, keep := keep, flags := 0, due := none, fixed := false, id := id }

/-- Setting registers to wait touches only the results of the unit's strand. -/
theorem State.foldl_wlater (keep : VecVal) (id : Nat) (l : List Reg) : ∀ s : State,
    let t := l.foldl (fun s r => s.wlater r keep id) s
    t = { s with strands := t.strands } ∧ (∀ sid, sid ≠ s.unit.sid → t.strand sid = s.strand sid) ∧
    t.cur = { s.cur with pend := s.cur.pend ++ (l.filter fun r => r != .x 0 && r != .m 0).map (laterPend keep id) } := by
  induction l with
  | nil => intro s; exact ⟨rfl, fun _ _ => rfl, by simp⟩
  | cons r l ih =>
    intro s
    have h := ih (s.wlater r keep id)
    simp only [List.foldl_cons] at h ⊢
    by_cases hr : r = .x 0 ∨ r = .m 0
    · have e : s.wlater r keep id = s := by
        unfold State.wlater; rw [if_pos (by rcases hr with h | h <;> subst h <;> rfl)]
      have f : (r != .x 0 && r != .m 0) = false := by rcases hr with h | h <;> subst h <;> rfl
      rw [e] at h ⊢
      rw [List.filter_cons, f]
      exact h
    · have hr1 : r ≠ .x 0 := fun h => hr (.inl h)
      have hr2 : r ≠ .m 0 := fun h => hr (.inr h)
      have e : s.wlater r keep id = s.pushPend (laterPend keep id r) := by
        unfold State.wlater; rw [if_neg (by rw [Bool.or_eq_true, decide_eq_true_iff, decide_eq_true_iff]; exact hr)]; rfl
      have f : (r != .x 0 && r != .m 0) = true := by
        rw [Bool.and_eq_true]; exact ⟨bne_iff_ne.2 hr1, bne_iff_ne.2 hr2⟩
      rw [e] at h ⊢
      obtain ⟨h1, h2, h3⟩ := h
      refine ⟨h1, fun sid hs => (h2 sid hs).trans (State.strand_modCur_other _ _ _ hs), h3.trans ?_⟩
      rw [List.filter_cons, f, State.pushPend, State.cur_modCur]
      simp only [if_true, List.map_cons, List.append_assoc, List.cons_append, List.nil_append]

/-- The registers that wait for an access of this kind. -/
def AccOp.regs : AccOp → List Reg
  | .load d => d.regs
  | .amo _ _ d _ => d.regs
  | _ => []

/-- The access that a unit sends. -/
def State.newAcc (s : State) (op : AccOp) (ps : List Piece) (acq rel inv : Bool) (overlay : List (Nat × Part)) : Acc :=
  { id := s.fresh + 1, snum := s.snum, op := op, pieces := ps, asid := s.curCore.asid, wld := s.arch.wld, user := s.arch.prv == 0,
    acq := acq, rel := rel, strong := strongOp op ps, lines := s.linesOf s.eid s.curCore.asid ps, held := false, overlay := overlay,
    bad := none, inv := inv, drops := [] }

/-- Sending an access: what a meaning that ends in it does, but for a release fence, which its strand keeps. -/
theorem sendsAccess_of {i : Instr} {s : State} {op : AccOp} {ps : List Piece} {acq rel strong inv : Bool} {overlay : List (Nat × Part)}
    {waits : List Reg} {keep : VecVal} (he : exec i s = .next (s.sendAcc op ps acq rel strong inv overlay keep))
    (hs : strong = strongOp op ps) (hr : op.releases = false)
    (hw : (op.regs.filter fun r => r != .x 0 && r != .m 0) = waits.filter fun r => r != .x 0 && r != .m 0) :
    SendsAccess i s op ps acq rel inv overlay waits keep := by
  subst hs
  let u := ({ s with fresh := s.fresh + 1 } : State).modCore s.eid fun c => { c with accs := c.accs ++ [s.newAcc op ps acq rel inv overlay] }
  have e : s.sendAcc op ps acq rel (strongOp op ps) inv overlay keep =
      (op.regs.foldl (fun w r => w.wlater r keep (s.fresh + 1)) u).later (.accessPerformed s.eid (s.fresh + 1)) := by
    cases op <;> rfl
  have h := State.foldl_wlater keep (s.fresh + 1) op.regs u
  simp only at h
  rw [e] at he
  generalize op.regs.foldl (fun w r => w.wlater r keep (s.fresh + 1)) u = w at he h
  obtain ⟨h1, h2, h3⟩ := h
  have hc := congrArg State.cores h1
  have hu := congrArg State.unit h1
  have hm := congrArg State.mem h1
  have hd := congrArg State.dies h1
  simp only at hc hu hm hd
  have hp : w.cur = { s.cur with pend := s.cur.pend ++ (waits.filter fun r => r != .x 0 && r != .m 0).map (laterPend keep (s.fresh + 1)) } :=
    Eq.trans h3 (by rw [hw]; rfl)
  have hf : w.cur.fences = s.cur.fences := by rw [hp]
  refine ⟨_, he, ?_, fun _ => hd, ?_, ?_, ?_, ?_, fun _ => hf, fun h => absurd h (by simp [hr]), ?_⟩
  · have := congrArg (fun x => x.later (.accessPerformed s.eid (s.fresh + 1))) h1
    refine this.trans ?_
    show _ = ({ s with fresh := s.fresh + 1, cores := w.cores, strands := w.strands, dies := w.dies, flight := _ } : State)
    rw [hc, hd]; rfl
  · intro e' he'
    show Map.get Core.reset w.cores e' = _
    rw [hc]
    exact State.core_modCore_other { s with fresh := s.fresh + 1 } _ _ _ he'
  · show Map.get Core.reset w.cores s.eid = _
    rw [hc]
    exact State.core_modCore_self { s with fresh := s.fresh + 1 } _ _
  · intro sid hs
    exact h2 sid hs
  · have e1 : (w.later (.accessPerformed s.eid (s.fresh + 1))).cur = w.cur := rfl
    rw [e1, hf]
    exact hp
  · intro k
    show Mem.byte w.mem k = _
    rw [hm]; rfl

/-! ## Pieces and checks -/

/-- Every byte of a piece is a byte of the access. -/
theorem cut_bytes : ∀ (fuel : Nat) (g : Word) (n : Nat), ∀ p ∈ cut g n fuel, ∀ j, j < p.len →
    ∃ i, i < n ∧ p.gva + BitVec.ofNat 64 j = g + BitVec.ofNat 64 i := by
  intro fuel
  induction fuel with
  | zero => intro g n p hp; simp [cut] at hp
  | succ f ih =>
    intro g n p hp j hj
    rw [cut] at hp
    by_cases h0 : n = 0
    · simp [h0] at hp
    · have hr : field g 0 7 < 128 := by simp [field]; omega
      by_cases h1 : n ≤ 128 - field g 0 7
      · simp only [h0, h1, if_true, if_false, List.mem_singleton] at hp
        subst hp
        exact ⟨j, hj, rfl⟩
      · simp only [h0, h1, if_false, List.mem_cons] at hp
        rcases hp with hp | hp
        · subst hp
          exact ⟨j, by simp only at hj; omega, rfl⟩
        · obtain ⟨i, hi, e⟩ := ih _ _ p hp j hj
          refine ⟨i + (128 - field g 0 7), by omega, ?_⟩
          rw [e, BitVec.ofNat_add, BitVec.add_assoc, BitVec.add_comm (BitVec.ofNat 64 i)]

/-- An aligned access of at most a line is one piece. -/
theorem pieces_aligned (g : Word) (n : Nat) (h0 : 0 < n) (hn : 128 % n = 0) (hg : g.toNat % n = 0) :
    pieces g n = [{ gva := g, len := n, nib := none }] := by
  have hd : n ∣ 128 := Nat.dvd_of_mod_eq_zero hn
  have hle : n ≤ 128 := Nat.le_of_dvd (by omega) hd
  have hm : n ∣ g.toNat % 128 := (Nat.dvd_mod_iff hd).2 (Nat.dvd_of_mod_eq_zero hg)
  have hf : field g 0 7 = g.toNat % 128 := by simp [field]
  have hr : n ≤ 128 - field g 0 7 := by
    obtain ⟨a, ha⟩ := hd
    obtain ⟨b, hb⟩ := hm
    have : g.toNat % 128 < 128 := Nat.mod_lt _ (by omega)
    rw [hf, hb]
    have : b < a := by
      rw [hb, ha] at this
      exact Nat.lt_of_mul_lt_mul_left this
    have : n * (b + 1) ≤ n * a := Nat.mul_le_mul_left _ this
    rw [Nat.mul_add, Nat.mul_one, ← ha] at this
    omega
  unfold pieces
  have : n / 128 + 2 = (n / 128 + 1) + 1 := rfl
  rw [this, cut, if_neg (by omega), if_pos hr]

/-- No cause at issue (R248). -/
theorem State.check_none {s : State} {rows : List Word} {rlen al : Nat} {wr reg : Bool} (h : s.mayAccess rows rlen al wr reg) :
    s.check rows rlen al wr reg true true = none := by
  unfold State.check
  have h1 : rows.find? (s.rowBarred (s.arch.prv == 0) reg rlen) = none := by
    rw [List.find?_eq_none]
    intro g hg
    rw [Bool.not_eq_true, State.rowBarred, List.any_eq_false]
    intro b hb
    simp [h.level g hg b hb]
  have h2 : (rows.find? fun g => g.toNat % al != 0 || gvaDie g != gvaDie (lastByte g rlen)) = none := by
    rw [List.find?_eq_none]
    intro g hg
    simp [(h.aligned g hg).1, ← (h.aligned g hg).2]
  have h3 : (rows.flatMap fun g => pieces g rlen).findSome? (lockedAt (s.tile (s.eid / 2)).locks wr) = none := by
    rw [List.findSome?_eq_none_iff]
    intro p hp
    obtain ⟨g, hg, hp⟩ := List.mem_flatMap.1 hp
    unfold lockedAt
    rw [List.find?_eq_none]
    intro b hb
    simp only [List.mem_map, List.mem_range] at hb
    obtain ⟨j, hj, rfl⟩ := hb
    obtain ⟨i, hi, e⟩ := cut_bytes _ _ _ p hp j hj
    rw [Bool.not_eq_true, List.any_eq_false]
    intro q hq
    have := h.unlocked g hg i hi q hq
    rw [e]
    simpa [and_assoc] using this
  simp only [h1, h2]
  cases rows with
  | nil => rfl
  | cons g r => simp only [h3]; rfl

end Sys2Proof.Machine
end

