-- ==== Sys2Proof/Laws/Control.lean ====
section
/-!
SUPPORT. Control: what raising a cause does where the strand takes the trap itself, jumps, and pushed return addresses.
-/
namespace Sys2Proof.Machine

open Sys2Proof

theorem putBit_zero_above (n : Nat) (h : n < 256) : putBit (BitVec.ofNat 64 n) 63 false = BitVec.ofNat 64 n := by
  unfold putBit putField
  apply BitVec.eq_of_toNat_eq
  simp
  have h9 : (9223372036854775807 : Nat) = 2 ^ 63 - 1 := rfl
  rw [h9, Nat.and_two_pow_sub_one_eq_mod]
  omega

theorem field_two (x : Word) : field x 0 2 = x.toNat % 4 := by simp [field]

/-- A meaning that raises a cause traps (R112). -/
theorem traps_of {i : Instr} {s : State} {rank code : Nat} {eval : Word} (hc : code < 256)
    (he : exec i s = .next (s.raise rank code eval)) : Traps i s code eval := by
  intro ha hd
  refine ⟨_, (s.cur.landFixed (s.cycleOf s.unit.sid)).arch, he, rfl, ?_⟩
  unfold State.raise
  rw [if_neg (by simp [ha])]
  unfold State.trapEntry
  rw [hd]
  simp only [State.trapOwn]
  refine ⟨?_, ⟨rank, rfl⟩, ?_, ?_⟩
  · show (Map.get Strand.reset (Map.put s.strands s.unit.sid _) s.unit.sid).arch = _
    rw [Map.get_put_self]
    unfold Arch.trap
    rw [putBit_zero_above _ hc]
    rfl
  · intro sid hs
    show Map.get Strand.reset (Map.put s.strands s.unit.sid _) sid = _
    rw [Map.get_put_other _ _ _ _ _ hs]; rfl
  · intro k; rfl

/-- A change of registers followed by a jump is one change. -/
theorem State.jump_modArch (s : State) (f : Arch → Arch) (t : Word) : (s.modArch f).jump t =
    { (s.modArch fun a => { f a with pc := t }) with unit := { s.unit with status := .jumped } } := by
  unfold State.jump
  rw [State.modArch_modArch]
  rfl

end Sys2Proof.Machine
end

