-- ==== Sys2Proof/Laws/Memory.lean ====
section
/-!
SUPPORT. The memory: a byte read after a write, the bytes that a write leaves, and the canonical form that every write keeps.
-/
namespace Sys2Proof.Machine

theorem Mem.byte_set (m : List Host.Cell) (k j : Nat) (b : Byte) :
    Mem.byte (Mem.set m k b) j = if j = k then b else Mem.byte m j := Map.get_putC 0 m k j b

@[simp] theorem Mem.byte_set_self (m : List Host.Cell) (k : Nat) (b : Byte) : Mem.byte (Mem.set m k b) k = b := by
  simp [Mem.byte_set]

theorem Mem.byte_set_other (m : List Host.Cell) (k j : Nat) (b : Byte) (h : j ≠ k) :
    Mem.byte (Mem.set m k b) j = Mem.byte m j := by
  simp [Mem.byte_set, h]

theorem Mem.set_wf (m : List Host.Cell) (k : Nat) (b : Byte) (h : Memory.wf m = true) : Memory.wf (Mem.set m k b) = true :=
  (Map.wf_iff_good 0 _).2 (Map.good_putC ((Map.wf_iff_good 0 m).1 h))

/-- A write changes no byte outside the bytes written. -/
theorem Mem.byte_write_other (ks : List Nat) (j : Nat) (h : j ∉ ks) : ∀ (m : List Host.Cell) (v : Nat),
    Mem.byte (Mem.write m ks v) j = Mem.byte m j := by
  induction ks with
  | nil => intro m v; rfl
  | cons k r ih =>
    intro m v
    simp only [List.mem_cons, not_or] at h
    rw [Mem.write, ih h.2, Mem.byte_set_other _ _ _ _ h.1]

/-- A write keeps the canonical form. -/
theorem Mem.write_wf (ks : List Nat) : ∀ (m : List Host.Cell) (v : Nat), Memory.wf m = true → Memory.wf (Mem.write m ks v) = true := by
  induction ks with
  | nil => intro m v h; exact h
  | cons k r ih => intro m v h; exact ih _ _ (Mem.set_wf m k _ h)

/-- Removing entries keeps the canonical form. -/
theorem Mem.filter_wf (m : List Host.Cell) (p : Host.Cell → Bool) (h : Memory.wf m = true) : Memory.wf (m.filter p) = true :=
  (Map.wf_iff_good 0 _).2 (Map.good_filter p ((Map.wf_iff_good 0 m).1 h))

theorem Mem.read_congr (ks : List Nat) (m n : List Host.Cell) (h : ∀ k ∈ ks, Mem.byte m k = Mem.byte n k) :
    Mem.read m ks = Mem.read n ks := by
  induction ks with
  | nil => rfl
  | cons k r ih =>
    simp only [Mem.read]
    rw [h k (by simp), ih fun j hj => h j (by simp [hj])]

/-- Reading the bytes just written gives the number written, as far as they hold it. -/
theorem Mem.read_write (ks : List Nat) (hn : ks.Nodup) : ∀ (m : List Host.Cell) (v : Nat),
    Mem.read (Mem.write m ks v) ks = v % 256 ^ ks.length := by
  induction ks with
  | nil => intro m v; simp [Mem.read, Nat.mod_one]
  | cons k r ih =>
    intro m v
    rw [List.nodup_cons] at hn
    simp only [Mem.read, Mem.write, List.length_cons]
    rw [Mem.byte_write_other r k hn.1, Mem.byte_set_self, ih hn.2]
    rw [BitVec.toNat_ofNat, show (256 : Nat) ^ (r.length + 1) = 256 * 256 ^ r.length by rw [Nat.pow_succ, Nat.mul_comm], Nat.mod_mul]
    
/-- Reading bytes that a write does not touch gives what they held. -/
theorem Mem.read_write_other (ks js : List Nat) (m : List Host.Cell) (v : Nat) (h : ∀ j ∈ js, j ∉ ks) :
    Mem.read (Mem.write m ks v) js = Mem.read m js :=
  Mem.read_congr js _ _ fun j hj => Mem.byte_write_other ks j (h j hj) m v

end Sys2Proof.Machine
end

