-- ==== Sys2Proof/Laws/PerInstr.lean ====
section
/-!
SUPPORT. Statements made for each instruction, by one lemma for each constructor. OneWord: no instruction is both a C word and an A word,
and an event is neither (R36, R37).
-/
namespace Sys2Proof.Laws.OneWord

open Sys2Proof

/-- The encoder gives an instruction bits of a C word, or an A word, or neither, and never both. -/
def Statement (i : Instr) : Prop := encodeCBits i = none ∨ encodeA i = none

theorem nop : Statement .nop := .inr rfl
theorem nopA : Statement .nopA := .inl rfl
theorem yield : Statement .yield := .inr rfl
theorem wfe : Statement .wfe := .inr rfl
theorem eret : Statement .eret := .inr rfl
theorem lexit : ∀ x0, Statement (.lexit x0) := fun _ => .inr rfl
theorem trap : ∀ x0, Statement (.trap x0) := fun _ => .inr rfl
theorem srd : ∀ x0 x1, Statement (.srd x0 x1) := fun _ _ => .inr rfl
theorem swr : ∀ x0 x1, Statement (.swr x0 x1) := fun _ _ => .inr rfl
theorem semsig : ∀ x0 x1, Statement (.semsig x0 x1) := fun _ _ => .inr rfl
theorem semwait : ∀ x0, Statement (.semwait x0) := fun _ => .inr rfl
theorem vxp : ∀ x0 x1 x2 x3 x4, Statement (.vxp x0 x1 x2 x3 x4) := fun _ _ _ _ _ => .inr rfl
theorem add : ∀ x0 x1 x2, Statement (.add x0 x1 x2) := fun _ _ _ => .inr rfl
theorem sub : ∀ x0 x1 x2, Statement (.sub x0 x1 x2) := fun _ _ _ => .inr rfl
theorem and : ∀ x0 x1 x2, Statement (.and x0 x1 x2) := fun _ _ _ => .inr rfl
theorem or : ∀ x0 x1 x2, Statement (.or x0 x1 x2) := fun _ _ _ => .inr rfl
theorem xor : ∀ x0 x1 x2, Statement (.xor x0 x1 x2) := fun _ _ _ => .inr rfl
theorem sll : ∀ x0 x1 x2, Statement (.sll x0 x1 x2) := fun _ _ _ => .inr rfl
theorem srl : ∀ x0 x1 x2, Statement (.srl x0 x1 x2) := fun _ _ _ => .inr rfl
theorem sra : ∀ x0 x1 x2, Statement (.sra x0 x1 x2) := fun _ _ _ => .inr rfl
theorem slt : ∀ x0 x1 x2, Statement (.slt x0 x1 x2) := fun _ _ _ => .inr rfl
theorem sltu : ∀ x0 x1 x2, Statement (.sltu x0 x1 x2) := fun _ _ _ => .inr rfl
theorem min : ∀ x0 x1 x2, Statement (.min x0 x1 x2) := fun _ _ _ => .inr rfl
theorem max : ∀ x0 x1 x2, Statement (.max x0 x1 x2) := fun _ _ _ => .inr rfl
theorem minu : ∀ x0 x1 x2, Statement (.minu x0 x1 x2) := fun _ _ _ => .inr rfl
theorem maxu : ∀ x0 x1 x2, Statement (.maxu x0 x1 x2) := fun _ _ _ => .inr rfl
theorem mul : ∀ x0 x1 x2, Statement (.mul x0 x1 x2) := fun _ _ _ => .inr rfl
theorem mulh : ∀ x0 x1 x2, Statement (.mulh x0 x1 x2) := fun _ _ _ => .inr rfl
theorem mulhu : ∀ x0 x1 x2, Statement (.mulhu x0 x1 x2) := fun _ _ _ => .inr rfl
theorem div : ∀ x0 x1 x2, Statement (.div x0 x1 x2) := fun _ _ _ => .inr rfl
theorem divu : ∀ x0 x1 x2, Statement (.divu x0 x1 x2) := fun _ _ _ => .inr rfl
theorem rem : ∀ x0 x1 x2, Statement (.rem x0 x1 x2) := fun _ _ _ => .inr rfl
theorem remu : ∀ x0 x1 x2, Statement (.remu x0 x1 x2) := fun _ _ _ => .inr rfl
theorem gaddr : ∀ x0 x1 x2, Statement (.gaddr x0 x1 x2) := fun _ _ _ => .inr rfl
theorem clz : ∀ x0 x1, Statement (.clz x0 x1) := fun _ _ => .inr rfl
theorem popc : ∀ x0 x1, Statement (.popc x0 x1) := fun _ _ => .inr rfl
theorem bswap : ∀ x0 x1, Statement (.bswap x0 x1) := fun _ _ => .inr rfl
theorem sext8 : ∀ x0 x1, Statement (.sext8 x0 x1) := fun _ _ => .inr rfl
theorem sext16 : ∀ x0 x1, Statement (.sext16 x0 x1) := fun _ _ => .inr rfl
theorem sext32 : ∀ x0 x1, Statement (.sext32 x0 x1) := fun _ _ => .inr rfl
theorem zext8 : ∀ x0 x1, Statement (.zext8 x0 x1) := fun _ _ => .inr rfl
theorem zext16 : ∀ x0 x1, Statement (.zext16 x0 x1) := fun _ _ => .inr rfl
theorem zext32 : ∀ x0 x1, Statement (.zext32 x0 x1) := fun _ _ => .inr rfl
theorem adds : ∀ x0 x1 x2 x3, Statement (.adds x0 x1 x2 x3) := fun _ _ _ _ => .inr rfl
theorem addi : ∀ x0 x1 x2, Statement (.addi x0 x1 x2) := fun _ _ _ => .inr rfl
theorem andi : ∀ x0 x1 x2, Statement (.andi x0 x1 x2) := fun _ _ _ => .inr rfl
theorem ori : ∀ x0 x1 x2, Statement (.ori x0 x1 x2) := fun _ _ _ => .inr rfl
theorem xori : ∀ x0 x1 x2, Statement (.xori x0 x1 x2) := fun _ _ _ => .inr rfl
theorem slti : ∀ x0 x1 x2, Statement (.slti x0 x1 x2) := fun _ _ _ => .inr rfl
theorem slli : ∀ x0 x1 x2, Statement (.slli x0 x1 x2) := fun _ _ _ => .inr rfl
theorem srli : ∀ x0 x1 x2, Statement (.srli x0 x1 x2) := fun _ _ _ => .inr rfl
theorem srai : ∀ x0 x1 x2, Statement (.srai x0 x1 x2) := fun _ _ _ => .inr rfl
theorem lui : ∀ x0 x1, Statement (.lui x0 x1) := fun _ _ => .inr rfl
theorem beq : ∀ x0 x1 x2, Statement (.beq x0 x1 x2) := fun _ _ _ => .inr rfl
theorem bne : ∀ x0 x1 x2, Statement (.bne x0 x1 x2) := fun _ _ _ => .inr rfl
theorem blt : ∀ x0 x1 x2, Statement (.blt x0 x1 x2) := fun _ _ _ => .inr rfl
theorem bge : ∀ x0 x1 x2, Statement (.bge x0 x1 x2) := fun _ _ _ => .inr rfl
theorem bltu : ∀ x0 x1 x2, Statement (.bltu x0 x1 x2) := fun _ _ _ => .inr rfl
theorem bgeu : ∀ x0 x1 x2, Statement (.bgeu x0 x1 x2) := fun _ _ _ => .inr rfl
theorem j : ∀ x0, Statement (.j x0) := fun _ => .inr rfl
theorem call : ∀ x0, Statement (.call x0) := fun _ => .inr rfl
theorem jr : ∀ x0, Statement (.jr x0) := fun _ => .inr rfl
theorem callr : ∀ x0, Statement (.callr x0) := fun _ => .inr rfl
theorem ret : Statement .ret := .inr rfl
theorem loop : ∀ x0 x1 x2, Statement (.loop x0 x1 x2) := fun _ _ _ => .inr rfl
theorem loopr : ∀ x0 x1 x2, Statement (.loopr x0 x1 x2) := fun _ _ _ => .inr rfl
theorem cbr : ∀ x0 x1 x2 x3, Statement (.cbr x0 x1 x2 x3) := fun _ _ _ _ => .inr rfl
theorem cvoteAnd : ∀ x0 x1 x2, Statement (.cvoteAnd x0 x1 x2) := fun _ _ _ => .inr rfl
theorem cvoteOr : ∀ x0 x1 x2, Statement (.cvoteOr x0 x1 x2) := fun _ _ _ => .inr rfl
theorem cmem : ∀ x0 x1, Statement (.cmem x0 x1) := fun _ _ => .inr rfl
theorem gbar : Statement .gbar := .inr rfl
theorem cbar : Statement .cbar := .inr rfl
theorem galloc : ∀ x0, Statement (.galloc x0) := fun _ => .inr rfl
theorem gset : ∀ x0 x1, Statement (.gset x0 x1) := fun _ _ => .inr rfl
theorem gres : ∀ x0, Statement (.gres x0) := fun _ => .inr rfl
theorem spawn : ∀ x0, Statement (.spawn x0) := fun _ => .inr rfl
theorem pubf : ∀ x0, Statement (.pubf x0) := fun _ => .inr rfl
theorem tend : Statement .tend := .inr rfl
theorem sync : Statement .sync := .inr rfl
theorem wpush : ∀ x0 x1, Statement (.wpush x0 x1) := fun _ _ => .inr rfl
theorem wpop : ∀ x0, Statement (.wpop x0) := fun _ => .inr rfl
theorem donate : ∀ x0 x1, Statement (.donate x0 x1) := fun _ _ => .inr rfl
theorem dpull : ∀ x0 x1, Statement (.dpull x0 x1) := fun _ _ => .inr rfl
theorem quiet : ∀ x0, Statement (.quiet x0) := fun _ => .inr rfl
theorem ld : ∀ x0 x1 x2 x3 x4, Statement (.ld x0 x1 x2 x3 x4) := fun _ _ _ _ _ => .inr rfl
theorem st : ∀ x0 x1 x2 x3 x4, Statement (.st x0 x1 x2 x3 x4) := fun _ _ _ _ _ => .inr rfl
theorem ldq : ∀ x0 x1 x2 x3, Statement (.ldq x0 x1 x2 x3) := fun _ _ _ _ => .inr rfl
theorem stq : ∀ x0 x1 x2 x3, Statement (.stq x0 x1 x2 x3) := fun _ _ _ _ => .inr rfl
theorem ldv : ∀ x0 x1 x2 x3, Statement (.ldv x0 x1 x2 x3) := fun _ _ _ _ => .inr rfl
theorem stv : ∀ x0 x1 x2 x3, Statement (.stv x0 x1 x2 x3) := fun _ _ _ _ => .inr rfl
theorem ldm : ∀ x0 x1 x2, Statement (.ldm x0 x1 x2) := fun _ _ _ => .inr rfl
theorem stm : ∀ x0 x1 x2, Statement (.stm x0 x1 x2) := fun _ _ _ => .inr rfl
theorem amoAdd : ∀ x0 x1 x2 x3 x4, Statement (.amoAdd x0 x1 x2 x3 x4) := fun _ _ _ _ _ => .inr rfl
theorem amoAnd : ∀ x0 x1 x2 x3 x4, Statement (.amoAnd x0 x1 x2 x3 x4) := fun _ _ _ _ _ => .inr rfl
theorem amoOr : ∀ x0 x1 x2 x3 x4, Statement (.amoOr x0 x1 x2 x3 x4) := fun _ _ _ _ _ => .inr rfl
theorem amoXor : ∀ x0 x1 x2 x3 x4, Statement (.amoXor x0 x1 x2 x3 x4) := fun _ _ _ _ _ => .inr rfl
theorem amoMin : ∀ x0 x1 x2 x3 x4, Statement (.amoMin x0 x1 x2 x3 x4) := fun _ _ _ _ _ => .inr rfl
theorem amoMax : ∀ x0 x1 x2 x3 x4, Statement (.amoMax x0 x1 x2 x3 x4) := fun _ _ _ _ _ => .inr rfl
theorem amoMinu : ∀ x0 x1 x2 x3 x4, Statement (.amoMinu x0 x1 x2 x3 x4) := fun _ _ _ _ _ => .inr rfl
theorem amoMaxu : ∀ x0 x1 x2 x3 x4, Statement (.amoMaxu x0 x1 x2 x3 x4) := fun _ _ _ _ _ => .inr rfl
theorem amoSwap : ∀ x0 x1 x2 x3 x4, Statement (.amoSwap x0 x1 x2 x3 x4) := fun _ _ _ _ _ => .inr rfl
theorem amoFadd : ∀ x0 x1 x2 x3 x4, Statement (.amoFadd x0 x1 x2 x3 x4) := fun _ _ _ _ _ => .inr rfl
theorem cas : ∀ x0 x1 x2 x3 x4, Statement (.cas x0 x1 x2 x3 x4) := fun _ _ _ _ _ => .inr rfl
theorem casq : ∀ x0 x1 x2 x3, Statement (.casq x0 x1 x2 x3) := fun _ _ _ _ => .inr rfl
theorem fence : ∀ x0 x1, Statement (.fence x0 x1) := fun _ _ => .inr rfl
theorem pf : ∀ x0 x1, Statement (.pf x0 x1) := fun _ _ => .inr rfl
theorem cfl : ∀ x0, Statement (.cfl x0) := fun _ => .inr rfl
theorem czero : ∀ x0, Statement (.czero x0) := fun _ => .inr rfl
theorem sld : ∀ x0 x1 x2, Statement (.sld x0 x1 x2) := fun _ _ _ => .inr rfl
theorem sst : ∀ x0 x1 x2, Statement (.sst x0 x1 x2) := fun _ _ _ => .inr rfl
theorem sldv : ∀ x0 x1 x2, Statement (.sldv x0 x1 x2) := fun _ _ _ => .inr rfl
theorem shloc : ∀ x0 x1 x2, Statement (.shloc x0 x1 x2) := fun _ _ _ => .inr rfl
theorem shwr : ∀ x0 x1, Statement (.shwr x0 x1) := fun _ _ => .inr rfl
theorem shswap : ∀ x0, Statement (.shswap x0) := fun _ => .inr rfl
theorem objdef : ∀ x0 x1, Statement (.objdef x0 x1) := fun _ _ => .inr rfl
theorem objdrop : ∀ x0, Statement (.objdrop x0) := fun _ => .inr rfl
theorem mapq : ∀ x0 x1, Statement (.mapq x0 x1) := fun _ _ => .inr rfl
theorem rlq : ∀ x0 x1, Statement (.rlq x0 x1) := fun _ _ => .inr rfl
theorem amsend : ∀ x0 x1 x2, Statement (.amsend x0 x1 x2) := fun _ _ _ => .inr rfl
theorem amret : ∀ x0, Statement (.amret x0) := fun _ => .inr rfl
theorem launch : ∀ x0 x1 x2, Statement (.launch x0 x1 x2) := fun _ _ _ => .inr rfl
theorem eng : ∀ x0 x1 x2, Statement (.eng x0 x1 x2) := fun _ _ _ => .inr rfl
theorem copy : ∀ x0 x1 x2 x3, Statement (.copy x0 x1 x2 x3) := fun _ _ _ _ => .inr rfl
theorem gath : ∀ x0 x1 x2 x3, Statement (.gath x0 x1 x2 x3) := fun _ _ _ _ => .inr rfl
theorem scat : ∀ x0 x1 x2 x3, Statement (.scat x0 x1 x2 x3) := fun _ _ _ _ => .inr rfl
theorem mcast : ∀ x0 x1 x2 x3, Statement (.mcast x0 x1 x2 x3) := fun _ _ _ _ => .inr rfl
theorem sortc : ∀ x0 x1 x2 x3, Statement (.sortc x0 x1 x2 x3) := fun _ _ _ _ => .inr rfl
theorem ringi : ∀ x0 x1 x2, Statement (.ringi x0 x1 x2) := fun _ _ _ => .inr rfl
theorem ringa : ∀ x0 x1, Statement (.ringa x0 x1) := fun _ _ => .inr rfl
theorem ringq : ∀ x0 x1, Statement (.ringq x0 x1) := fun _ _ => .inr rfl
theorem mbxpost : ∀ x0 x1, Statement (.mbxpost x0 x1) := fun _ _ => .inr rfl
theorem mbxread : ∀ x0 x1, Statement (.mbxread x0 x1) := fun _ _ => .inr rfl
theorem mbxclr : ∀ x0, Statement (.mbxclr x0) := fun _ => .inr rfl
theorem cbpost : ∀ x0 x1 x2, Statement (.cbpost x0 x1 x2) := fun _ _ _ => .inr rfl
theorem cbtake : ∀ x0 x1, Statement (.cbtake x0 x1) := fun _ _ => .inr rfl
theorem mwl : ∀ x0 x1 x2 x3, Statement (.mwl x0 x1 x2 x3) := fun _ _ _ _ => .inr rfl
theorem mwls : ∀ x0 x1 x2 x3, Statement (.mwls x0 x1 x2 x3) := fun _ _ _ _ => .inr rfl
theorem mma : ∀ x0 x1 x2 x3, Statement (.mma x0 x1 x2 x3) := fun _ _ _ _ => .inr rfl
theorem mgrp : ∀ x0 x1 x2 x3, Statement (.mgrp x0 x1 x2 x3) := fun _ _ _ _ => .inr rfl
theorem macz : ∀ x0 x1 x2 x3, Statement (.macz x0 x1 x2 x3) := fun _ _ _ _ => .inr rfl
theorem mdrain : ∀ x0 x1 x2 x3, Statement (.mdrain x0 x1 x2 x3) := fun _ _ _ _ => .inr rfl
theorem mwait : ∀ x0, Statement (.mwait x0) := fun _ => .inr rfl
theorem jdec : ∀ x0 x1, Statement (.jdec x0 x1) := fun _ _ => .inr rfl
theorem boost : ∀ x0, Statement (.boost x0) := fun _ => .inr rfl
theorem etq : ∀ x0 x1, Statement (.etq x0 x1) := fun _ _ => .inr rfl
theorem fadd : ∀ x0 x1 x2 x3 x4, Statement (.fadd x0 x1 x2 x3 x4) := fun _ _ _ _ _ => .inl rfl
theorem fsub : ∀ x0 x1 x2 x3 x4, Statement (.fsub x0 x1 x2 x3 x4) := fun _ _ _ _ _ => .inl rfl
theorem fmul : ∀ x0 x1 x2 x3 x4, Statement (.fmul x0 x1 x2 x3 x4) := fun _ _ _ _ _ => .inl rfl
theorem fdiv : ∀ x0 x1 x2 x3 x4, Statement (.fdiv x0 x1 x2 x3 x4) := fun _ _ _ _ _ => .inl rfl
theorem fmin : ∀ x0 x1 x2 x3, Statement (.fmin x0 x1 x2 x3) := fun _ _ _ _ => .inl rfl
theorem fmax : ∀ x0 x1 x2 x3, Statement (.fmax x0 x1 x2 x3) := fun _ _ _ _ => .inl rfl
theorem fsqrt : ∀ x0 x1 x2 x3, Statement (.fsqrt x0 x1 x2 x3) := fun _ _ _ _ => .inl rfl
theorem fclass : ∀ x0 x1 x2, Statement (.fclass x0 x1 x2) := fun _ _ _ => .inl rfl
theorem ffma : ∀ x0 x1 x2 x3 x4 x5, Statement (.ffma x0 x1 x2 x3 x4 x5) := fun _ _ _ _ _ _ => .inl rfl
theorem fcmp : ∀ x0 x1 x2 x3 x4, Statement (.fcmp x0 x1 x2 x3 x4) := fun _ _ _ _ _ => .inl rfl
theorem fcvt : ∀ x0 x1 x2 x3 x4, Statement (.fcvt x0 x1 x2 x3 x4) := fun _ _ _ _ _ => .inl rfl
theorem fsin : ∀ x0 x1 x2, Statement (.fsin x0 x1 x2) := fun _ _ _ => .inl rfl
theorem fcos : ∀ x0 x1 x2, Statement (.fcos x0 x1 x2) := fun _ _ _ => .inl rfl
theorem fexp2 : ∀ x0 x1 x2, Statement (.fexp2 x0 x1 x2) := fun _ _ _ => .inl rfl
theorem flog2 : ∀ x0 x1 x2, Statement (.flog2 x0 x1 x2) := fun _ _ _ => .inl rfl
theorem frcp : ∀ x0 x1 x2, Statement (.frcp x0 x1 x2) := fun _ _ _ => .inl rfl
theorem frsq : ∀ x0 x1 x2, Statement (.frsq x0 x1 x2) := fun _ _ _ => .inl rfl
theorem vadd : ∀ x0 x1 x2 x3, Statement (.vadd x0 x1 x2 x3) := fun _ _ _ _ => .inl rfl
theorem vsub : ∀ x0 x1 x2 x3, Statement (.vsub x0 x1 x2 x3) := fun _ _ _ _ => .inl rfl
theorem vmul : ∀ x0 x1 x2 x3, Statement (.vmul x0 x1 x2 x3) := fun _ _ _ _ => .inl rfl
theorem vfma : ∀ x0 x1 x2 x3, Statement (.vfma x0 x1 x2 x3) := fun _ _ _ _ => .inl rfl
theorem vfms : ∀ x0 x1 x2 x3, Statement (.vfms x0 x1 x2 x3) := fun _ _ _ _ => .inl rfl
theorem vmin : ∀ x0 x1 x2 x3, Statement (.vmin x0 x1 x2 x3) := fun _ _ _ _ => .inl rfl
theorem vmax : ∀ x0 x1 x2 x3, Statement (.vmax x0 x1 x2 x3) := fun _ _ _ _ => .inl rfl
theorem vabs : ∀ x0 x1 x2, Statement (.vabs x0 x1 x2) := fun _ _ _ => .inl rfl
theorem vneg : ∀ x0 x1 x2, Statement (.vneg x0 x1 x2) := fun _ _ _ => .inl rfl
theorem vdiv : ∀ x0 x1 x2 x3, Statement (.vdiv x0 x1 x2 x3) := fun _ _ _ _ => .inl rfl
theorem vsqrt : ∀ x0 x1 x2, Statement (.vsqrt x0 x1 x2) := fun _ _ _ => .inl rfl
theorem vand : ∀ x0 x1 x2 x3, Statement (.vand x0 x1 x2 x3) := fun _ _ _ _ => .inl rfl
theorem vor : ∀ x0 x1 x2 x3, Statement (.vor x0 x1 x2 x3) := fun _ _ _ _ => .inl rfl
theorem vxor : ∀ x0 x1 x2 x3, Statement (.vxor x0 x1 x2 x3) := fun _ _ _ _ => .inl rfl
theorem vnot : ∀ x0 x1 x2, Statement (.vnot x0 x1 x2) := fun _ _ _ => .inl rfl
theorem vshl : ∀ x0 x1 x2 x3, Statement (.vshl x0 x1 x2 x3) := fun _ _ _ _ => .inl rfl
theorem vshr : ∀ x0 x1 x2 x3, Statement (.vshr x0 x1 x2 x3) := fun _ _ _ _ => .inl rfl
theorem vsra : ∀ x0 x1 x2 x3, Statement (.vsra x0 x1 x2 x3) := fun _ _ _ _ => .inl rfl
theorem vcmp : ∀ x0 x1 x2 x3 x4, Statement (.vcmp x0 x1 x2 x3 x4) := fun _ _ _ _ _ => .inl rfl
theorem vsel : ∀ x0 x1 x2 x3 x4, Statement (.vsel x0 x1 x2 x3 x4) := fun _ _ _ _ _ => .inl rfl
theorem vmov : ∀ x0 x1 x2, Statement (.vmov x0 x1 x2) := fun _ _ _ => .inl rfl
theorem vbcast : ∀ x0 x1 x2, Statement (.vbcast x0 x1 x2) := fun _ _ _ => .inl rfl
theorem vextr : ∀ x0 x1 x2, Statement (.vextr x0 x1 x2) := fun _ _ _ => .inl rfl
theorem viota : ∀ x0 x1, Statement (.viota x0 x1) := fun _ _ => .inl rfl
theorem vtrn : ∀ x0 x1 x2, Statement (.vtrn x0 x1 x2) := fun _ _ _ => .inl rfl
theorem vredr : ∀ x0 x1 x2 x3, Statement (.vredr x0 x1 x2 x3) := fun _ _ _ _ => .inl rfl
theorem vredc : ∀ x0 x1 x2 x3, Statement (.vredc x0 x1 x2 x3) := fun _ _ _ _ => .inl rfl
theorem vchain : ∀ x0 x1 x2 x3, Statement (.vchain x0 x1 x2 x3) := fun _ _ _ _ => .inl rfl
theorem vcvt : ∀ x0 x1 x2, Statement (.vcvt x0 x1 x2) := fun _ _ _ => .inl rfl
theorem vqnt : ∀ x0 x1 x2 x3, Statement (.vqnt x0 x1 x2 x3) := fun _ _ _ _ => .inl rfl
theorem vdqnt : ∀ x0 x1 x2 x3, Statement (.vdqnt x0 x1 x2 x3) := fun _ _ _ _ => .inl rfl
theorem vxmax : ∀ x0 x1 x2, Statement (.vxmax x0 x1 x2) := fun _ _ _ => .inl rfl
theorem vexp2 : ∀ x0 x1 x2, Statement (.vexp2 x0 x1 x2) := fun _ _ _ => .inl rfl
theorem vlog2 : ∀ x0 x1 x2, Statement (.vlog2 x0 x1 x2) := fun _ _ _ => .inl rfl
theorem vrcp : ∀ x0 x1 x2, Statement (.vrcp x0 x1 x2) := fun _ _ _ => .inl rfl
theorem vrsq : ∀ x0 x1 x2, Statement (.vrsq x0 x1 x2) := fun _ _ _ => .inl rfl
theorem vsin : ∀ x0 x1 x2, Statement (.vsin x0 x1 x2) := fun _ _ _ => .inl rfl
theorem vcos : ∀ x0 x1 x2, Statement (.vcos x0 x1 x2) := fun _ _ _ => .inl rfl
theorem mand : ∀ x0 x1 x2, Statement (.mand x0 x1 x2) := fun _ _ _ => .inl rfl
theorem mor : ∀ x0 x1 x2, Statement (.mor x0 x1 x2) := fun _ _ _ => .inl rfl
theorem mxor : ∀ x0 x1 x2, Statement (.mxor x0 x1 x2) := fun _ _ _ => .inl rfl
theorem mnot : ∀ x0 x1, Statement (.mnot x0 x1) := fun _ _ => .inl rfl
theorem mpopc : ∀ x0 x1, Statement (.mpopc x0 x1) := fun _ _ => .inl rfl
theorem mfirst : ∀ x0 x1, Statement (.mfirst x0 x1) := fun _ _ => .inl rfl
theorem loadWaitSwitch : ∀ x0, Statement (.loadWaitSwitch x0) := fun _ => .inr rfl
theorem watchdog : ∀ x0, Statement (.watchdog x0) := fun _ => .inr rfl
theorem external : ∀ x0, Statement (.external x0) := fun _ => .inr rfl
theorem preemptDeadline : ∀ x0, Statement (.preemptDeadline x0) := fun _ => .inr rfl
theorem dormantDispatch : ∀ x0, Statement (.dormantDispatch x0) := fun _ => .inr rfl
theorem delegatedDispatch : ∀ x0, Statement (.delegatedDispatch x0) := fun _ => .inr rfl
theorem delegatedReload : ∀ x0, Statement (.delegatedReload x0) := fun _ => .inr rfl
theorem loadHandler : ∀ x0, Statement (.loadHandler x0) := fun _ => .inr rfl
theorem storeHandler : ∀ x0, Statement (.storeHandler x0) := fun _ => .inr rfl
theorem atomicHandler : ∀ x0, Statement (.atomicHandler x0) := fun _ => .inr rfl
theorem casHandler : ∀ x0, Statement (.casHandler x0) := fun _ => .inr rfl
theorem joinDecrement : ∀ x0, Statement (.joinDecrement x0) := fun _ => .inr rfl
theorem mailboxInsert : ∀ x0, Statement (.mailboxInsert x0) := fun _ => .inr rfl
theorem ringAdvance : ∀ x0, Statement (.ringAdvance x0) := fun _ => .inr rfl
theorem ringAdvanceDeferred : ∀ x0 x1, Statement (.ringAdvanceDeferred x0 x1) := fun _ _ => .inr rfl
theorem semaphoreSignal : ∀ x0, Statement (.semaphoreSignal x0) := fun _ => .inr rfl
theorem exchange : ∀ x0, Statement (.exchange x0) := fun _ => .inr rfl
theorem subByteStore : ∀ x0, Statement (.subByteStore x0) := fun _ => .inr rfl
theorem softwareMessage : ∀ x0, Statement (.softwareMessage x0) := fun _ => .inr rfl
theorem reply : ∀ x0, Statement (.reply x0) := fun _ => .inr rfl
theorem refusal : ∀ x0, Statement (.refusal x0) := fun _ => .inr rfl
theorem resetAgent : ∀ x0 x1, Statement (.resetAgent x0 x1) := fun _ _ => .inr rfl
theorem engineCommand : ∀ x0, Statement (.engineCommand x0) := fun _ => .inr rfl
theorem engineCommandStart : ∀ x0, Statement (.engineCommandStart x0) := fun _ => .inr rfl
theorem engineCompletion : ∀ x0 x1, Statement (.engineCompletion x0 x1) := fun _ _ => .inr rfl
theorem matrixPanelLatch : ∀ x0, Statement (.matrixPanelLatch x0) := fun _ => .inr rfl
theorem matrixRowEntry : ∀ x0, Statement (.matrixRowEntry x0) := fun _ => .inr rfl
theorem matrixRowAccumulate : ∀ x0, Statement (.matrixRowAccumulate x0) := fun _ => .inr rfl
theorem matrixTagComplete : ∀ x0 x1, Statement (.matrixTagComplete x0 x1) := fun _ _ => .inr rfl
theorem engineFaultTaken : ∀ x0, Statement (.engineFaultTaken x0) := fun _ => .inr rfl
theorem ringStallStop : ∀ x0, Statement (.ringStallStop x0) := fun _ => .inr rfl
theorem drainRow : ∀ x0, Statement (.drainRow x0) := fun _ => .inr rfl
theorem collectiveContribution : ∀ x0 x1 x2, Statement (.collectiveContribution x0 x1 x2) := fun _ _ _ => .inr rfl
theorem dieLanes : ∀ x0 x1, Statement (.dieLanes x0 x1) := fun _ _ => .inr rfl
theorem planeReduction : ∀ x0, Statement (.planeReduction x0) := fun _ => .inr rfl
theorem collectiveOutcome : ∀ x0, Statement (.collectiveOutcome x0) := fun _ => .inr rfl
theorem heldStoreDrain : ∀ x0, Statement (.heldStoreDrain x0) := fun _ => .inr rfl
theorem cbarComplete : ∀ x0 x1, Statement (.cbarComplete x0 x1) := fun _ _ => .inr rfl
theorem departureApplied : ∀ x0, Statement (.departureApplied x0) := fun _ => .inr rfl
theorem mdepWrite : ∀ x0 x1, Statement (.mdepWrite x0 x1) := fun _ _ => .inr rfl
theorem cfsumWrite : ∀ x0 x1, Statement (.cfsumWrite x0 x1) := fun _ _ => .inr rfl
theorem slcfgWrite : ∀ x0 x1, Statement (.slcfgWrite x0 x1) := fun _ _ => .inr rfl
theorem slcfgDone : ∀ x0, Statement (.slcfgDone x0) := fun _ => .inr rfl
theorem registerWrite : ∀ x0 x1, Statement (.registerWrite x0 x1) := fun _ _ => .inr rfl
theorem stealProbe : ∀ x0, Statement (.stealProbe x0) := fun _ => .inr rfl
theorem stealRoundTimer : ∀ x0, Statement (.stealRoundTimer x0) := fun _ => .inr rfl
theorem theft : ∀ x0 x1 x2, Statement (.theft x0 x1 x2) := fun _ _ _ => .inr rfl
theorem stolenRecordStart : ∀ x0, Statement (.stolenRecordStart x0) := fun _ => .inr rfl
theorem syncPoll : ∀ x0, Statement (.syncPoll x0) := fun _ => .inr rfl
theorem tokenPass : ∀ x0, Statement (.tokenPass x0) := fun _ => .inr rfl
theorem sideLogRetire : ∀ x0 x1 x2 x3 x4, Statement (.sideLogRetire x0 x1 x2 x3 x4) := fun _ _ _ _ _ => .inr rfl
theorem sideLogReplay : ∀ x0 x1, Statement (.sideLogReplay x0 x1) := fun _ _ => .inr rfl
theorem faultOpen : ∀ x0 x1 x2, Statement (.faultOpen x0 x1 x2) := fun _ _ _ => .inr rfl
theorem tlbWalk : ∀ x0 x1, Statement (.tlbWalk x0 x1) := fun _ _ => .inr rfl
theorem dirtyLogMerge : ∀ x0, Statement (.dirtyLogMerge x0) := fun _ => .inr rfl
theorem inval : ∀ x0, Statement (.inval x0) := fun _ => .inr rfl
theorem resolve : ∀ x0, Statement (.resolve x0) := fun _ => .inr rfl
theorem migrate : ∀ x0, Statement (.migrate x0) := fun _ => .inr rfl
theorem migrateCommit : ∀ x0 x1, Statement (.migrateCommit x0 x1) := fun _ _ => .inr rfl
theorem scrub : ∀ x0, Statement (.scrub x0) := fun _ => .inr rfl
theorem wsync : ∀ x0, Statement (.wsync x0) := fun _ => .inr rfl
theorem doorbell : ∀ x0 x1 x2, Statement (.doorbell x0 x1 x2) := fun _ _ _ => .inr rfl
theorem launchPacketArrival : ∀ x0 x1 x2 x3 x4, Statement (.launchPacketArrival x0 x1 x2 x3 x4) := fun _ _ _ _ _ => .inr rfl
theorem placementTick : ∀ x0, Statement (.placementTick x0) := fun _ => .inr rfl
theorem launchRetry : ∀ x0 x1, Statement (.launchRetry x0 x1) := fun _ _ => .inr rfl
theorem placementReservation : ∀ x0 x1 x2 x3 x4, Statement (.placementReservation x0 x1 x2 x3 x4) := fun _ _ _ _ _ => .inr rfl
theorem residence : ∀ x0 x1, Statement (.residence x0 x1) := fun _ _ => .inr rfl
theorem contextSave : ∀ x0, Statement (.contextSave x0) := fun _ => .inr rfl
theorem jobCompletion : ∀ x0, Statement (.jobCompletion x0) := fun _ => .inr rfl
theorem kill : ∀ x0, Statement (.kill x0) := fun _ => .inr rfl
theorem energyRefill : ∀ x0, Statement (.energyRefill x0) := fun _ => .inr rfl
theorem energyCharge : ∀ x0, Statement (.energyCharge x0) := fun _ => .inr rfl
theorem headCharge : ∀ x0, Statement (.headCharge x0) := fun _ => .inr rfl
theorem boostBoundary : ∀ x0, Statement (.boostBoundary x0) := fun _ => .inr rfl
theorem hotMark : ∀ x0 x1, Statement (.hotMark x0 x1) := fun _ _ => .inr rfl
theorem clockSwitch : ∀ x0, Statement (.clockSwitch x0) := fun _ => .inr rfl
theorem quiesceTimeout : ∀ x0, Statement (.quiesceTimeout x0) := fun _ => .inr rfl
theorem clusterGate : ∀ x0, Statement (.clusterGate x0) := fun _ => .inr rfl
theorem clusterWake : ∀ x0, Statement (.clusterWake x0) := fun _ => .inr rfl
theorem vernierMeasure : ∀ x0 x1, Statement (.vernierMeasure x0 x1) := fun _ _ => .inr rfl
theorem almanacWrite : ∀ x0, Statement (.almanacWrite x0) := fun _ => .inr rfl
theorem patrolScrub : ∀ x0 x1, Statement (.patrolScrub x0 x1) := fun _ _ => .inr rfl
theorem powerLimitCrossing : ∀ x0 x1, Statement (.powerLimitCrossing x0 x1) := fun _ _ => .inr rfl
theorem powerManagerSetting : ∀ x0 x1 x2, Statement (.powerManagerSetting x0 x1 x2) := fun _ _ _ => .inr rfl
theorem flitSlot : ∀ x0 x1, Statement (.flitSlot x0 x1) := fun _ _ => .inr rfl
theorem flitReceive : ∀ x0 x1 x2, Statement (.flitReceive x0 x1 x2) := fun _ _ _ => .inr rfl
theorem replayTimeout : ∀ x0 x1, Statement (.replayTimeout x0 x1) := fun _ _ => .inr rfl
theorem retrain : ∀ x0 x1, Statement (.retrain x0 x1) := fun _ _ => .inr rfl
theorem retrainDone : ∀ x0 x1, Statement (.retrainDone x0 x1) := fun _ _ => .inr rfl
theorem portDown : ∀ x0 x1, Statement (.portDown x0 x1) := fun _ _ => .inr rfl
theorem rekey : ∀ x0 x1 x2, Statement (.rekey x0 x1 x2) := fun _ _ _ => .inr rfl
theorem hostAccess : ∀ x0 x1 x2 x3, Statement (.hostAccess x0 x1 x2 x3) := fun _ _ _ _ => .inr rfl
theorem hostSectorWriteback : ∀ x0 x1 x2 x3, Statement (.hostSectorWriteback x0 x1 x2 x3) := fun _ _ _ _ => .inr rfl
theorem xword : ∀ x0 x1 x2, Statement (.xword x0 x1 x2) := fun _ _ _ => .inr rfl
theorem msixUnmask : ∀ x0 x1 x2, Statement (.msixUnmask x0 x1 x2) := fun _ _ _ => .inr rfl
theorem readAlmanac : ∀ x0, Statement (.readAlmanac x0) := fun _ => .inr rfl
theorem checkpoint : ∀ x0, Statement (.checkpoint x0) := fun _ => .inr rfl
theorem checkpointKillTimeout : ∀ x0 x1, Statement (.checkpointKillTimeout x0 x1) := fun _ _ => .inr rfl
theorem checkpointComplete : ∀ x0, Statement (.checkpointComplete x0) := fun _ => .inr rfl
theorem inputPowerLoss : ∀ x0, Statement (.inputPowerLoss x0) := fun _ => .inr rfl
theorem restore : ∀ x0, Statement (.restore x0) := fun _ => .inr rfl
theorem setPlim : ∀ x0, Statement (.setPlim x0) := fun _ => .inr rfl
theorem spdm : ∀ x0, Statement (.spdm x0) := fun _ => .inr rfl
theorem setPlane : ∀ x0, Statement (.setPlane x0) := fun _ => .inr rfl
theorem loadImage : ∀ x0, Statement (.loadImage x0) := fun _ => .inr rfl
theorem powerUp : ∀ x0, Statement (.powerUp x0) := fun _ => .inr rfl
theorem readySet : ∀ x0 x1, Statement (.readySet x0 x1) := fun _ _ => .inr rfl
theorem bringupFailure : ∀ x0 x1, Statement (.bringupFailure x0 x1) := fun _ _ => .inr rfl
theorem bringupFailureTimeout : ∀ x0 x1, Statement (.bringupFailureTimeout x0 x1) := fun _ _ => .inr rfl
theorem accessPerformed : ∀ x0 x1, Statement (.accessPerformed x0 x1) := fun _ _ => .inr rfl
theorem reservedEncoding : ∀ x0, Statement (.reservedEncoding x0) := fun _ => .inr rfl

end Sys2Proof.Laws.OneWord
end

