-- ==== Sys2Proof/Laws/Results.lean ====
section
/-!
SUPPORT. Results that land later (R42-R44): what one more result changes at every cycle, and the frames of the operations that
set results off.
-/
namespace Sys2Proof.Machine

/-- One more result lands after all the others, unless an older result of its register is still to come. -/
theorem landAux_append (t : Nat) (p : Pend) : ∀ (l kept : List Pend) (a : Arch),
    landAux t kept a (l ++ [p]) =
      if p.ready t && !((landAux t kept a l).1.any fun q => q.reg == p.reg && p.reg.isSome) then
        ((landAux t kept a l).1, p.apply (landAux t kept a l).2)
      else ((landAux t kept a l).1 ++ [p], (landAux t kept a l).2) := by
  intro l
  induction l with
  | nil =>
    intro kept a
    simp only [List.nil_append, landAux, List.any_reverse]
    split <;> simp
  | cons q r ih =>
    intro kept a
    simp only [List.cons_append, landAux]
    split <;> exact ih _ _

/-- No result of a register is kept back where every one of them is due. -/
theorem landAux_none_left (t : Nat) (r : Reg) : ∀ (l kept : List Pend) (a : Arch),
    (∀ p ∈ kept, p.reg ≠ some r) → (∀ p ∈ l, p.reg = some r → p.ready t = true) →
    ∀ p ∈ (landAux t kept a l).1, p.reg ≠ some r := by
  intro l
  induction l with
  | nil => intro kept a hk _ p hp; exact hk p (by simpa [landAux] using hp)
  | cons q l ih =>
    intro kept a hk hl
    simp only [landAux]
    split
    · exact ih _ _ hk fun p hp => hl p (by simp [hp])
    · next hn =>
      refine ih _ _ ?_ fun p hp => hl p (by simp [hp])
      intro p hp
      rcases List.mem_cons.1 hp with rfl | hp
      · intro hr
        have h1 := hl p (by simp) hr
        refine hn ?_
        simp only [h1, Bool.true_and, Bool.not_eq_true', List.any_eq_false]
        intro x hx
        simpa [hr] using hk x hx
      · exact hk p hp

/-- The registers at a cycle after one more result has been set off. -/
theorem State.archAt_pushPend (s : State) (p : Pend) (c : Nat) :
    (s.pushPend p).archAt c =
      if p.ready c && !((s.cur.land c).pend.any fun q => q.reg == p.reg && p.reg.isSome) then p.apply (s.archAt c)
      else s.archAt c := by
  have h := landAux_append c p s.cur.pend [] s.cur.arch
  have e : (s.pushPend p).archAt c = (landAux c [] s.cur.arch (s.cur.pend ++ [p])).2 := by
    simp [State.archAt, State.pushPend, Strand.land]
  rw [e, h, apply_ite Prod.snd]
  rfl

theorem State.settled_left {s : State} {r : Reg} {c : Nat} (h : s.settled r c) :
    ∀ p ∈ (s.cur.land c).pend, p.reg ≠ some r :=
  landAux_none_left c r _ _ _ (by simp) h

/-! ## One result (R43) -/

theorem Pend.apply_fixedPart (p : Pend) (a : Arch) : (p.apply a).fixedPart = a.fixedPart := by
  unfold Pend.apply Arch.raiseFlags Arch.fixedPart Arch.setX Arch.setV Arch.setM
  (repeat' split) <;> rfl

theorem Arch.raiseFlags_read (a : Arch) (f : Fl) (r : Reg) : (a.raiseFlags f).read r = a.read r := by cases r <;> rfl

theorem Arch.setX_read_other (a : Arch) (d : XReg) (w : Word) (r : Reg) (h : r ≠ .x d) : (a.setX d w).read r = a.read r := by
  cases r with
  | x n => simp only [Arch.read, Arch.getX_setX]; rw [if_neg (by rintro rfl; exact h rfl)]
  | v n => unfold Arch.setX; split <;> rfl
  | m n => unfold Arch.setX; split <;> rfl

theorem Arch.setV_read_other (a : Arch) (d : VReg) (w : VecVal) (r : Reg) (h : r ≠ .v d) : (a.setV d w).read r = a.read r := by
  cases r with
  | x n => rfl
  | v n => simp only [Arch.read, Arch.getV_setV]; rw [if_neg (by rintro rfl; exact h rfl)]
  | m n => rfl

theorem Arch.setM_read_other (a : Arch) (d : MReg) (w : MaskVal) (r : Reg) (h : r ≠ .m d) : (a.setM d w).read r = a.read r := by
  cases r with
  | x n => unfold Arch.setM; split <;> rfl
  | v n => unfold Arch.setM; split <;> rfl
  | m n => simp only [Arch.read, Arch.getM_setM]; rw [if_neg (by rintro rfl; exact h rfl)]

theorem Pend.apply_read_other (p : Pend) (a : Arch) (r : Reg) (h : p.reg ≠ some r) : (p.apply a).read r = a.read r := by
  have hb : (if p.flags = 0 then a else a.raiseFlags p.flags).read r = a.read r := by
    split
    · rfl
    · exact Arch.raiseFlags_read _ _ _
  unfold Pend.apply
  cases hp : p.reg with
  | none => exact hb
  | some q =>
    rw [hp] at h
    cases q with
    | x q => exact (Arch.setX_read_other _ _ _ _ fun e => h (e ▸ rfl)).trans hb
    | v q => exact (Arch.setV_read_other _ _ _ _ fun e => h (e ▸ rfl)).trans hb
    | m q => exact (Arch.setM_read_other _ _ _ _ fun e => h (e ▸ rfl)).trans hb

theorem Arch.setX_fmode (a : Arch) (d : XReg) (w : Word) : (a.setX d w).fmode = a.fmode := by unfold Arch.setX; split <;> rfl
theorem Arch.setM_fmode (a : Arch) (d : MReg) (w : MaskVal) : (a.setM d w).fmode = a.fmode := by unfold Arch.setM; split <;> rfl

theorem Pend.apply_fmode (p : Pend) (a : Arch) : (p.apply a).fmode = a.fmode ||| p.flags.zeroExtend 64 := by
  have hb : (if p.flags = 0 then a else a.raiseFlags p.flags).fmode = a.fmode ||| p.flags.zeroExtend 64 := by
    split
    · next h => simp [h]
    · rfl
  unfold Pend.apply
  cases p.reg with
  | none => exact hb
  | some q =>
    cases q with
    | x q => exact (Arch.setX_fmode _ _ _).trans hb
    | v q => exact hb
    | m q => exact (Arch.setM_fmode _ _ _).trans hb

/-! ## Frames -/

theorem OnlyResults.refl (s : State) (rs : List Reg) (fl : Fl) : OnlyResults s s rs fl :=
  ⟨rfl, fun _ _ => rfl, rfl, fun _ => rfl, fun _ _ _ => rfl, fun _ => rfl, fun _ _ => rfl⟩

/-- A result of a register of `rs` with flags within `fl` keeps the frame. -/
theorem OnlyResults.push {s t : State} {rs : List Reg} {fl : Fl} (h : OnlyResults s t rs fl) (p : Pend)
    (hr : ∀ r, p.reg = some r → r ∈ rs) (hf : fl = 0 → p.flags = 0) : OnlyResults s (t.pushPend p) rs fl := by
  have hu : t.unit = s.unit := by rw [h.rest]
  have hrd : ∀ c, (t.pushPend p).archAt c = p.apply (t.archAt c) ∨ (t.pushPend p).archAt c = t.archAt c := by
    intro c; rw [State.archAt_pushPend]; split
    · exact .inl rfl
    · exact .inr rfl
  refine ⟨?_, ?_, ?_, fun k => h.bytes k, ?_, ?_, ?_⟩
  · rw [h.rest]; rfl
  · intro sid hs
    rw [State.pushPend, State.strand_modCur_other _ _ _ (by rw [hu]; exact hs)]
    exact h.others sid hs
  · rw [State.pushPend, State.cur_modCur, h.own]
  · intro c r hn
    have hp : p.reg ≠ some r := fun e => hn (hr r e)
    rw [← h.reads c r hn]
    rcases hrd c with e | e <;> rw [e]
    exact Pend.apply_read_other _ _ _ hp
  · intro c
    rw [← h.special c]
    rcases hrd c with e | e <;> rw [e]
    exact Pend.apply_fixedPart _ _
  · intro h0 c
    rw [← h.flags h0 c]
    rcases hrd c with e | e <;> rw [e]
    rw [Pend.apply_fmode, hf h0]
    simp

/-- The frame of a result of an x register, whether it is fixed or scoreboarded. -/
theorem State.wx_only (s : State) (d : XReg) (v : Word) (lat : Nat) (fl : Fl) : OnlyResults s (s.wx d v lat) [.x d] fl := by
  unfold State.wx; split
  · exact .refl _ _ _
  · exact (OnlyResults.refl s _ fl).push _ (by simp) fun _ => rfl

theorem State.wxs_only (s : State) (d : XReg) (v : Word) (lat : Nat) (fl : Fl) : OnlyResults s (s.wxs d v lat) [.x d] fl := by
  unfold State.wxs; split
  · exact .refl _ _ _
  · exact (OnlyResults.refl s _ fl).push _ (by simp) fun _ => rfl

/-- An x result set off, its due cycle and its kind: what the register reads from then on and before. -/
theorem State.push_x (s : State) (d : XReg) (v : Word) (lat : Nat) (fx : Bool) (hd : d ≠ 0)
    (hs : s.settled (.x d) (s.unit.now + lat)) :
    let t := s.pushPend { reg := some (.x d), val := v.setWidth 4096, keep := 0, flags := 0, due := some (s.unit.now + lat),
                          fixed := fx, id := 0 }
    (t.archAt (s.unit.now + lat)).getX d = v ∧
    (∀ c, c < s.unit.now + lat → (t.archAt c).getX d = (s.archAt c).getX d) ∧
    (∀ c, (t.archAt c).fmode = (s.archAt c).fmode) := by
  refine ⟨?_, ?_, ?_⟩
  · rw [State.archAt_pushPend, if_pos]
    · simp only [Pend.apply, if_true, Arch.getX_setX, hd, if_false]
      simp
    · have := State.settled_left hs
      simp only [Pend.ready, Nat.le_refl, decide_true, Bool.true_and, Bool.not_eq_true', List.any_eq_false]
      intro q hq
      simpa using this q hq
  · intro c hc
    rw [State.archAt_pushPend, if_neg]
    have : ¬ s.unit.now + lat ≤ c := by omega
    simp [Pend.ready, this]
  · intro c
    rw [State.archAt_pushPend]
    split
    · rw [Pend.apply_fmode]; simp
    · rfl

/-- Flags set off after a result: they join FMODE at their cycle, and no register changes. -/
theorem State.wflags_archAt (s : State) (f : Fl) (lat : Nat) (fx : Bool) (c : Nat) :
    (s.wflags f lat fx).archAt c = (if s.unit.now + lat ≤ c then (s.archAt c).raiseFlags f else s.archAt c) := by
  unfold State.wflags
  by_cases h0 : f = 0
  · subst h0
    rw [if_pos rfl]
    split
    · simp [Arch.raiseFlags]
    · rfl
  · rw [if_neg h0, State.archAt_pushPend]
    have h0 : f ≠ 0#5 := h0
    simp [Pend.ready, Pend.apply, h0]

theorem State.wflags_only {s t : State} {rs : List Reg} {fl : Fl} (h : OnlyResults s t rs fl) (f : Fl) (lat : Nat) (fx : Bool)
    (hf : fl = 0 → f = 0) : OnlyResults s (t.wflags f lat fx) rs fl := by
  unfold State.wflags; split
  · exact h
  · exact h.push _ (by simp) hf

/-- A meaning that answers one x result with flags gives it. -/
theorem givesX_of_push {i : Instr} {s t : State} {d : XReg} {v : Word} {fl : Fl} {lat : Nat} (fx : Bool)
    (ht : t = if d = 0 then s else s.pushPend { reg := some (.x d), val := v.setWidth 4096, keep := 0, flags := 0,
                                                 due := some (s.unit.now + lat), fixed := fx, id := 0 })
    (he : exec i s = .next (t.wflags fl lat fx)) (hs : s.settled (.x d) (s.unit.now + lat)) : GivesX i s d v fl lat := by
  have hu : t.unit = s.unit := by rw [ht]; split <;> rfl
  have ho : OnlyResults s t [.x d] fl := by
    rw [ht]; split
    · exact .refl _ _ _
    · exact (OnlyResults.refl s _ fl).push _ (by simp) fun _ => rfl
  have hx : (t.archAt (s.unit.now + lat)).getX d = (if d = 0 then 0 else v) ∧
      (∀ c, c < s.unit.now + lat → (t.archAt c).getX d = (s.archAt c).getX d) ∧
      (∀ c, (t.archAt c).fmode = (s.archAt c).fmode) := by
    by_cases hd : d = 0
    · rw [if_pos hd] at ht
      subst ht hd
      exact ⟨(Arch.getX_zero _).trans (if_pos rfl).symm, fun _ _ => rfl, fun _ => rfl⟩
    · rw [if_neg hd] at ht
      rw [ht, if_neg hd]
      exact State.push_x s d v lat fx hd hs
  refine ⟨_, he, ?_, ?_, ?_, State.wflags_only ho _ _ _ fun h => h⟩
  · rw [State.wflags_archAt, hu, if_pos (Nat.le_refl _), ← hx.1]; rfl
  · intro c hc
    rw [State.wflags_archAt, hu, if_neg (by omega)]
    exact hx.2.1 c hc
  · rw [State.wflags_archAt, hu, if_pos (Nat.le_refl _), ← hx.2.2]; rfl

theorem givesX_wx {i : Instr} {s : State} {d : XReg} {v : Word} {lat : Nat} (he : exec i s = .next (s.wx d v lat))
    (hs : s.settled (.x d) (s.unit.now + lat)) : GivesX i s d v 0 lat :=
  givesX_of_push true rfl he hs

theorem givesX_wxs {i : Instr} {s : State} {d : XReg} {v : Word} {lat : Nat} (he : exec i s = .next (s.wxs d v lat))
    (hs : s.settled (.x d) (s.unit.now + lat)) : GivesX i s d v 0 lat :=
  givesX_of_push false rfl he hs

end Sys2Proof.Machine
end

