-- ==== Sys2Proof/Laws/Vector.lean ====
section
/-!
SUPPORT. Vector results: packed elements bit by bit, the charge of a vector instruction, and what the shared operations of the
element-wise instructions leave in vd (R142, R143, R146).
-/
namespace Sys2Proof.Machine

/-! ## Elements as bits -/

theorem elem_testBit (v : VecVal) (w j b : Nat) : (elem v w j).testBit b = (decide (b < w) && v.getLsbD (w * j + b)) := by
  unfold elem
  rw [Nat.testBit_mod_two_pow, Nat.testBit_div_two_pow, BitVec.getLsbD]
  rw [Nat.add_comm b]

theorem elem_eq {v u : VecVal} {w j : Nat} (h : ∀ b, b < w → v.getLsbD (w * j + b) = u.getLsbD (w * j + b)) :
    elem v w j = elem u w j := by
  apply Nat.eq_of_testBit_eq
  intro b
  rw [elem_testBit, elem_testBit]
  by_cases hb : b < w
  · rw [h b hb]
  · simp [hb]

theorem packElems_bits (w : Nat) : ∀ (l : List (Option Nat)) (j b : Nat), b < w →
    ((packElems w l).1.testBit (w * j + b) = match l[j]? with
      | some (some x) => x.testBit b
      | _ => false) ∧
    ((packElems w l).2.testBit (w * j + b) = match l[j]? with
      | some none => true
      | _ => false) := by
  intro l
  induction l with
  | nil => intro j b _; simp [packElems]
  | cons o r ih =>
    intro j b hb
    have key : ∀ y q, y < 2 ^ w → (y + 2 ^ w * q).testBit (w * j + b) =
        match j with
        | 0 => y.testBit b
        | k + 1 => q.testBit (w * k + b) := by
      intro y q hy
      rw [Nat.add_comm y, Nat.testBit_two_pow_mul_add _ hy]
      cases j with
      | zero => simp [hb]
      | succ k =>
        rw [if_neg (by rw [Nat.mul_succ]; omega)]
        congr 1
        rw [Nat.mul_succ]; omega
    have hz : (0 : Nat) < 2 ^ w := Nat.two_pow_pos w
    cases o with
    | some x =>
      have h2 : (2 ^ w * (packElems w r).2) = 0 + 2 ^ w * (packElems w r).2 := by omega
      simp only [packElems]
      rw [key _ _ (Nat.mod_lt _ hz), h2, key _ _ hz]
      cases j with
      | zero => simp [Nat.testBit_mod_two_pow, hb]
      | succ k => simpa using ih k b hb
    | none =>
      have h1 : (2 ^ w * (packElems w r).1) = 0 + 2 ^ w * (packElems w r).1 := by omega
      simp only [packElems]
      rw [h1, key _ _ hz, key _ _ (by omega)]
      cases j with
      | zero => simp [Nat.testBit_two_pow_sub_one, hb]
      | succ k => simpa using ih k b hb

theorem lowBits_bit (n i : Nat) : (lowBits n).getLsbD i = decide (i < n ∧ i < 4096) := by
  unfold lowBits
  rw [BitVec.getLsbD_ofNat, Nat.testBit_two_pow_sub_one]
  by_cases h1 : i < n <;> by_cases h2 : i < 4096 <;> simp [h1, h2]

/-- The bits of a packed result with those it keeps, as elements. -/
theorem elem_blend (w : Nat) (l : List (Option Nat)) (old : VecVal) (j : Nat) (hl : l.length * w ≤ 4096) :
    let keep := BitVec.ofNat 4096 (packElems w l).2 ||| ~~~(lowBits (l.length * w))
    elem ((old &&& keep) ||| (BitVec.ofNat 4096 (packElems w l).1 &&& ~~~keep)) w j =
      match l[j]? with
      | some (some x) => x % 2 ^ w
      | _ => elem old w j := by
  intro keep
  apply Nat.eq_of_testBit_eq
  intro b
  rw [elem_testBit]
  rcases Nat.lt_or_ge b w with hb | hb
  rotate_left
  · have hb := Nat.not_lt.2 hb
    simp only [hb, decide_false, Bool.false_and]
    split
    · rw [Nat.testBit_mod_two_pow]; simp [hb]
    · rw [elem_testBit]; simp [hb]
  have hp := packElems_bits w l j b hb
  by_cases hj : j < l.length
  · have hle : w * j + b < l.length * w := by
      have : w * j + w ≤ l.length * w := by
        rw [Nat.mul_comm l.length]; rw [← Nat.mul_succ]; exact Nat.mul_le_mul_left _ hj
      omega
    have hlt : w * j + b < 4096 := by omega
    have hx : l[j]? = some l[j] := List.getElem?_eq_getElem hj
    rw [hx] at hp ⊢
    simp only [hb, decide_true, Bool.true_and, BitVec.getLsbD_or, BitVec.getLsbD_and, BitVec.getLsbD_not, keep,
      BitVec.getLsbD_ofNat, lowBits_bit, hle, hlt, and_self, hp.1, hp.2]
    cases hc : l[j] with
    | none => simp [elem_testBit, hb]
    | some x => simp [Nat.testBit_mod_two_pow, hb]
  · have hx : l[j]? = none := List.getElem?_eq_none (by omega)
    have hge : ¬ w * j + b < l.length * w := by
      have : l.length * w ≤ w * j := by rw [Nat.mul_comm]; exact Nat.mul_le_mul_left _ (by omega)
      omega
    rw [hx] at hp ⊢
    simp only [hb, decide_true, Bool.true_and, BitVec.getLsbD_or, BitVec.getLsbD_and, BitVec.getLsbD_not, keep,
      BitVec.getLsbD_ofNat, lowBits_bit, hge, hp.1, hp.2, elem_testBit]
    by_cases hlt : w * j + b < 4096
    · simp [hlt]
    · simp [hlt, BitVec.getLsbD_of_ge _ _ (Nat.not_lt.1 hlt)]

/-! ## The charge (R411) -/

theorem Cluster.refillTo_charges (k : Cluster) (t : Nat) : (k.refillTo t).charges = k.charges := by
  unfold Cluster.refillTo; split <;> rfl

/-- A bucket at which no charge waits is refilled in one step. -/
theorem Cluster.runTo_idle (k : Cluster) (t : Nat) (h : k.charges = []) : k.runTo t = k.refillTo t := by
  unfold Cluster.runTo
  by_cases ht : t ≤ k.time
  · simp [Nat.sub_eq_zero_of_le ht, Cluster.runFor, Cluster.refillTo, ht]
  · obtain ⟨n, hn⟩ := Nat.exists_eq_add_of_lt (Nat.lt_of_not_le ht)
    have e : t - k.time = n + 1 := by omega
    have e2 : k.time + (n + 1) = t := by omega
    simp [e, Cluster.runFor, h, e2]

/-- A charge that nothing stands before and that the balance covers is taken at once. -/
theorem Cluster.charge_paid (k : Cluster) (t req : Nat) (sid : Option Nat) (pc : Word) (cost : Nat) (h : k.charges = [])
    (hc : covers (k.runTo t).tokens cost = true) :
    k.charge t req sid pc cost = ({ k.runTo t with tokens := (k.runTo t).tokens - cost }, some ((k.runTo t).tokens - cost)) := by
  have hq : (k.runTo t).charges = [] := by rw [Cluster.runTo_idle k t h, Cluster.refillTo_charges, h]
  have e : { k.runTo t with tokens := (k.runTo t).tokens - cost } =
      { k.runTo t with charges := [], tokens := (k.runTo t).tokens - cost } := by rw [← hq]
  rw [e]
  unfold Cluster.charge
  simp only [hq, List.filter_nil, List.any_nil, Bool.false_eq_true, if_false, insertCharge, Cluster.settle]
  by_cases h64 : 64 ≤ (k.runTo t).time - t
  · simp [h64, markHead, takeCharges, hc]
  · simp [h64, markHead, takeCharges, hc]

theorem State.spend_paid (s : State) (cost occ : Nat) (f : State → State) (h : s.canPay cost) :
    (s.spend cost fun t => f (t.modCore s.eid fun c => { c with vfree := s.unit.now + occ })) = f (s.paid cost occ) := by
  have hc := Cluster.charge_paid (s.cluster (s.eid / 32)) s.unit.now (requester s.eid) (some s.unit.sid) s.unit.pc cost h.1 h.2
  unfold State.spend State.spendFor State.paid
  simp only [hc]
  rfl

theorem State.vector_paid (s : State) (cost occ : Nat) (f : State → State) (h : s.canPay cost) :
    s.vector true cost occ f = f (s.paid cost occ) := by
  unfold State.vector
  exact State.spend_paid s cost occ f h

@[simp] theorem State.paid_unit (s : State) (cost occ : Nat) : (s.paid cost occ).unit = s.unit := rfl
@[simp] theorem State.paid_cur (s : State) (cost occ : Nat) : (s.paid cost occ).cur = s.cur := rfl
@[simp] theorem State.paid_archAt (s : State) (cost occ c : Nat) : (s.paid cost occ).archAt c = s.archAt c := rfl

/-! ## Element-wise results -/

theorem State.elems_length (s : State) (n : Nat) (f : Nat → FRes) : (s.elems n f).1.length = n := by
  have : ∀ l : List Nat, ((l.foldr (fun i acc =>
      if s.sel i then let r := f i; (some r.1 :: acc.1, r.2 ||| acc.2) else (s.off :: acc.1, acc.2))
      (([] : List (Option Nat)), (0 : Fl)))).1.length = l.length := by
    intro l
    induction l with
    | nil => rfl
    | cons i r ih =>
      simp only [List.foldr_cons]
      split <;> exact congrArg (· + 1) ih
  simpa [State.elems] using this (List.range n)

theorem State.elems_get (s : State) (n : Nat) (f : Nat → FRes) (j : Nat) :
    (s.elems n f).1[j]? = if j < n then some (if s.sel j then some (f j).1 else s.off) else none := by
  have : ∀ l : List Nat, (l.foldr (fun i acc =>
      if s.sel i then let r := f i; (some r.1 :: acc.1, r.2 ||| acc.2) else (s.off :: acc.1, acc.2))
      (([] : List (Option Nat)), (0 : Fl))).1 = l.map fun i => if s.sel i then some (f i).1 else s.off := by
    intro l
    induction l with
    | nil => rfl
    | cons i r ih =>
      simp only [List.foldr_cons, List.map_cons]
      by_cases h : s.sel i
      · rw [if_pos h, if_pos h]; exact congrArg (some (f i).1 :: ·) ih
      · rw [if_neg h, if_neg h]; exact congrArg (s.off :: ·) ih
  unfold State.elems
  rw [this, List.getElem?_map]
  by_cases h : j < n
  · simp [h]
  · simp [h]

theorem orFlags_foldl (g : Nat → Fl) (p : Nat → Bool) (l : List Nat) : ∀ a : Fl,
    l.foldl (fun f j => if p j then f ||| g j else f) a = a ||| l.foldl (fun f j => if p j then f ||| g j else f) 0 := by
  induction l with
  | nil => intro a; simp
  | cons i r ih =>
    intro a
    simp only [List.foldl_cons]
    by_cases h : p i
    · simp only [h, if_true]
      rw [ih (a ||| g i), ih (0 ||| g i)]
      simp [BitVec.or_assoc]
    · simp only [h, Bool.false_eq_true, if_false]
      exact ih a

theorem State.elems_flags (s : State) (n : Nat) (f : Nat → FRes) : (s.elems n f).2 = s.elemFlags n f := by
  have : ∀ l : List Nat, (l.foldr (fun i acc =>
      if s.sel i then let r := f i; (some r.1 :: acc.1, r.2 ||| acc.2) else (s.off :: acc.1, acc.2))
      (([] : List (Option Nat)), (0 : Fl))).2 = l.foldl (fun g j => if s.sel j then g ||| (f j).2 else g) 0 := by
    intro l
    induction l with
    | nil => rfl
    | cons i r ih =>
      simp only [List.foldr_cons, List.foldl_cons]
      by_cases h : s.sel i
      · simp only [h, if_true]
        rw [ih, orFlags_foldl (fun j => (f j).2) s.sel r (0 ||| (f i).2)]
        simp
      · simp only [h, Bool.false_eq_true, if_false]
        exact ih
  exact this _

theorem State.settled_paid {s : State} {r : Reg} {c : Nat} (cost occ : Nat) (h : s.settled r c) : (s.paid cost occ).settled r c := h

/-- A v result set off: what the register reads at its cycle and before. -/
theorem State.wv_archAt (s : State) (d : VReg) (v keep : VecVal) (lat : Nat) (fx : Bool)
    (hs : s.settled (.v d) (s.unit.now + lat)) :
    let t := s.wv d v keep lat fx
    (t.archAt (s.unit.now + lat)).getV d = ((s.archAt (s.unit.now + lat)).getV d &&& keep) ||| (v &&& ~~~keep) ∧
    (∀ c, c < s.unit.now + lat → (t.archAt c).getV d = (s.archAt c).getV d) ∧
    (∀ c, (t.archAt c).fmode = (s.archAt c).fmode) := by
  unfold State.wv
  refine ⟨?_, ?_, ?_⟩
  · rw [State.archAt_pushPend, if_pos]
    · simp only [Pend.apply, if_true, Arch.getV_setV]
    · have := State.settled_left hs
      simp only [Pend.ready, Nat.le_refl, decide_true, Bool.true_and, Bool.not_eq_true', List.any_eq_false]
      intro q hq
      simpa using this q hq
  · intro c hc
    rw [State.archAt_pushPend, if_neg]
    have : ¬ s.unit.now + lat ≤ c := by omega
    simp [Pend.ready, this]
  · intro c
    rw [State.archAt_pushPend]
    split
    · rw [Pend.apply_fmode]; simp
    · rfl

/-- The shared element-wise operation gives its elements. -/
theorem givesElems_vput {i : Instr} {s : State} {d : VReg} {w n cost occ lat : Nat} {e : Nat → FRes} {fx : Bool}
    (he : exec i s = .next ((s.paid cost occ).vput d w (s.elems n e) lat fx)) (hw : n * w ≤ 4096)
    (hs : s.settled (.v d) (s.unit.now + lat)) : GivesElems i s d w n e cost occ lat := by
  have hl := State.elems_length s n e
  have hf := State.elems_flags s n e
  have ho : OnlyResults (s.paid cost occ) ((s.paid cost occ).vput d w (s.elems n e) lat fx) [.v d] (s.elemFlags n e) := by
    unfold State.vput
    refine State.wflags_only ?_ _ _ _ fun h => hf.trans h
    exact (OnlyResults.refl _ _ _).push _ (by simp) fun _ => rfl
  have hx := State.wv_archAt (s.paid cost occ) d (BitVec.ofNat 4096 (packElems w (s.elems n e).1).1)
    (BitVec.ofNat 4096 (packElems w (s.elems n e).1).2 ||| ~~~(lowBits ((s.elems n e).1.length * w))) lat fx
    (State.settled_paid cost occ hs)
  refine ⟨_, he, ?_, ?_, ?_, ho⟩
  · intro j
    unfold State.vput
    rw [State.wflags_archAt]
    have hu : ((s.paid cost occ).wv d (BitVec.ofNat 4096 (packElems w (s.elems n e).1).1)
      (BitVec.ofNat 4096 (packElems w (s.elems n e).1).2 ||| ~~~(lowBits ((s.elems n e).1.length * w))) lat fx).unit = s.unit := rfl
    rw [hu, if_pos (Nat.le_refl _)]
    show elem (Arch.getV _ d) w j = _
    have h1 := hx.1
    simp only [State.paid_unit, State.paid_archAt] at h1
    show elem (((State.archAt _ _).raiseFlags _).getV d) w j = _
    have h2 : ∀ (a : Arch) (f : Fl), (a.raiseFlags f).getV d = a.getV d := fun _ _ => rfl
    rw [h2, h1, elem_blend _ _ _ _ (by rw [hl]; exact hw), State.elems_get]
    by_cases hj : j < n
    · simp only [hj, if_true]
      by_cases hsel : s.sel j
      · simp [hsel]
      · simp only [hsel, Bool.false_eq_true, if_false, State.off]
        by_cases hm : s.unit.vxp.mz <;> simp [hm]
    · simp [hj]
  · intro c hc
    unfold State.vput
    rw [State.wflags_archAt]
    have hu : ((s.paid cost occ).wv d (BitVec.ofNat 4096 (packElems w (s.elems n e).1).1)
      (BitVec.ofNat 4096 (packElems w (s.elems n e).1).2 ||| ~~~(lowBits ((s.elems n e).1.length * w))) lat fx).unit = s.unit := rfl
    rw [hu, if_neg (by omega)]
    exact hx.2.1 c hc
  · unfold State.vput
    rw [State.wflags_archAt]
    have hu : ((s.paid cost occ).wv d (BitVec.ofNat 4096 (packElems w (s.elems n e).1).1)
      (BitVec.ofNat 4096 (packElems w (s.elems n e).1).2 ||| ~~~(lowBits ((s.elems n e).1.length * w))) lat fx).unit = s.unit := rfl
    rw [hu, if_pos (Nat.le_refl _), hf]
    show _ ||| _ = _ ||| _
    rw [hx.2.2]
    rfl

end Sys2Proof.Machine
end

