-- ==== Sys2Proof/Tests/Slice0.lean ====
section
/-!
SUPPORT. Tests: terms that no encoding gives, a word for every constructor that an encoding gives, the spec's own words, single steps on
a small state, and for each statement with hypotheses a state and operands that meet them.
-/
namespace Sys2Proof.Tests

open Sys2Proof Sys2Proof.Machine

-- One theorem after the other: each in a thread of its own would need more memory than is there.
set_option Elab.async false

/-! ## Terms that stand for no encoding (R45, R46, R49, R50, R65) -/

theorem test_ill_formed_srd : (Instr.srd 1 0x00E).wellFormed = false := by decide
theorem test_ill_formed_swr : (Instr.swr 0x040 1).wellFormed = false := by decide
theorem test_ill_formed_ldq : (Instr.ldq 0 1 .plain 0).wellFormed = false := by decide
theorem test_ill_formed_stq : (Instr.stq 0 1 .plain 0).wellFormed = false := by decide
theorem test_ill_formed_casq : (Instr.casq 0 1 2 .plain).wellFormed = false ∧ (Instr.casq 2 1 0 .plain).wellFormed = false := by decide
theorem test_ill_formed_fcvt : (Instr.fcvt 1 2 .f64 .f64 .dyn).wellFormed = false := by decide
theorem test_ill_formed_vxp : (Instr.vxp 1 false .dyn false 3).wellFormed = false := by decide
theorem test_well_formed : ([.srd 1 0x03F, .ldq 1 1 .inv 0, .casq 2 1 3 .ar, .fcvt 1 2 .f64 .i64 .dyn, .vxp 1 true .rne true 3] : List Instr).all
    Instr.wellFormed = true := by decide

/-! ## Words (R36, R37, R47-R53), laid out by the encoding tables: d = 5, a = 10, b = 11 where the fields are registers -/

/-- A word is read as the instruction beside it. -/
def reads (dec : Nat → Option Instr) (p : Nat × Instr) : Bool := dec p.1 == some p.2

/-- Lone words of R52: majors 0x01, 0x02, 0x03, 0x04, 0x05, 0x06. -/
theorem test_decode_control :
    [(0x80400000, .nop),
     (0x80800000, .yield),
     (0x80800001, .wfe),
     (0x80800002, .eret),
     (0x80800005, .lexit true),
     (0x80C00ACE, .trap 2766),
     (0x810A0005, .srd 5 5),
     (0x8140A006, .swr 6 10),
     (0x818CA000, .semsig 6 10),
     (0x818C0001, .semwait 6)].all (reads (decodeTableWord 32)) = true := by decide +kernel

/-- Lone words of R52: majors 0x08. -/
theorem test_decode_integer :
    [(0x820AA580, .add 5 10 11),
     (0x820AA581, .sub 5 10 11),
     (0x820AA582, .and 5 10 11),
     (0x820AA583, .or 5 10 11),
     (0x820AA584, .xor 5 10 11),
     (0x820AA585, .sll 5 10 11),
     (0x820AA586, .srl 5 10 11),
     (0x820AA587, .sra 5 10 11),
     (0x820AA588, .slt 5 10 11),
     (0x820AA589, .sltu 5 10 11),
     (0x820AA58A, .min 5 10 11),
     (0x820AA58B, .max 5 10 11),
     (0x820AA58C, .minu 5 10 11),
     (0x820AA58D, .maxu 5 10 11),
     (0x820AA590, .mul 5 10 11),
     (0x820AA591, .mulh 5 10 11),
     (0x820AA592, .mulhu 5 10 11),
     (0x820AA594, .div 5 10 11),
     (0x820AA595, .divu 5 10 11),
     (0x820AA596, .rem 5 10 11),
     (0x820AA597, .remu 5 10 11),
     (0x820AA5B0, .gaddr 5 10 11),
     (0x820AA018, .clz 5 10),
     (0x820AA019, .popc 5 10),
     (0x820AA01A, .bswap 5 10),
     (0x820AA01C, .sext8 5 10),
     (0x820AA01D, .sext16 5 10),
     (0x820AA01E, .sext32 5 10),
     (0x820AA020, .zext8 5 10),
     (0x820AA021, .zext16 5 10),
     (0x820AA022, .zext32 5 10),
     (0x820AA5AD, .adds 5 10 11 5)].all (reads (decodeTableWord 32)) = true := by decide +kernel

/-- Lone words of R52: majors 0x09, 0x0A, 0x0B, 0x0C, 0x0D, 0x0E, 0x0F. -/
theorem test_decode_immediate :
    [(0x824AAACE, .addi 5 10 2766),
     (0x828AAACE, .andi 5 10 2766),
     (0x82CAAACE, .ori 5 10 2766),
     (0x830AAACE, .xori 5 10 2766),
     (0x834AAACE, .slti 5 10 2766),
     (0x838AA025, .slli 5 10 37),
     (0x838AA425, .srli 5 10 37),
     (0x838AA825, .srai 5 10 37),
     (0x83CA0ACE, .lui 5 2766)].all (reads (decodeTableWord 32)) = true := by decide +kernel

/-- Lone words of R52: majors 0x10, 0x11, 0x12, 0x13, 0x14, 0x15, 0x16, 0x17, 0x18, 0x19, 0x1A. -/
theorem test_decode_branch :
    [(0x8414BCE7, .beq 10 11 3303),
     (0x8454BCE7, .bne 10 11 3303),
     (0x8494BCE7, .blt 10 11 3303),
     (0x84D4BCE7, .bge 10 11 3303),
     (0x8514BCE7, .bltu 10 11 3303),
     (0x8554BCE7, .bgeu 10 11 3303),
     (0x85AB5CE7, .j 2841831),
     (0x85EB5CE7, .call 2841831),
     (0x8600A000, .jr 10),
     (0x8600A001, .callr 10),
     (0x86000002, .ret),
     (0x86738735, .loop true 2499 309),
     (0x86AA0135, .loopr true 10 309)].all (reads (decodeTableWord 32)) = true := by decide +kernel

/-- Lone words of R52: majors 0x1B, 0x1C. -/
theorem test_decode_collective :
    [(0x86D538E7, .cbr 10 9 12 231),
     (0x870AA00C, .cvoteAnd 5 10 12),
     (0x870AA01C, .cvoteOr 5 10 12),
     (0x870AA020, .cmem 5 10),
     (0x87000030, .gbar),
     (0x87000040, .cbar),
     (0x87120050, .galloc 9),
     (0x8712A060, .gset 9 10),
     (0x87120070, .gres 9)].all (reads (decodeTableWord 32)) = true := by decide +kernel

/-- Lone words of R52: majors 0x1D, 0x1E. -/
theorem test_decode_task :
    [(0x876B5CE7, .spawn 2841831),
     (0x8780A000, .pubf 10),
     (0x87800001, .tend),
     (0x87800002, .sync),
     (0x8780A583, .wpush 10 11),
     (0x878A0004, .wpop 5),
     (0x8780A585, .donate 10 11),
     (0x878AA006, .dpull 5 10),
     (0x878A0007, .quiet 5)].all (reads (decodeTableWord 32)) = true := by decide +kernel

/-- Lone words of R52: majors 0x20, 0x21, 0x22, 0x23. -/
theorem test_decode_memory :
    [(0x880CB9E7, .ld 6 11 .w .acq 231),
     (0x884CBAE7, .st 6 11 .w .rel 231),
     (0x8898B2E7, .ldq 6 11 .inv 231),
     (0x8898B6E7, .stq 6 11 .rel 231),
     (0x88CAA584, .ldv 5 10 11 .acq),
     (0x88CAA598, .stv 5 10 11 .rel),
     (0x88CAA028, .ldm 5 10 .inv),
     (0x88CAA038, .stm 5 10 .rel)].all (reads (decodeTableWord 32)) = true := by decide +kernel

/-- Lone words of R52: majors 0x24. -/
theorem test_decode_atomic :
    [(0x890AA587, .amoAdd 5 10 11 true .ar),
     (0x890AA58F, .amoAnd 5 10 11 true .ar),
     (0x890AA597, .amoOr 5 10 11 true .ar),
     (0x890AA59F, .amoXor 5 10 11 true .ar),
     (0x890AA5A7, .amoMin 5 10 11 true .ar),
     (0x890AA5AF, .amoMax 5 10 11 true .ar),
     (0x890AA5B7, .amoMinu 5 10 11 true .ar),
     (0x890AA5BF, .amoMaxu 5 10 11 true .ar),
     (0x890AA5C7, .amoSwap 5 10 11 true .ar),
     (0x890AA5CF, .amoFadd 5 10 11 true .ar),
     (0x890AA5D7, .cas 5 10 11 true .ar),
     (0x8914AB5F, .casq 5 10 11 .ar)].all (reads (decodeTableWord 32)) = true := by decide +kernel

/-- Lone words of R52: majors 0x25, 0x26, 0x27. -/
theorem test_decode_line_and_catalogue :
    [(0x89400012, .fence .die .rel),
     (0x8940A021, .pf 10 true),
     (0x8940A040, .cfl 10),
     (0x8940A060, .czero 10),
     (0x898AA0B7, .sld 5 10 183),
     (0x898AA1B7, .sst 5 10 183),
     (0x898AA2B7, .sldv 5 10 183),
     (0x898AA3B7, .shloc 5 10 183),
     (0x8980A4B7, .shwr 10 183),
     (0x898005B7, .shswap 183),
     (0x89CAA000, .objdef 5 10),
     (0x89C0A001, .objdrop 10),
     (0x89CAA002, .mapq 5 10),
     (0x89CAA003, .rlq 5 10)].all (reads (decodeTableWord 32)) = true := by decide +kernel

/-- Lone words of R52: majors 0x28, 0x29. -/
theorem test_decode_message_and_engine :
    [(0x8A0AA580, .amsend 5 10 11),
     (0x8A00A001, .amret 10),
     (0x8A0AA582, .launch 5 10 11),
     (0x8A4AA048, .eng 5 10 9),
     (0x8A4AA5C9, .copy 5 10 11 9),
     (0x8A4AA5CA, .gath 5 10 11 9),
     (0x8A4AA5CB, .scat 5 10 11 9),
     (0x8A4AA5CC, .mcast 5 10 11 9),
     (0x8A4AA5CD, .sortc 5 10 11 9)].all (reads (decodeTableWord 32)) = true := by decide +kernel

/-- Lone words of R52: majors 0x2A, 0x2B, 0x2C, 0x2D. -/
theorem test_decode_ring_matrix_and_power :
    [(0x8A80A5D0, .ringi 5 10 11),
     (0x8A80A051, .ringa 5 10),
     (0x8A8A0052, .ringq 5 5),
     (0x8AC0A580, .mbxpost 10 11),
     (0x8ACAA001, .mbxread 5 10),
     (0x8AC0A002, .mbxclr 10),
     (0x8ACAA583, .cbpost 5 10 11),
     (0x8ACAA004, .cbtake 5 10),
     (0x8B0AA5C8, .mwl 5 10 11 9),
     (0x8B0AA5C9, .mwls 5 10 11 9),
     (0x8B0AA5CA, .mma 5 10 11 9),
     (0x8B0AA5CB, .mgrp 5 10 11 9),
     (0x8B0AA5CC, .macz 5 10 11 9),
     (0x8B0AA5CD, .mdrain 5 10 11 9),
     (0x8B00A006, .mwait 10),
     (0x8B4AA000, .jdec 5 10),
     (0x8B40A001, .boost 10),
     (0x8B4AA002, .etq 5 10)].all (reads (decodeTableWord 32)) = true := by decide +kernel

/-- A words of R53: majors 0x00 and 0x10 to 0x14. -/
theorem test_decode_scalar_float :
    [(0x00000000, .nopA),
     (0x102A9690, .fadd 5 10 11 .rup .f32),
     (0x102A9691, .fsub 5 10 11 .rup .f32),
     (0x102A9692, .fmul 5 10 11 .rup .f32),
     (0x102A9693, .fdiv 5 10 11 .rup .f32),
     (0x102A9624, .fmin 5 10 11 .f16),
     (0x102A9625, .fmax 5 10 11 .f16),
     (0x102A8136, .fsqrt 5 10 .rna .bf16),
     (0x102A8037, .fclass 5 10 .bf16),
     (0x112A9757, .ffma 5 10 11 21 .rdn true),
     (0x122A9612, .fcmp .le 5 10 11 .f32),
     (0x132AAC88, .fcvt 5 10 .u32 .f16 .rtz),
     (0x142A8010, .fsin 5 10 true),
     (0x142A8011, .fcos 5 10 true),
     (0x142A8012, .fexp2 5 10 true),
     (0x142A8013, .flog2 5 10 true),
     (0x142A8014, .frcp 5 10 true),
     (0x142A8015, .frsq 5 10 true)].all (reads decodeA) = true := by decide +kernel

/-- A words of R53: majors 0x20 to 0x32. -/
theorem test_decode_vector_arithmetic :
    [(0x205AB000, .vadd 5 10 11 .f64),
     (0x215AB100, .vsub 5 10 11 .f32),
     (0x225AB200, .vmul 5 10 11 .bf16),
     (0x235AB300, .vfma 5 10 11 .f16),
     (0x245AB400, .vfms 5 10 11 .e4m3),
     (0x255AB500, .vmin 5 10 11 .e5m2),
     (0x265AB600, .vmax 5 10 11 .e2m1),
     (0x275A0800, .vabs 5 10 .i32),
     (0x285A0900, .vneg 5 10 .i16),
     (0x295AB100, .vdiv 5 10 11 .f32),
     (0x2A5A0000, .vsqrt 5 10 .f64),
     (0x2C5ABA00, .vand 5 10 11 .i8),
     (0x2D5ABB00, .vor 5 10 11 .i4),
     (0x2E5AB800, .vxor 5 10 11 .i32),
     (0x2F5A0900, .vnot 5 10 .i16),
     (0x305ABA00, .vshl 5 10 11 .i8),
     (0x315AB900, .vshr 5 10 11 .i16),
     (0x325AB800, .vsra 5 10 11 .i32)].all (reads decodeA) = true := by decide +kernel

/-- A words of R53: majors 0x34 to 0x55. -/
theorem test_decode_vector_other :
    [(0x345ABA05, .vcmp .ge 5 10 11 .i8),
     (0x355AB106, .vsel 5 10 11 6 .f32),
     (0x365A0300, .vmov 5 10 .f16),
     (0x375A8200, .vbcast 5 21 .bf16),
     (0x38AD4C00, .vextr 21 10 19),
     (0x39500800, .viota 5 .i32),
     (0x3A5A0000, .vtrn 5 10 .f64),
     (0x3C5A0101, .vredr .max 5 10 .f32),
     (0x3D5A0802, .vredc .min 5 10 .i32),
     (0x3E5AB100, .vchain 5 10 11 .f32),
     (0x405A0400, .vcvt 5 10 .e4m3),
     (0x415AB500, .vqnt 5 10 11 .e5m2),
     (0x425AB600, .vdqnt 5 10 11 .e2m1),
     (0x435A0100, .vxmax 5 10 .f32),
     (0x445A0300, .vexp2 5 10 .f16),
     (0x455A0100, .vlog2 5 10 .f32),
     (0x465A0300, .vrcp 5 10 .f16),
     (0x475A0100, .vrsq 5 10 .f32),
     (0x485A0300, .vsin 5 10 .f16),
     (0x495A0100, .vcos 5 10 .f32),
     (0x502B3800, .mand 5 6 7),
     (0x512B3800, .mor 5 6 7),
     (0x522B3800, .mxor 5 6 7),
     (0x532B0000, .mnot 5 6),
     (0x54AB0000, .mpopc 21 6),
     (0x55AB0000, .mfirst 21 6)].all (reads decodeA) = true := by decide +kernel
/-- A pair with VXP in its C word (R50), as the spec writes it, and the word pairs of the spec's examples of single steps. -/
theorem test_decode_pairs :
    decodeUnit false 0x01D7D000 0x23312100 = .ok (.pair 0 (.vxp 2 true .dyn true 4) (.vfma 3 1 2 .f32)) ∧
    decodeUnit false 0x00400000 0x133A4238 = .ok (.pair 0 .nop (.fcvt 7 9 .f64 .i64 .dyn)) ∧
    decodeUnit false 0x10400000 0x105211C2 = .ok (.pair 1 .nop (.fmul 10 8 8 .dyn .f64)) ∧
    decodeUnit false 0x00400000 0x37148100 = .ok (.pair 0 .nop (.vbcast 1 9 .f32)) ∧
    decodeUnit false 0x00400000 0x43650100 = .ok (.pair 0 .nop (.vxmax 6 5 .f32)) ∧
    decodeUnit false 0x00400000 0x41756400 = .ok (.pair 0 .nop (.vqnt 7 5 6 .e4m3)) := by
  refine ⟨?_, ?_, ?_, ?_, ?_, ?_⟩ <;> rfl

/-- Lone words that the spec writes out (R101, R107, R108, R115, R181). -/
theorem test_decode_spec_words :
    [(0x82520001, .addi 9 0 1), (0x824A000A, .addi 5 0 10), (0x844A0FFE, .bne 5 0 4094), (0x86600603, .loop true 3 3),
     (0x80800000, .yield), (0x80800001, .wfe), (0x80800002, .eret), (0x87105013, .cvoteOr 8 5 3), (0x87105020, .cmem 8 5),
     (0x87000030, .gbar), (0x87000040, .cbar)].all (reads (decodeTableWord 32)) = true := by decide +kernel

/-- Reserved majors, codes and fields, a lone VXP and a pair at 4 mod 8 are refused by name (R38, R46, R51). -/
theorem test_decode_refused :
    decodeUnit false 0 0 = .error .cWord ∧ decodeUnit false 0x9FC00000 0 = .error .cWord ∧ decodeUnit false 0x820AA58E 0 = .error .cWord ∧
    decodeUnit false 0x81C00000 0 = .error .pair ∧ decodeUnit false 0x00400000 0x01000000 = .error .aWord ∧
    decodeUnit false 0x00400000 0x80000000 = .error .aWord ∧ decodeUnit true 0x00400000 0 = .error .misaligned ∧
    decodeUnit false 0x01C38000 0x38291800 = .error .pair ∧ decodeUnit false 0x024A5FFF 0x102A5040 = .error .pair := by
  refine ⟨?_, ?_, ?_, ?_, ?_, ?_, ?_, ?_, ?_⟩ <;> rfl

/-! ## A small state: strand 0 of core 0, a worker at U of job 1, whose page at GVA 0x3_0000 lies in HBM -/

/-- R and W, STATE 00, and the target 0x2_0000 (R371). -/
def page : TlbEntry := { asid := 5, size := 16, page := 3, leaf := 0x20033, loaded := 0x20033, at_ := 0x1000 }

def job : Job :=
  { words := 0x201000000 :: 0x1000500000001 :: List.replicate 14 0, list := [(0, 1)], pkg := 0, queue := 0, src := .job 5, arrival := 0,
      cores := [0, 1], mbset := 1,
    coll := { got := [], dies := [] }, results := [], departed := [], returned := [], token := 0, mark := false, sum := 0, detections := 0,
    preempt := false, saved := [], ctx := [], sems := [], order := 0, lost := [], told := [], parked := [] }

def core (n : Nat) : Core := { Core.reset with job := some 1, asid := 5, w := 1, cycle := 10, lcn := BitVec.ofNat 22 n }

/-- x5 = 0x3_0080, x6 = 2, x7 = 0x5A, x8 = 2.0 (FP64). -/
def arch : Arch :=
  (((({ Arch.reset with status := 4, pc := 0x1004 }.setX 5 0x30080).setX 6 2).setX 7 0x5A).setX 8 0x4000000000000000)

def user : State :=
  { State.reset with
    unit := { UnitCtx.reset with pc := 0x1000, next := 0x1004, now := 10 },
    strands := [(0, { Strand.reset with st := .active, worker := true, arch := arch })],
    cores := [(0, core 0), (1, core 1)], dies := [(0, { Die.reset with tlb := [page] })],
    pkgs := [(0, { Pkg.reset with ready := BitVec.allOnes 128 })], jobs := [(1, job)] }

/-- The same at S. -/
def supervisor : State := user.modArch fun a => { a with status := 5 }
def shaped (s : State) (v : Word) : State := s.modArch fun a => { a with vshape := v }
/-- An older result of x5, due in the next cycle. -/
def older : State := user.modCur fun k => { k with pend :=
  [{ reg := some (.x 5), val := 7, keep := 0, flags := 0, due := some 11, fixed := true, id := 0 }] }

/-! ## States and operands that meet the hypotheses of the statements -/

/-- IntegerArithmeticResults, IntegerLogicShiftResults, IntegerCompareResults, BitCountAndExtensionResults: a latency of 1. -/
theorem test_meets_integer : older.settled (.x 5) (older.unit.now + 1) ∧ older.settled (.x 0) 11 ∧ user.settled (.x 31) 11 := by
  unfold State.settled; decide +kernel
/-- DivideResults, ScalarFloatResults, ScalarFloatSlowResults. -/
theorem test_meets_later : older.settled (.x 5) (older.unit.now + 6) ∧ older.settled (.x 5) (older.unit.now + 4) := by
  unfold State.settled; decide +kernel
theorem test_meets_nan : Fmt.f16.isNan 0x7E00 = true ∧ Fmt.f64.isNan 0x7FF0000000000001 = true ∧ Fmt.f32 ∈ [Fmt.f64, .f32, .f16, .bf16] ∧
    Fmt.e2m1 ∈ [Fmt.f64, .f32, .f16, .bf16, .e4m3, .e5m2, .e2m1] ∧ 0xF < 2 ^ Fmt.e2m1.width ∧ Fmt.e2m1.isNan 0xF = false := by decide +kernel

/-- A shape that is in force at et, with the charge covered. -/
theorem vector_meets {s : State} {et : Et} {d : VReg} {cost lat : Nat} (h1 : et = s.arch.shapeEt) (h2 : s.arch.shape.n * s.arch.shape.w ≤ 4096)
    (h3 : s.cur.pend = []) (h4 : (s.cluster (s.eid / 32)).charges = []) (h5 : covers s.bucket.tokens cost = true) :
    s.vectorReady et d cost lat :=
  ⟨h1, h2, (by intro p hp; rw [h3] at hp; cases hp), h4, h5⟩

/-- VectorArithmeticElements: F32 with k = 8, F64 with k = 1, I32 and the bitwise forms. -/
theorem test_meets_vector : user.vectorReady .f32 0 16 4 ∧ user.vectorReady .f32 15 24 4 ∧ user.vectorReady .f32 3 64 44 ∧
    (shaped user 0x000).vectorReady .f64 3 8 16 ∧ (shaped user 0x388).vectorReady .i32 3 16 4 ∧ (shaped user 0x388).vectorReady .i32 3 8 4 ∧
    etF .f32 = true ∧ etFmt .f32 = some Fmt.f32 ∧ etI .i32 = true := by
  refine ⟨?_, ?_, ?_, ?_, ?_, ?_, ?_, ?_, ?_⟩ <;> first | decide +kernel | (apply vector_meets <;> decide +kernel)
/-- VectorBitAndMoveElements: I4 shifts, and a VTRN of 32 columns. -/
theorem test_meets_moves : (shaped user 0x38B).vectorReady .i4 3 8 4 ∧ (shaped user 0x2A1).vectorReady .f32 3 8 6 ∧
    (shaped user 0x2A1).arch.shape.nc ≤ 32 ∧ (shaped user 0x2A1).arch.shape.nc = 32 := by
  refine ⟨?_, ?_, ?_, ?_⟩ <;> first | decide +kernel | (apply vector_meets <;> decide +kernel)
/-- CompareExtractAndMaskResults, ReductionElements, ConversionAndFunctionElements, QuantisedRows. -/
theorem test_meets_compare : user.arch.shapeOk ∧ user.canPay 8 ∧ user.settled (.m 0) 14 ∧ user.settled (.m 7) 14 ∧ user.settled (.x 0) 14 ∧
    Et.f32 = user.arch.shape.et ∧ (shaped user 0x388).arch.shape.et = .i32 := by
  unfold Arch.shapeOk State.canPay State.settled; decide +kernel
theorem test_meets_reduction : user.vectorReady .f32 3 16 8 := by
  apply vector_meets <;> decide +kernel
theorem test_meets_conversion : (Et.f16 ≠ user.arch.shape.et ∧ user.arch.shape.n * etBits .f16 ≤ 4096 ∧ user.settled (.v 3) 14 ∧
      user.canPay 16) ∧ rowShape .e4m3 user.arch.shape = true ∧ rowShape .e2m1 user.arch.shape = true ∧
    etFmt user.arch.shape.et = some Fmt.f32 ∧ etFmt .e4m3 = some Fmt.e4m3 ∧ user.vectorReady user.arch.shape.et 3 16 16 ∧
    user.vectorReady .f32 3 32 8 := by
  refine ⟨by unfold State.canPay State.settled; decide +kernel, ?_, ?_, ?_, ?_, ?_,
    ?_⟩ <;> first | decide +kernel | (apply vector_meets <;> decide +kernel)
/-- ScaleChoiceIsSmallestCover: 448 in FP32, and the smallest magnitude that code 1 covers. -/
theorem test_meets_scale : Fmt.f32.val 0x43E00000 = .fin false 14680064 (-15) ∧
    (FVal.fin false ((4 + 0x3FE % 4) * 448) ((0x3FE / 4 : Nat) - 129)).lt (.fin false 14680064 (-15)) = false ∧
    (FVal.fin false 14680064 (-15)).lt (.fin false ((4 + 1 % 4) * 448) ((1 / 4 : Nat) - 129)) = false := by decide +kernel

/-- BranchesCallsAndReturns: a trap of its own strand, an aligned and a misaligned register, a store with room, a full one at the top of its
spill area and beyond it, and an entry to pop. -/
def spilling (limit : Word) : State := (supervisor.modArch fun a =>
  { a with ras := List.replicate 16 0x2000, rsbase := 0x30000, rstop := 0x30000, rslim := limit })
theorem test_meets_branches : user.arch.ahead = false ∧ user.delegate user.unit.sid = none ∧ (user.rx 5).toNat % 4 = 0 ∧
    (user.rx 6).toNat % 4 ≠ 0 ∧ user.rx 5 ≠ user.rx 6 ∧ user.arch.ras.length < 16 ∧
    (user.modArch fun a => { a with ras := [0x2000, 0x2002] }).arch.ras = [0x2000] ++ [0x2002] := by decide +kernel
theorem test_meets_spill : (spilling 0x30008).arch.ras.length = 16 ∧ (spilling 0x30008).arch.rsbase.toNat ≤ (spilling 0x30008).arch.rstop.toNat ∧
    (spilling 0x30008).arch.rstop.toNat + 8 ≤ (spilling 0x30008).arch.rslim.toNat ∧ (spilling 0x30008).arch.ahead = false ∧
    (spilling 0x30008).unit.status = .running ∧ (spilling 0x30000).arch.rslim.toNat < (spilling 0x30000).arch.rstop.toNat + 8 := by decide +kernel
/-- An access of one row where no range is locked. -/
theorem admit_meets {s : State} {g : Word} {rlen al : Nat} {reg : Bool}
    (h1 : ([g, lastByte g rlen].all fun h => gvaAllowed (s.arch.prv == 0) reg h && !s.barred (s.eid / 4096) (gvaDie h)) = true)
    (h2 : g.toNat % al = 0 ∧ gvaDie g = gvaDie (lastByte g rlen)) : s.admits [g] rlen al reg :=
  ⟨by simpa using h1, by simpa using h2⟩
theorem access_meets {s : State} {g : Word} {rlen al : Nat} {wr reg : Bool}
    (h1 : ([g, lastByte g rlen].all fun h => gvaAllowed (s.arch.prv == 0) reg h && !s.barred (s.eid / 4096) (gvaDie h)) = true)
    (h2 : g.toNat % al = 0 ∧ gvaDie g = gvaDie (lastByte g rlen)) (h3 : (s.tile (s.eid / 2)).locks = []) :
    s.mayAccess [g] rlen al wr reg :=
  ⟨admit_meets h1 h2, by rw [h3]; intro _ _ _ _ q hq; cases hq⟩
theorem send_meets {s : State} {ps : List Piece} {ld wr : Bool} (h1 : s.fenced true = false) (h2 : s.fenced false = false)
    (h3 : s.draining = false) (h4 : s.missFree s.unit.sid (s.linesOf s.eid s.curCore.asid ps) = true) : s.maySend ps ld wr :=
  ⟨fun _ => h1, fun _ => h2, .inl h3, h4⟩
theorem test_meets_spill_access : (spilling 0x30008).mayAccess [(spilling 0x30008).arch.rstop] 8 8 true true ∧
    (spilling 0x30008).maySend (pieces (spilling 0x30008).arch.rstop 8) false true := by
  refine ⟨by apply access_meets <;> decide +kernel, ?_⟩; apply send_meets <;> decide +kernel

/-- RET with nothing on the core: the newest word of the spill area is to be loaded, has come (aligned and not), no job's root code, and the
root code of a worker of two. -/
def refilling (e : Option Word) : State := (user.modCur fun k => { k with refill := e }).modArch fun a => { a with rsbase := 0x30000,
                                                                                                                   rstop := 0x30008 }
theorem test_meets_refill : (refilling none).arch.ras = [] ∧ (refilling none).arch.rsbase.toNat < (refilling none).arch.rstop.toNat ∧
    (refilling none).cur.refill = none ∧ (refilling (some 0x2000)).cur.refill = some 0x2000 ∧ (0x2000 : Word).toNat % 4 = 0 ∧
    (refilling (some 0x2002)).cur.refill = some 0x2002 ∧ (0x2002 : Word).toNat % 4 ≠ 0 ∧ supervisor.arch.prv ≠ 0 ∧ supervisor.arch.ras = [] ∧
    user.arch.rstop.toNat ≤ user.arch.rsbase.toNat ∧ user.cur.worker = true ∧ user.arch.depth = 0 ∧ user.arch.prv = 0 ∧ user.cur.coll = none ∧
    user.owes user.unit.sid = false ∧ user.cur.pend = [] ∧ user.job (user.jobNo user.eid) = some job ∧ job.members = [0, 1] ∧
    user.arch.mbidx.toNat = 0 := by decide +kernel
theorem test_meets_refill_access : (refilling none).mayAccess [(refilling none).arch.rstop - 8] 8 8 false true ∧
    (refilling none).maySend (pieces ((refilling none).arch.rstop - 8) 8) true false := by
  refine ⟨by apply access_meets <;> decide +kernel, by apply send_meets <;> decide +kernel⟩

/-- LoopsRunAndEnd: the shortest body that is allowed and the longest that is not, counts of 0, 1 and 2, both levels at one end. -/
def looped (c1 c0 : BitVec 32) : Arch := { arch with lc1 := c1, le1 := 0x2000, ls1 := 0x1800, lc0 := c0, le0 := 0x2000, ls0 := 0x1000 }
theorem test_meets_loops : 4 * (1 : BitVec 9).toNat ≤ (if user.unit.lone then 4 else 8) ∧
  (if user.unit.lone then 4 else 8) < 4 * (2 : BitVec 9).toNat ∧
    (looped 2 2).lc1 ≠ 0 ∧ (looped 2 2).lc1 ≠ 1 ∧ (looped 0 1).lc0 = 1 ∧ (looped 0 1).lc1 = 0 ∧ (looped 1 1).le1 = (looped 1 1).le0 ∧
    user.arch.lc0 = 0 ∧ user.arch.lc1 = 0 := by decide +kernel
/-- Level 1 first (R104). -/
theorem test_loop_end_both_levels : (loopEnd 0x2000 (looped 1 2)).pc = 0x1000 ∧ (loopEnd 0x2000 (looped 2 2)).pc = 0x1800 ∧
    (loopEnd 0x2000 (looped 2 2)).lc0 = 2 := by decide +kernel

/-- NopYieldWaitTrap: alone, beside a READY strand, under a pre-empt, with EV set, and woken. -/
theorem test_meets_yield : user.cur.preempt = false ∧ (∀ i, i < 4 → user.eid * 4 + i ≠ user.unit.sid → (user.strand (user.eid * 4 + i)).st ≠ .ready) ∧
    (let s := user.modStrand 3 fun k => { k with st := .ready }
     ∃ i, i < 4 ∧ s.eid * 4 + i ≠ s.unit.sid ∧ (s.strand (s.eid * 4 + i)).st = .ready) ∧
    (user.modCur fun k => { k with preempt := true }).cur.owesReply = false ∧ (user.modArch fun a => { a with ev := true }).arch.ev = true ∧
    (user.modArch fun a => { a with ev := true }).cur.granted = false ∧ (user.modCur fun k => { k with granted := true }).cur.granted = true ∧
    user.arch.ev = false ∧ user.cur.granted = false := by
  refine ⟨by decide +kernel, by decide +kernel, ⟨3, by decide +kernel⟩, by decide +kernel⟩

/-- SystemRegisterReads and SystemRegisterWrites: U and S, a number that names no register, legal and reserved codes. -/
theorem test_meets_sysregs : user.settled (.x 9) 11 ∧ user.arch.prv = 0 ∧ 1 ≤ supervisor.arch.prv ∧ isSysReg 0x00E = false ∧
    user.arch.ahead = false ∧ field (user.rx 5) 8 3 < 5 ∧ 5 ≤ field (0x500 : Word) 8 3 ∧ shapeOk 0x381 = true ∧ shapeOk 0x382 = true ∧
    shapeOk 0x37 = false ∧ field (0x11 : Word) 0 8 < 0x12 ∧ field (0x40 : Word) 5 2 = 2 ∧ field (0x60 : Word) 5 2 ≠ 2 := by
  unfold State.settled; decide +kernel

/-- TrapsReturnThroughEret: U, S with PPRV = 11, and S and M with a level to go back to. -/
theorem test_meets_eret : field (4 : Word) 0 2 ≠ 2 ∧ user.arch.prv = 0 ∧ supervisor.arch.prv = 1 ∧
    field (supervisor.modArch fun a => { a with status := 0x65 }).arch.status 5 2 = 3 ∧ field supervisor.arch.status 5 2 ≠ 3 ∧
    supervisor.arch.ahead = false ∧ supervisor.cur.preempt = false ∧ supervisor.cur.origin = .none := by decide +kernel

/-- LoadsSendOneAccess and StoresSendOneAccess: 8 bytes and a pair at GVA 0x3_0080, rows of a vector, a mask and a line; a load of one byte
at U. -/
theorem test_meets_accesses : (∀ wr reg, user.mayAccess [user.rx 5] 8 8 wr reg) ∧ (∀ wr, user.mayAccess [user.rx 5] 16 16 wr false) ∧
    (∀ wr, user.mayAccess [user.rx 5] 512 4 wr false) ∧ (∀ wr, user.mayAccess [user.rx 5] 128 128 wr false) ∧
    user.mayAccess [user.rx 6] 1 1 false false := by
  refine ⟨?_, ?_, ?_, ?_, ?_⟩ <;> intros <;> apply access_meets <;> (try cases ‹Bool›) <;> decide +kernel
theorem test_meets_sends : (∀ ld wr, user.maySend [({ gva := user.rx 5, len := 8, nib := none } : Piece)] ld wr) ∧
    (∀ ld wr, user.maySend (pieces (user.rx 5) 512) ld wr) ∧ (∀ ld wr, user.maySend (pieces (user.rx 5) 128) ld wr) ∧ user.arch.ahead = false ∧
      (user.modArch fun a => { a with status := 0x204 }).arch.ahead = true ∧
    user.cur.hold.length + (heldOf (pieces (user.rx 5) 512) 0 false 5 true).length ≤ 64 := by
  refine ⟨?_, ?_, ?_, ?_⟩ <;> first | decide +kernel | (intro _ _; apply send_meets <;> decide +kernel)
/-- Every byte of the load stands in a held store that drains. -/
def sureHeld : Held := { gva := 0x30080, mask := 0xFF, data := 1, rel := false, asid := 5, wld := true, size := 8, nib := none, sure := true }
theorem test_meets_overlay : let s := user.modCur fun k => { k with hold := [sureHeld] }
    s.draining = true ∧ s.maySend [({ gva := s.rx 5, len := 8, nib := none } : Piece)] true false := by
  refine ⟨by decide +kernel, fun _ => by decide +kernel, fun h => by simp at h, .inr ⟨rfl, by decide +kernel⟩, by decide +kernel⟩

/-- AccessChecksInOrder: die 8 of package 1, which is not there; an odd address; a route that is missing; a locked byte; the device window. -/
def locked : State := user.modTile 0 fun t => { t with locks := [(0, { first := 0x30082, last := 0x30083, dst := true, kind := 0, tag := 0,
                                                                       eid := 0, key := 1 })] }
/-- No class of atomics is carried to package 1. -/
def poor (s : State) : State := s.modPkg 0 fun k => { k with classes := [(1, [])] }
theorem test_meets_checks : (∀ h ∈ [user.rx 5, lastByte (user.rx 5) 8], gvaAllowed (user.arch.prv == 0) false h = true ∧
  user.barred 0 (gvaDie h) = false) ∧
    user.barred 0 (gvaDie 0x40000000000000) = true ∧ gvaDie (0x30080 : Word) = gvaDie (lastByte 0x30080 8) ∧
    gvaAllowed true false 0x7FF0000000000 = false ∧ (0x30081 : Word).toNat % 2 ≠ 0 ∧ user.routed .int (user.rx 5) = true ∧
    (poor user).routed .int 0x40000000000000 = false ∧ isDevice 0x7FF0000000000 = true ∧ user.arch.prv = 0 ∧
    (∃ q ∈ (locked.tile (locked.eid / 2)).locks, q.2.dst = true ∧ q.2.first.toNat ≤ (user.rx 5 + BitVec.ofNat 64 2).toNat ∧
      (user.rx 5 + BitVec.ofNat 64 2).toNat ≤ q.2.last.toNat) := by
  refine ⟨by simpa using (by decide +kernel : ([user.rx 5, lastByte (user.rx 5) 8].all fun h => gvaAllowed (user.arch.prv == 0) false h &&
    !user.barred 0 (gvaDie h)) = true), ?_, ?_, ?_, ?_, ?_, ?_, ?_, ?_, ?_⟩ <;> decide +kernel

/-- AtomicsSendOneAccess, FencesAndLineOperations. -/
theorem test_meets_atomics : user.arch.ahead = false ∧ user.routed .fadd (user.rx 5) = true ∧ user.routed .casq (user.rx 5) = true ∧
    user.curCore.accs = [] ∧ user.curCore.side = [] ∧ user.missFree user.unit.sid 1 = true ∧ user.draining = false ∧
    user.fenced true = false ∧ user.fenced false = false ∧ missUsed user.curCore.accs ≤ 48 ∧ isDevice (user.rx 5) = false ∧
      gvaDie (user.rx 5) = user.eid / 512 := by decide +kernel
theorem resolves_with {r : State × Option Page × Found} {p : Place} {P : State → Option Page → Prop} (h : r.2.2 = .at_ p) (k : P r.1 r.2.1) :
    ∃ u pg, r = (u, pg, .at_ p) ∧ P u pg := ⟨r.1, r.2.1, by rw [← h], k⟩
theorem test_meets_prefetch : ∃ u pg, user.resolve (user.eid / 32) user.curCore.asid user.arch.wld false (user.rx 5) = (u, pg,
  .at_ (.hbm 0 0x20080 true)) ∧
    ∀ wr, u.hostHas (.hbm 0 0x20080 true) 1 wr = false :=
  resolves_with (P := fun u _ => ∀ wr, u.hostHas (.hbm 0 0x20080 true) 1 wr = false) (by decide +kernel) (by decide +kernel)
/-- A line of an object whose home is die 1. -/
def afar : State := (user.modDie 1 fun d => { d with tlb := [page], objs := [(7,
    { asid := 5, job := none, base := 0x8000000030080, rowBytes := 128, rows := 1, pitch := 0, gen := 0, live := true, state := [] })] }).modArch
  fun a => a.setX 5 0x8000000030080
theorem test_meets_prefetch_afar : isDevice (afar.rx 5) = false ∧ missUsed afar.curCore.accs ≤ 48 ∧ 1 ≠ afar.eid / 512 ∧
    afar.objMet afar.curCore.asid (afar.rx 5) (.hbm 1 0x20080 true) = some (1, 7) ∧
    ∃ u pg, afar.resolve (afar.eid / 32) afar.curCore.asid afar.arch.wld false (afar.rx 5) = (u, pg, .at_ (.hbm 1 0x20080 true)) ∧
      u.objMet afar.curCore.asid (afar.rx 5) (.hbm 1 0x20080 true) = some (1, 7) := by
  refine ⟨by decide +kernel, by decide +kernel, by decide +kernel, by decide +kernel, resolves_with (P := fun u _ =>
    u.objMet afar.curCore.asid (afar.rx 5) (.hbm 1 0x20080 true) = some (1, 7)) (by decide +kernel) (by decide +kernel)⟩

/-- A page that is neither moved nor tracked. -/
theorem plain_meets {s : State} {asid : BitVec 16} {pg : Option Page}
    (h : (match pg with | some g => g.home.isNone && !s.dirtyNeeded asid g | none => true) = true) : s.plainPage asid pg := by
  intro g hg; subst hg; simpa using h

/-- An access of strand 0 that is on its way. -/
def acc (op : AccOp) (g : Word) : Acc :=
  { id := 7, snum := 0, op := op, pieces := [{ gva := g, len := 8, nib := none }], asid := 5, wld := true, user := true, acq := false,
    rel := false, strong := false, lines := 1, held := false, overlay := [], bad := none, inv := false, drops := [] }
def sending (a : Acc) : State := { user with fresh := 7, flight := [.accessPerformed 0 7] }.modCore 0 fun c => { c with accs := [a] }

/-- LoadsArePerformed: at a page that is mapped, one that is not, and one that U may not read; the page is in the TLB. -/
theorem test_meets_load : (∀ g : Word, g = 0x30080 ∨ g = 0x50000 ∨ g = 0x7FFFFFFFF0500 →
      let s := sending (acc (.load (.x 9)) g)
      let a := acc (.load (.x 9)) g
      (s.core 0).accs.find? (fun a => a.id == 7) = some a ∧ a.snum < 4 ∧ a.held = false ∧ a.bad = none ∧ a.inv = false ∧
      a.overlay = [] ∧ s.mayPerform 0 a = true ∧ s.inDate 0 a ∧
      (∀ p ∈ a.pieces, ∀ b ∈ pieceBytes p, (queuePart (s.queueFor 0 0 7) (s.core 0).side b).1 = 0) ∧ (s.core 0).side = [] ∧
      s.heldAt 0 a.asid g = false) := by
  rintro g (rfl | rfl | rfl) <;> (unfold State.inDate; decide +kernel)
theorem test_meets_load_found : (∃ u pg, (sending (acc (.load (.x 9)) 0x30080)).resolve 0 5 true false 0x30080 = (u, pg, .at_ (.hbm 0 0x20080 true)) ∧
      u.poisoned (.hbm 0 0x20080 true) 8 = false ∧ u.hostHas (.hbm 0 0x20080 true) 8 false = false ∧
      (let w := u.reach 0 5 0x30080 (.hbm 0 0x20080 true) false; (w.die 0).copies = [])) ∧
    ((sending (acc (.load (.x 9)) 0x50000)).resolve 0 5 true false 0x50000).2.2 = .unmapped ∧
    ((sending (acc (.load (.x 9)) 0x7FFFFFFFF0500)).resolve 0 5 true false 0x7FFFFFFFF0500).2.2 = .denied ∧
    (∃ e ∈ (user.die (gvaDie 0x30080)).tlb, e.hits 5 (gvaOff 0x30080) = true) := by
  refine ⟨resolves_with (P := fun u _ => u.poisoned (.hbm 0 0x20080 true) 8 = false ∧ u.hostHas (.hbm 0 0x20080 true) 8 false = false ∧
    (let w := u.reach 0 5 0x30080 (.hbm 0 0x20080 true) false; (w.die 0).copies = [])) ?_ ?_, ?_, ?_, page, ?_⟩ <;> decide +kernel

/-- StoresAndAtomicsArePerformed: a store, an atomic, a compare that matches and one that does not, and a store to an unmapped page. -/
theorem test_meets_store : (∀ op, op ∈ [AccOp.store 0x1234, .amo .add 3 (.x 9) false, .amo (.cas 0) 3 (.x 9) false, .amo (.cas 1) 3 (.x 9) false] →
      let s := sending (acc op 0x30080)
      (s.core 0).accs.find? (fun a => a.id == 7) = some (acc op 0x30080) ∧
      s.mayPerform 0 (acc op 0x30080) = true ∧ s.inDate 0 (acc op 0x30080) ∧ (acc op 0x30080).drops = [] ∧
      sideRegion (s.core 0).side 0x30080 = false ∧ s.heldAt 0 5 0x30080 = false ∧
      ∃ u pg, s.resolve 0 5 true true 0x30080 = (u, pg, .at_ (.hbm 0 0x20080 true)) ∧
        u.plainPage 5 pg ∧ u.poisoned (.hbm 0 0x20080 true) 8 = false ∧ u.hostHas (.hbm 0 0x20080 true) 8 true = false ∧
        (∀ i, i < 8 → storeMask ((Place.hbm 0 0x20080 true).plus i) = 0xFF) ∧ u.objMet 5 0x30080 (.hbm 0 0x20080 true) = none) ∧
    ((sending (acc (.store 1) 0x7FFFFFFFF0500)).resolve 0 5 true true 0x7FFFFFFFF0500).2.2 = .denied ∧
    ((sending (acc (.store 1) 0x50000)).resolve 0 5 true true 0x50000).2.2 = .unmapped ∧
    ((sending (acc (.store 1) 0x50000)).core 0).side.length < 32 := by
  refine ⟨?_, by decide +kernel, by decide +kernel, by decide +kernel⟩
  intro op h
  simp only [List.mem_cons, List.not_mem_nil, or_false] at h
  rcases h with rfl | rfl | rfl | rfl <;>
    exact ⟨by decide +kernel, by decide +kernel, by unfold State.inDate; decide +kernel, rfl, by decide +kernel, by decide +kernel,
      resolves_with (P := fun u pg => u.plainPage 5 pg ∧ u.poisoned (.hbm 0 0x20080 true) 8 = false ∧
          u.hostHas (.hbm 0 0x20080 true) 8 true = false ∧ (∀ i, i < 8 → storeMask ((Place.hbm 0 0x20080 true).plus i) = 0xFF) ∧
          u.objMet 5 0x30080 (.hbm 0 0x20080 true) = none) (by decide +kernel)
        ⟨plain_meets (by decide +kernel), by decide +kernel, by decide +kernel, by decide +kernel, by decide +kernel⟩⟩

/-- ExchangesAreSent: alone in the cluster, with a second core of the job, and with the three others of the mesh row. -/
def alone : State := user.modCore 1 fun c => { c with job := none }
def row : State := { user with cores := [(0, core 0), (2, core 1), (4, core 2), (6, core 3)] }
theorem test_meets_exchange : etFmt .f32 = some Fmt.f32 ∧ etF .f32 = true ∧ Et.f32 = user.arch.shapeEt ∧ user.arch.ahead = false ∧
    user.cur.xop = [] ∧ user.cur.xin = [] ∧ alone.chainCores alone.eid = [alone.eid] ∧ user.chainCores user.eid = [user.eid, 1] ∧
    (rowCores row.eid).all (row.sameJob row.eid) = true ∧ (rowCores user.eid).find? (fun e => !user.sameJob user.eid e) = some 2 := by
  decide +kernel
theorem test_meets_exchange_charge : user.canPay 24 ∧ row.canPay 16 := by unfold State.canPay; decide +kernel

/-- A request that is served on arrival. -/
theorem accepts_meets {s : State} {m : Msg} {rel : Bool}
    (h1 : ((m.dest / 4096, msgBit m) :: s.way (m.src / 512) (m.dest / 512)).all (fun q => s.ready q.1 q.2 && !s.gone q.1 q.2) =
      true) (h2 : (s.cluster (m.dest / 32)).gated = false)
    (h3 : s.overtakes m = false ∧ s.msgAcquires m = false) (h4 : s.msgOwes m = false ∧ s.gateHeld m = false)
    (h5 : s.genTable (m.src / 512) (coreAgent m.src) = m.gen) (h6 : unknownKind m = false) (h7 : s.owned m = true ∧ s.worldBars m = false) :
    s.accepts m rel :=
  ⟨by simpa using h1, h2, ⟨h3.1, h3.2, fun _ => h4.1, h4.2⟩, h5, (by intro c hc; simp [unknownKind, hc] at h6), h7⟩
/-- ExchangesArrive: strand 4, of the middle core of three, in a VCHAIN; strand 0 in a VXMAX with two rows there. -/
def opened (chain : Bool) : XOpen :=
  { chain := chain, num := 0, id := 3, pc := 0x1000, et := .f32, rlog := 0, nc := 128, vals := [0x3F800000], rm := .rne, flags := 0,
    ready := 40, sent := false }
def message : Msg :=
  { dest := 0, src := 0, asid := 5, wld := true, kind := .request, gen := 0, guard := 0, ssn := 0, tag := some 4, seq := 9, opc := 3, addr := 0x30080,
    ha := 0x7FFFFFFFF0700, a0 := 1, a1 := 2, a2 := 3, a3 := 4 }
def xchg (src dst : Nat) (chain total : Bool) : Xchg :=
  { msg := { message with src := src, dest := dst }, chain := chain, num := 0, total := total, et := .f32, rlog := 0, vals := [0x40000000] }
def part (src : Nat) : XchgIn := { src := src, chain := false, num := 0, total := false, et := .f32, rlog := 0, vals := [0x40400000] }
def middle : State := ({ user with cores := [(0, core 0), (1, core 1), (2, core 2)] }.modStrand 4 fun k =>
  { k with st := .active, chainN := 1, xop := [opened true] })
def maxed (l : List XchgIn) : State := row.modCur fun k => { k with maxN := 1, xop := [opened false], xin := l }
theorem test_meets_arrive : (middle.core 0).asid = (middle.core 1).asid ∧ (0 : Nat) < (middle.strand 4).chainN + 4 ∧
    (middle.strand 4).xop.find? (fun q => q.chain == true && q.num == 0) = some (opened true) ∧ (middle.strand 4).arrived (opened true) = [] ∧
    (xchg 0 1 true true).et = accType (opened true).et ∧ (middle.chainCores 1)[1]? = some 1 ∧ position 1 (middle.chainCores 1) = 1 ∧
    (middle.chainCores 1)[1 + 1]? = some 2 ∧
    ((maxed [part 8, part 16]).strand 0).arrived (opened false) = [part 8, part 16] ∧
    ((maxed [part 8]).strand 0).xop.find? (fun q => q.chain == false && q.num == 0) = some (opened false) ∧
    (((maxed [part 8]).strand 0).arrived (opened false)).length < 2 ∧ ((maxed []).core 6).asid = ((maxed []).core 0).asid := by
  decide +kernel
theorem test_meets_arrivals : middle.accepts (xchg 0 1 true true).msg false ∧ (maxed [part 8, part 16]).accepts (xchg 6 0 false false).msg false ∧
    (xchg 6 0 false false).msg.ssn < 4 ∧ (opened false).rlog = 0 ∧ etFmt (opened false).et = some Fmt.f32 := by
  refine ⟨?_, ?_, ?_, ?_, ?_⟩ <;> first | (apply accepts_meets <;> decide +kernel) | decide +kernel

/-- SemaphoreSteps: a job that holds its tile, a count of 0, of 1 and at its limit, a waiter, and a strand whose job does not. -/
def counted (n : BitVec 16) (q : List (BitVec 3 × Nat)) : State := user.modTile 0 fun t => { t with sem := t.sem.set 3 n, semq := q }
theorem test_meets_semaphores : (counted 1 []).cur.granted = false ∧ (counted 1 []).holdsTile 0 0 = true ∧
    ((counted 1 []).tile 0).sem.getD 3 0 ≠ 0 ∧ ((counted 0xFFFF []).tile 0).sem.getD 3 0 = 0xFFFF ∧
    ((counted 0 [(2, 1), (3, 2)]).tile 0).semq = [(2, 1)] ++ (3, 2) :: [] ∧ alone.holdsTile 0 0 = false ∧ user.owes 0 = false ∧
    user.badEid (field (user.rx 6) 0 22) = false ∧ (user.modCur fun k => { k with granted := true }).cur.granted = true := by decide +kernel
theorem test_meets_accepts : (counted 1 []).accepts message true ∧ (counted 1 []).holdsTile message.dest (message.dest / 2) = true ∧
    alone.accepts message true ∧ alone.holdsTile message.dest (message.dest / 2) = false := by
  refine ⟨?_, ?_, ?_, ?_⟩ <;> first | (apply accepts_meets <;> decide +kernel) | decide +kernel

/-- SoftwareMessages: an aligned address, a free tag, DORMANT strands and none, a queue with one message, a strand that runs one, and the
reply to a request. -/
def soft : Msg := { message with ha := 0x2000, opc := 0 }
def dormant (q : List Msg) : State := (user.modStrand 2 fun k => { k with st := .dormant }).modCore 0 fun c => { c with swq := q }
def asked : State := user.modCore 0 fun c => { c with reqs := [(4, { dest := 0, snum := 0, id := 3, cmd := false, depth := 0 })] }
theorem test_meets_messages : user.arch.ahead = false ∧ isDevice (user.rx 5) = false ∧ user.badEid (field (user.rx 6) 0 22) = false ∧
    (user.rx 5).toNat % 8 = 0 ∧ freeTag user.curCore.reqs 1023 = some 0 ∧ (user.core 0).w ≠ 4 ∧ isDevice 0x7FFFFFFFF0500 = true ∧
    (dormant []).dormant 0 = some 2 ∧ ((dormant []).core 0).swq = [] ∧ ((dormant []).strand 2).preempt = false ∧
    user.dormant 0 = none ∧ ((dormant [soft]).core 0).swq = soft :: [] ∧ (user.modCur fun k => { k with origin := .message soft }).owes 0 = false ∧
    user.cur.origin = .none ∧ Map.find (asked.core soft.dest).reqs 4 = some { dest := 0, snum := 0, id := 3, cmd := false, depth := 0 } ∧
    soft.tag = some 4 ∧ soft.opc = 0 ∧ soft.ssn < 4 ∧ soft.src = 0 ∧ unknownKind soft = false ∧
      asked.genTable 0 (coreAgent soft.src) = soft.gen := by decide +kernel
theorem test_meets_messages_accept : (dormant []).accepts soft true ∧ user.accepts soft true ∧
    ((user.modCore 0 fun c => { c with w := 4 }).accepts soft true ∧ ((user.modCore 0 fun c => { c with w := 4 }).core soft.dest).w = 4) := by
  refine ⟨?_, ?_, ?_, ?_⟩ <;> first | (apply accepts_meets <;> decide +kernel) | decide +kernel

/-- MemoryHandlersAnswer: 8 bytes at GVA 0x3_0080 for each handler. -/
theorem test_meets_handlers : user.accepts message false ∧ user.accepts message true ∧ handlerBytes message.opc = some 8 ∧
  message.addr.toNat % 8 = 0 ∧
    user.heldAt 0 message.asid message.addr = false ∧ amoOfFn (field (0x04 : BitVec 16) 0 7) = some .add ∧ field (0x54 : BitVec 16) 0 7 / 8 = 10 ∧
    (∃ u pg, user.resolve 0 message.asid message.wld true message.addr = (u, pg, .at_ (.hbm 0 0x20080 true)) ∧
      u.plainPage message.asid pg ∧ u.poisoned (.hbm 0 0x20080 true) 8 = false ∧
      ∀ i, i < 16 → storeMask ((Place.hbm 0 0x20080 true).plus i) = 0xFF ∧ u.hostHas (.hbm 0 0x20080 true) (i + 1) true = false) ∧
    (∃ u v, user.hwLoad 0 message.asid message.wld (pieces message.addr 8) = (u, .value v)) := by
  refine ⟨?_, ?_, ?_, ?_, ?_, ?_, ?_, ?_, (user.hwLoad 0 5 true (pieces 0x30080 8)).1, 0, ?_⟩
  · apply accepts_meets <;> decide +kernel
  · apply accepts_meets <;> decide +kernel
  · decide +kernel
  · decide +kernel
  · decide +kernel
  · decide +kernel
  · decide +kernel
  · exact resolves_with (P := fun u pg => u.plainPage message.asid pg ∧ u.poisoned (.hbm 0 0x20080 true) 8 = false ∧
        ∀ i, i < 16 → storeMask ((Place.hbm 0 0x20080 true).plus i) = 0xFF ∧ u.hostHas (.hbm 0 0x20080 true) (i + 1) true = false)
      (by decide +kernel) ⟨plain_meets (by decide +kernel), by decide +kernel, by decide +kernel⟩
  · have h : (user.hwLoad 0 5 true (pieces 0x30080 8)).2 = .value 0 := by decide +kernel
    exact Prod.ext rfl h

/-- RingSteps: two slots of 128 bytes, a full ring with a waiter, and one that has room for it. -/
def ringed (head : BitVec 16) : State := user.setRing 0 3
  { v := true, base := 0x100, sl := 1, sb := 1, tail := 2, head := head, waiting := [some 9, none] }
theorem test_meets_rings : (∃ r, ringOf 0x100 0x801 = some r) ∧ ringOf 0x101 0x801 = none ∧ user.ringNamed 0 3 = false ∧
  user.fenced false = false ∧ user.holdsTile 0 0 = true ∧
    user.settled (.x 9) 11 ∧ user.badEid user.eid = false ∧ ((ringed 1).ring 0 3).waiting = some 9 :: [none] ∧
    (((ringed 1).ring 0 3).v && decide (((ringed 1).ring 0 3).used < ((ringed 1).ring 0 3).slots)) = true ∧
    (((ringed 0).ring 0 3).v && decide (((ringed 0).ring 0 3).used < ((ringed 0).ring 0 3).slots)) = false := by
  refine ⟨⟨_, rfl⟩, ?_⟩; unfold State.settled; decide +kernel
theorem test_meets_ring_messages : (ringed 1).accepts message true ∧ (ringed 0).accepts message true := by
  constructor <;> apply accepts_meets <;> decide +kernel

/-- MailboxSteps: an object in a tile's window, with a post and a read of it, and full and partly filled entries of a top-k mailbox. -/
def boxed : State := supervisor.modArch fun a => { a with x := (a.x.set 5 0x7FF0000000100).set 6 0x20 }
def posted (op : BitVec 16) : Msg := { message with ha := 0x7FFFFFFFF0500, opc := op, addr := 0x7FF0000000100 }
theorem test_meets_mailboxes : boxed.arch.ahead = false ∧ (∀ h ∈ [boxed.rx 5, lastByte (boxed.rx 5) 8],
      gvaAllowed (boxed.arch.prv == 0) false h = true ∧ boxed.barred 0 (gvaDie h) = false) ∧ (boxed.rx 5).toNat % 256 = 0 ∧
        field (boxed.rx 5) 4 4 = 0 ∧ 1 ≤ (boxed.rx 6).toNat ∧
    (boxed.rx 6).toNat ≤ 32 ∧ freeTag boxed.curCore.reqs 1023 = some 0 ∧ boxed.heldAt 0 5 0x7FF0000000100 = false ∧
    boxed.resolve 0 5 true true 0x7FF0000000100 = (boxed, none, .at_ (.tile 0 0 0 0x100 6)) ∧ (Place.tile 0 0 0 0x100 6).tileNo = some 0 ∧
    (boxed.cluster 0).gated = false ∧ boxed.mailBehind (posted 0) = false ∧ boxed.mailWaits (posted 0) = false ∧ boxed.fenced false = false ∧
    field (0x7FF0000000130 : Word) 4 4 ≠ 0 ∧ (∀ op, op < 5 → boxed.mailPoison (.tile 0 0 0 0x100 6) op = false) := by
  refine ⟨?_, by simpa using (by decide +kernel : ([boxed.rx 5, lastByte (boxed.rx 5) 8].all fun h => gvaAllowed (boxed.arch.prv == 0) false h &&
    !boxed.barred 0 (gvaDie h)) = true), ?_, ?_, ?_, ?_, ?_, ?_, ?_, ?_, ?_, ?_, ?_, ?_, ?_, ?_⟩ <;> decide +kernel
/-- Top-k mailboxes with no entry, some, and k of them, of which the lowest is above the post or below it; a circular buffer of 64 bytes. -/
def topk (k n : Nat) : State := boxed.writeAt (.tile 0 0 0 0x100 6) 264
  (k + n * 2 ^ 8 + 2 ^ 64 * ((List.range n).map fun j => (n - j) * 2 ^ 32 * 2 ^ (64 * j)).sum)
theorem test_meets_mailbox_counts : ((Place.tile 0 0 0 0x100 6).keys 264).Nodup ∧ (topk 2 0).readAt (.tile 0 0 0 0x100 6) 8 = 2 ∧
    (topk 2 1).readAt (.tile 0 0 0 0x100 6) 8 = 2 + 2 ^ 8 ∧ (topk 2 2).readAt (.tile 0 0 0 0x110 6) 8 = 2 ^ 32 ∧
    mbxKey 0x80000000 ≤ mbxKey 1 ∧ ¬ mbxKey 2 ≤ mbxKey 1 := by decide +kernel
def buffer (size wr rd used taken head : Nat) : State := (boxed.writeAt (.tile 0 0 0 0x100 6) 24
  (size + 2 ^ 64 * (wr + 2 ^ 32 * (rd + 2 ^ 32 * (used + 2 ^ 32 * taken))))).writeAt (.tile 0 0 0 0x140 6) 8 head
def cb (s : State) (o n : Nat) : Nat := s.readAt (.tile 0 0 0 (0x100 + o) 6) n
/-- What MailboxSteps asks of every buffer, and the sizes that a post and a take compare. -/
def bufferMeets (s : State) : Bool :=
  decide (cb s 0 4 % 8 = 0 ∧ 64 ≤ cb s 0 4 ∧ cb s 0 4 ≤ 65472 ∧ cb s 8 4 < cb s 0 4 ∧ cb s 8 4 % 8 = 0 ∧ cb s 12 4 < cb s 0 4 ∧ cb s 16 4 ≤ cb s 0 4)
theorem test_meets_buffers : ((Place.tile 0 0 0 0x100 6).keys (0x40 + 64)).Nodup ∧
    -- empty: a post of 8 bytes goes in at WR; at WR = 56 it leaves a pad of 8; with 56 bytes in use it is told to retry; no legal size
    bufferMeets (buffer 64 0 0 0 0 0) = true ∧ cb (buffer 64 0 0 0 0 0) 0 4 = 64 ∧ bufferMeets (buffer 64 56 56 0 0 0) = true ∧
    64 - cb (buffer 64 56 56 0 0 0) 8 4 < 8 + 8 ∧ 8 + 8 ≤ 64 - 0 - (64 - cb (buffer 64 56 56 0 0 0) 8 4) ∧
    bufferMeets (buffer 64 56 0 56 0 8) = true ∧ ¬ 8 + 8 ≤ 64 - cb (buffer 64 56 0 56 0 8) 16 4 ∧ cb (buffer 60 0 0 0 0 0) 0 4 % 8 ≠ 0 ∧
    -- a take of the record at RD, of the one behind it while the first is in hand, and of the one behind a pad
    cb (buffer 64 56 0 56 0 8) 16 4 ≠ 0 ∧ cb (buffer 64 56 0 56 0 8) 0x40 8 / 2 ^ 16 % 2 = 0 ∧ cb (buffer 64 56 0 56 1 8) 20 4 ≠ 0 ∧
    56 - (8 + (cb (buffer 64 56 0 56 1 8) 0x40 2 + 7) / 8 * 8) ≠ 0 ∧ cb (buffer 64 24 0 56 0 0x10008) 0x40 8 / 2 ^ 16 % 2 = 1 := by
  decide +kernel
theorem test_meets_mailbox_entries : boxed.accepts (posted 0) true ∧ boxed.accepts (posted 1) true ∧ boxed.plainPage 5 none ∧
    (0x300000001 : Nat) / 2 ^ 32 ≠ 0xFFFFFFFF ∧ ([0x500000000, 0x200000000] : List Nat).length = 2 ∧
    ([0x500000000, 0x200000000] : List Nat).Pairwise (fun a b => mbxKey (b / 2 ^ 32) ≤ mbxKey (a / 2 ^ 32)) := by
  refine ⟨?_, ?_, plain_meets rfl, ?_, ?_, ?_⟩ <;> first | (apply accepts_meets <;> decide +kernel) | decide +kernel

/-- EngineCommandsAreSent: a command that passes the checks, one that does not, and a reserved control field. -/
def ordering : State := user.modArch fun a => (((a.setX 6 0x80).setX 16 0x30100)).setX 17 0
def copyMsg : Msg :=
  { message with ha := 0x7FFFFFFFF1000, opc := 0, a0 := (0x80 : Word) <<< 8 ||| 1, a1 := 0x7FF0000000200, a2 := 0x7FF0000000100, a3 := 0 }
theorem test_meets_engine_commands : field (ordering.rx 6) 56 8 = 0 ∧ field (0x100000000000000 : Word) 56 8 ≠ 0 ∧
    ordering.cmdCause (ordering.arch.prv == 0) ordering.eid false { copyMsg with a1 := 0x30080, a2 := 0x30100 } = none ∧
    (ordering.cmdCause (ordering.arch.prv == 0) ordering.eid false { copyMsg with a3 := 1, a1 := 0x30080, a2 := 0x30100 }).isSome = true ∧
    (ordering.cmdCause (ordering.arch.prv == 0) ordering.eid true { copyMsg with a1 := 0x30080, a2 := 0x30100 }).isSome = true ∧
    ordering.fenced false = false ∧ (cmdRanges copyMsg).length ≤ (freeLocks (ordering.tile (ordering.eid / 2)).locks).length ∧
    ordering.cur.ra = none ∧ freeTag ordering.curCore.reqs 1023 = some 0 ∧ (ordering.curCore.reqs.filter fun r => r.2.cmd).length < 64 := by
  decide +kernel

/-- EngineCommandsRun: a COPY of one line between places of a tile's window, a row of GATH, a verdict of either kind, and a page that
the engine may not read. -/
def gathMsg : Msg := { copyMsg with a0 := (0x100001 : Word) <<< 8 ||| 2, a1 := 0x7FF0000000200, a2 := 0x7FF0000000100, a3 := 0x7FF0000000300 }
def ownLock : RLock := { first := 0, last := 1, dst := true, kind := 0, tag := 0, eid := 0, key := 9 }
def running (m : Msg) : State := boxed.setEngine (.copy 0) { inbox := [m], running := [(0, m)], prog := [] }
theorem test_meets_engines : boxed.accepts copyMsg false ∧ engOf (field copyMsg.ha 8 4) copyMsg.dest = some (.copy 0) ∧
    (boxed.engine (.copy 0)).inbox.length < 16 ∧ ((running copyMsg).engine (.copy 0)).inbox = copyMsg :: [] ∧
    ((running copyMsg).strand (4 * copyMsg.src + copyMsg.ssn)).verdict copyMsg.seq = some true ∧
    engFree (running copyMsg |>.engine (.copy 0)) (engTags (.copy 0)) = some 1 ∧
    (cmdRanges copyMsg).length ≤ (freeLocks ((running copyMsg).tile 0).locks).length ∧
    (((running copyMsg).modStrand 0 fun k =>
      { k with gcmds := [{ key := 9, slot := none, path := false, comb := none, verdict := some false }] }).strand 0).verdict copyMsg.seq =
        some false ∧
    Map.find ((running copyMsg).engine (.copy 0)).running 0 = some copyMsg ∧ Map.find ((running copyMsg).engine (.copy 0)).prog 0 = none ∧
    (∀ l ∈ ((running copyMsg).tile (copyMsg.src / 2)).locks, l.2.key ≠ copyMsg.seq) ∧ cmdRanges copyMsg ≠ [] ∧
    (∃ l ∈ (((running copyMsg).modTile 0 fun t => { t with locks := [(2, ownLock)] }).tile (copyMsg.src / 2)).locks, l.2.key = copyMsg.seq) ∧
      (running copyMsg).msgOwes copyMsg = false ∧
    (running copyMsg).locksBusy 0 copyMsg.seq = false ∧ (running copyMsg).engHeld (.copy 0) = false ∧
    (running copyMsg).genTable (engDie (.copy 0)) (engAgent (.copy 0)) = (running copyMsg).ownGen (engDie (.copy 0)) (engAgent (.copy 0)) ∧
      cmdOp copyMsg = 1 ∧ copyConv copyMsg = false ∧ copyLen copyMsg = 0x80 ∧
    rowsN gathMsg = 1 ∧ cmdOp gathMsg = 2 ∧ rowLen gathMsg = 8 ∧
    (running gathMsg).farAllowed 0 gathMsg gathMsg.a3 = true := by
  refine ⟨by apply accepts_meets <;> decide +kernel, ?_⟩; decide +kernel
theorem test_meets_window : (running copyMsg).window 0 copyMsg copyMsg.a2 0x80 (.tile 0 0 0 0x100 6) ∧
    (running gathMsg).window 0 gathMsg gathMsg.a2 4 (.tile 0 0 0 0x100 6) ∧ (running gathMsg).window 0 gathMsg gathMsg.a3 8 (.tile 0 0 0 0x300 6) ∧
    ((running copyMsg).resolve 0 5 true false 0x7FFFFFFFF0500).2.2 = .denied := by
  refine ⟨⟨by decide +kernel, by decide +kernel, fun _ => rfl, by decide +kernel⟩,
    ⟨by decide +kernel, by decide +kernel, fun _ => rfl, by decide +kernel⟩,
    ⟨by decide +kernel, by decide +kernel, fun _ => rfl, by decide +kernel⟩, by decide +kernel⟩

/-- A COPY that converts 8 numbers from F64 to F32, two rows of GATH, a MCAST to a tile that takes it and one that does not, a SORTC of two keys
under 3, and one of no key at all. -/
def convMsg : Msg := { copyMsg with a0 := (0x11000000040 : Word) <<< 8 ||| 1 }
def twoRows : Msg := { gathMsg with a0 := (0x100002 : Word) <<< 8 ||| 2 }
def castMsg : Msg := { copyMsg with a0 := (0x80 : Word) <<< 8 ||| 4, a1 := 0x300200 }
def sortMsg (k : Nat) : Msg := { copyMsg with a0 := (BitVec.ofNat 64 (k * 2 ^ 20 + 2)) <<< 8 ||| 5, a1 := 0x7FF0000000100,
                                              a2 := 0x7FF0000000200, a3 := 0x7FF0000000300 }
theorem test_meets_engine_kinds : cmdOp convMsg = 1 ∧ copyConv convMsg = true ∧ copyLen convMsg = 64 ∧ copyOut convMsg = 32 ∧
    copyLen convMsg * 8 % etBits (copySf convMsg) = 0 ∧ rowsN twoRows = 2 ∧ cmdOp castMsg = 4 ∧ cmdC castMsg 0 20 = 0x80 ∧
    maskTiles castMsg.a1 = [0, 1] ∧ field castMsg.a1 0 20 % 8 = 0 ∧ (running castMsg).tileAccepts castMsg (mcastCluster castMsg) 0 = true ∧
    (running castMsg).tileAccepts castMsg (mcastCluster castMsg) 1 = false ∧ windowGva (mcastCluster castMsg) 0 0x200 = 0x7FF0000000200 ∧
    cmdOp (sortMsg 3) = 5 ∧ rowsN (sortMsg 3) = 2 ∧ sortK (sortMsg 3) = 3 ∧
      Mem.read (running (sortMsg 3)).mem ((Place.tile 0 0 0 0x100 6).keys 4) = 0 := by
  decide +kernel
theorem window_meets {s : State} {m : Msg} {g : Word} {n : Nat} {p : Place} (h1 : (0 < n ∧ field g 0 7 + n ≤ 128) ∧ s.heldAt 0 m.asid g = false ∧
  s.poisoned p n = false)
    (h2 : ∀ wr, s.resolve 0 m.asid m.wld wr g = (s, none, .at_ p)) : s.window 0 m g n p := ⟨h1.1, h1.2.1, h2, h1.2.2⟩
theorem test_meets_engine_windows : (running convMsg).window 0 convMsg convMsg.a2 64 (.tile 0 0 0 0x100 6) ∧
    (running convMsg).window 0 convMsg convMsg.a1 32 (.tile 0 0 0 0x200 6) ∧
    (running twoRows).window 0 twoRows (twoRows.a2 + 4) 4 (.tile 0 0 0 0x104 6) ∧
      (running twoRows).window 0 twoRows (twoRows.a1 + 8) 8 (.tile 0 0 0 0x208 6) ∧
    (running castMsg).window 0 castMsg castMsg.a2 0x80 (.tile 0 0 0 0x100 6) ∧
      (running castMsg).window 0 castMsg 0x7FF0000000200 0x80 (.tile 0 0 0 0x200 6) ∧
    (running (sortMsg 3)).window 0 (sortMsg 3) 0x7FF0000000100 4 (.tile 0 0 0 0x100 6) ∧
    (running (sortMsg 3)).window 0 (sortMsg 3) 0x7FF0000000200 8 (.tile 0 0 0 0x200 6) ∧
    (running (sortMsg 3)).window 0 (sortMsg 3) 0x7FF0000000300 24 (.tile 0 0 0 0x300 6) := by
  refine ⟨?_, ?_, ?_, ?_, ?_, ?_, ?_, ?_, ?_⟩ <;> exact window_meets (by decide +kernel) fun _ => rfl

/-- MatrixCommandsAreSent: the compute core, the staging core, operands within the limits and outside, a tag in use and free. -/
def computing (x y : Word) : State :=
  { user with unit := { user.unit with sid := 4 }, strands := [(4, { Strand.reset with st := .active, worker := true,
                                                                                       arch := (arch.setX 5 x).setX 6 y })] }
theorem test_meets_matrix : (computing 0x30080 0).eid % 2 = 1 ∧ user.eid % 2 = 0 ∧ (0x30080 : Word).toNat % 16 = 0 ∧ (0x30081 : Word).toNat % 8 ≠ 0 ∧
    (computing 0x30080 0).barred 0 (gvaDie 0x30080) = false ∧ isDevice 0x30080 = false ∧ (computing 0x30080 0).fenced false = false ∧
      (computing 0x30080 0).cur.ra = none ∧ (((computing 0x30080 0).matrix 0).tag 0).used = false ∧
    (computing 0x30080 0).matrixQueued 0 < 16 ∧ field (0x3400000000 : Word) 39 25 = 0 ∧ field (0x3400000000 : Word) 32 4 = 4 ∧
    field (0x1000080 : Word) 3 4 ≤ 6 ∧ (0x1000080 : Word).getLsbD 7 = true ∧ field (0x1000000 : Word) 20 12 = 16 ∧
    permitted 4 false 4 = true ∧ user.sameJob 1 1 = true ∧
    lastByte 0x30080 0x80 = 0x300FF ∧ (mcmdRanges { op := .mma, xa := 0x30080, xb := 0x1000080, tag := 0, msg := user.request 0 }).length ≤ 2 :=
      by decide +kernel
/-- MWAIT on a tag in use, and on one that was discarded behind a fault of its strand. -/
def awaiting (gone : List Nat) : State := (computing 0x40 0).modMatrix 0 fun m =>
  { m with tags := m.tags.set 0 { gen := 1, used := gone.isEmpty, snum := 0, seq := 9, depth := 0, fault := none }, gone := gone, behind := [(2, 1)] }
theorem test_meets_mwait : ((awaiting []).matrix 0).tag (field ((awaiting []).rx 5) 0 6) =
      { gen := 1, used := true, snum := 0, seq := 9, depth := 0, fault := none } ∧ field ((awaiting []).rx 5) 6 16 = 1 ∧
    0 ∈ ((awaiting [0]).matrix 0).gone ∧ (((awaiting [0]).matrix 0).tag 2).snum = (awaiting [0]).unit.sid % 4 ∧
    (awaiting []).sameJob (awaiting []).eid 1 = true ∧ (2, 1) ∈ ((awaiting [0]).matrix 0).behind := by decide +kernel

/-- MatrixEngineSteps: an MWL whose slot is there and whose panel is not latched; an MMA before a row and with one in the array; a MACZ and
an MDRAIN of one row into a ring with room; a full charge; the page of the accumulators at GVA 0x3_0000, HOME = 10 in the engine's tile. -/
def mtag : MTag := { gen := 1, used := true, snum := 0, seq := 9, depth := 0, fault := none }
def accLeaf : Page := { die := 0, size := 16, leaf := 0x3003B, home := none, nominal := 0, page := 3 }
def accPage : AccPage := { region := 3, place := .tile 0 0 0 0x30000 0, page := some accLeaf }
def mrun (op : MOp) (xa xb : Word) (row : Option MRow) : MRun :=
  { cmd := { op := op, xa := xa, xb := xb, tag := 0, msg := { message with src := 1, dest := 1 } },
    groups := [{ m := 1, kb := 0, c := 0x30000, cp := 8, sco := 0, wso := 0 }], g := 0, kb := 0, m := 0, tabled := false, begun := true,
    latched := false, paid := false, done := false, pal := 0x1, panel := 0, panelNo := 0, row := row, flags := 0, seen := [],
    pages := [accPage], waits := none }
def engaged (r : MRun) (tail : BitVec 16) : State :=
  (user.modTile 0 fun t =>
    { t with matrix := { Matrix.reset with runs := [r], tags := (Matrix.reset.tags).set 0 mtag } }).setRing 0 0
    { v := true, base := 0x10000, sl := 1, sb := 64, tail := tail, head := 0, waiting := [] }
def mrow : MRow := { m := 0, bytes := 0, scale := .none, pop := true }
theorem test_meets_matrix_engine : (let s := engaged (mrun .mwl 0 0 none) 1
      (s.matrix 0).runs = [mrun .mwl 0 0 none] ∧ (s.matrix 0).inbox = [] ∧ loadRing (mrun .mwl 0 0 none).cmd < 8 ∧ (s.ring 0 0).used ≠ 0 ∧
      s.poisoned (tileSram 0 0x10000) (panelBytes 0 false) = false) ∧
    (∀ p ∈ (mrun .mma 0 0 none).pages, ∀ h, p.page = some h → h.home = none) ∧
    (engaged (mrun .mma 0x30000 0x1000000 none) 1).poisoned (tileSram 0 0x10000) (actBytes 0) = false ∧ hasScales 0 = false ∧
    ((engaged (mrun .mdrain 0x30000 0x1000000 none) 0).ring 0 0).used < ((engaged (mrun .mdrain 0x30000 0x1000000 none) 0).ring 0 0).slots ∧
    (mrun .macz 0x30000 0 none).m < (mrun .macz 0x30000 0 none).group.m ∧ (mrun .mma 0 0 (some mrow)).row = some mrow ∧
    mrow.m = (mrun .mma 0 0 (some mrow)).m ∧ ({ mrun .mwl 0 0 none with done := true } : MRun).done = true ∧
    (mrun .mma 0 0 none).cmd.tag < 64 := by
  refine ⟨by decide +kernel, ?_, by decide +kernel⟩
  intro p hp h; simp only [mrun, List.mem_singleton] at hp; subst hp; rintro ⟨⟩; rfl
theorem test_meets_engine_pays : (engaged (mrun .mwl 0 0 none) 1).enginePays 0 (panelTokens 0 false) ∧
    (engaged (mrun .mma 0x30000 0x1000000 none) 1).enginePays 0 (rowTokens 0 false) := by unfold State.enginePays; decide +kernel
theorem test_meets_accumulator : (∀ n, n < panelN 0 → ∃ p, (mrun .mma 0x30000 0x1000000 (some mrow)).placeAt (0x30000 + BitVec.ofNat 64 (8 * n)) =
  some p ∧
      (engaged (mrun .mma 0x30000 0x1000000 (some mrow)) 1).poisoned p 8 = false) ∧
    (engaged (mrun .mdrain 0x30000 0x1000000 none) 0).partsPoisoned ((mrun .mdrain 0x30000 0x1000000 none).parts 0x30000 128) = false ∧
    ∀ p ∈ (mrun .mma 0x30000 0x1000000 (some mrow)).parts 0x30000 128, p.tileNo = some 0 := by
  refine ⟨fun n h => ?_, by decide +kernel, by decide +kernel⟩
  have k : ((mrun .mma 0x30000 0x1000000 (some mrow)).placeAt (0x30000 + BitVec.ofNat 64 (8 * n))).any (fun p =>
      !(engaged (mrun .mma 0x30000 0x1000000 (some mrow)) 1).poisoned p 8) = true := by revert n; decide +kernel
  cases q : (mrun .mma 0x30000 0x1000000 (some mrow)).placeAt (0x30000 + BitVec.ofNat 64 (8 * n)) with
  | none => rw [q] at k; cases k
  | some p => rw [q] at k; exact ⟨p, rfl, by simpa using k⟩
/-- A stop of a ring under a pre-empt, for a load and for a row, and a fault that is not taken. -/
theorem test_meets_ring_stall : ({ user with jobs := [(1, { job with preempt := true })], strands := [] }.jobStill { job with preempt := true }) =
  true ∧
    user.jobOf 1 = some job ∧ (engaged (mrun .mwl 0 0 none) 0).ringWait 0 (mrun .mwl 0 0 none) true = some (2 ^ 31) ∧
    ((engaged (mrun .mwl 0 0 none) 0).matrix 0).loader = some (mrun .mwl 0 0 none) ∧
    ((engaged (mrun .mma 0x30000 0 none) 0).matrix 0).loader = none ∧
    (engaged (mrun .mma 0x30000 0 none) 0).ringWait 0 (mrun .mma 0x30000 0 none) false = some 0 ∧
    (let s := (engaged (mrun .mma 0x30000 0 none) 0).modMatrix 0 fun m => { m with behind := [(0, 2)] }
     (s.matrix 0).behind = [(0, 2)] ∧ ((s.matrix 0).tag 0).snum = 0 % 4 ∧ (s.strand 0).wait ≠ .engine ∧ (s.strand 0).posted = []) := by decide +kernel

/-- CollectivesAreOpened: a worker at depth 0, and one that is no worker. -/
theorem test_meets_collectives : user.mayOpen ∧ user.cur.sent = false ∧ user.cur.granted = false ∧ user.owes 0 = false ∧ user.cur.inCbar = false ∧
    (user.modCur fun k => { k with worker := false }).cur.worker = false ∧ user.arch.getG 15 = .free ∧ user.arch.ahead = false := by
  refine ⟨?_, ?_⟩
  · constructor <;> decide +kernel
  · decide +kernel

/-- CollectiveSteps: two members of one die that have contributed, packages of two dies, an outcome of a vote and of a CBR, a held store. -/
def lanes : Lanes := lanesOf .cvoteAnd 3 1 true
def gang : Job := { job with coll := { got := [(0, lanes), (1, lanes)], dies := [(0, lanes)] }, results := [(0, lanes)] }
def wide : Job := { gang with cores := [0, 4096], coll := { got := [(0, lanes), (1, lanes)], dies := [(0, lanes), (8, lanes)] } }
def withJob (s : State) (b : Job) : State := { s with jobs := [(1, b)] }
def voting : State := (withJob user gang).modCur fun k =>
  { k with coll := some { kind := .cvoteAnd, tag := 3, pc := 0x1000, seq := 1, id := 3, sent := true, outcome := none } }
def branching : State := (withJob user { gang with results := [(0, lanesOf .cbr 0 1 true)] }).modCur fun k => { k with
  coll := some { kind := .cbr, tag := 0, pc := 0x1000, seq := 1, id := 0, sent := true, outcome := none },
  ra := some { arch := arch, pend := [], slot := 2, dir := true, taken := 0x1100, fall := 0x1004, mark := 0, was := .free },
  hold := [sureHeld] }
theorem test_meets_collective_steps : (withJob user gang).job 1 = some gang ∧ gang.coll.isOpen = true ∧ gang.dieReady 0 = true ∧
    2 ≤ wide.pkgs.length ∧ wide.dieReady 8 = true ∧ wide.pkgs.all wide.pkgReady = true ∧
    wide.pkgs.all (fun p => !((withJob user wide).pkg p).down.contains ((withJob user wide).gangPlane wide)) = true ∧
    (wide.pkgs.foldl (fun l p => lanesMeet l (wide.pkgLanes p)) lanesUnit).siteAnd ≠ 0x40 ∧
    (withJob user gang).crewCount gang 0 = some 0 ∧ voting.jobOf 0 = some gang ∧ Map.find gang.results voting.arch.mbidx.toNat = some lanes ∧
    lanesClash lanes = false ∧ lanesClash { lanes with seqOr := 3 } = true ∧ branching.cur.ra.isSome = true ∧
    (voting.modCur fun k => { k with hold := branching.cur.hold }).missFree 0 1 = true ∧
    voting.linesOf 0 5 [{ gva := 0x30080, len := 8, nib := none }] = 1 ∧ (voting.cluster 0).mdepBusy = false ∧ voting.cur.worker = true ∧
    (voting.modCluster 0 fun c => { c with mdepBusy := true }).job (voting.jobNo 0) = some gang := by decide +kernel

/-- A gang that lies on one package, a GBAR that it resolves, with its Catalogue entries at GVA 0x3_8000, a mismatch that a member meets which has
run ahead, and a departure behind a contribution. -/
def barred : Job := { job with coll := { got := [(0, lanesOf .gbar 0 1 false), (1, lanesOf .gbar 0 1 false)], dies := [] } }
def swapping : State := withJob (user.setHbm64 0 (TA + 0x100000 + 32 * 5 + 8) 0x30000) barred
theorem test_meets_gbar : swapping.job 1 = some barred ∧ barred.coll.isOpen = true ∧ barred.dieReady 0 = true ∧ barred.pkgs = [0] ∧
    ({ barred with coll := { barred.coll with dies := [(0, barred.dieLanes 0)] } } : Job).pkgReady 0 = true ∧
    lanesClash ({ barred with coll := { barred.coll with dies := [(0, barred.dieLanes 0)] } } : Job).gangLanes = false ∧
    ({ barred with coll := { barred.coll with dies := [(0, barred.dieLanes 0)] } } : Job).gangLanes.siteAnd = 0x40 ∧
    swapping.catg (barred.cores.headD 0 / 512) barred.asid = 0x30000 ∧ (withJob user barred).catg 0 barred.asid = 0 := by decide +kernel
theorem test_meets_swap (n : Nat) (h : n < 0x240) :
    swapping.areaPlace barred.asid (0x30000 + 0x8000 + BitVec.ofNat 64 n) = some ((Place.hbm 0 0x28000 true).plus n) ∧
    ∃ e, (swapping.die (gvaDie (0x30000 + 0x8000 + BitVec.ofNat 64 n))).tlb.find?
      (fun e => e.hits barred.asid (gvaOff (0x30000 + 0x8000 + BitVec.ofNat 64 n))) = some e ∧ e.leaf.getLsbD 8 = false := by
  have k : ((List.range 0x240).all fun n =>
      decide (swapping.areaPlace barred.asid (0x30000 + 0x8000 + BitVec.ofNat 64 n) = some ((Place.hbm 0 0x28000 true).plus n)) &&
      decide ((swapping.die (gvaDie (0x30000 + 0x8000 + BitVec.ofNat 64 n))).tlb.find?
        (fun e => e.hits barred.asid (gvaOff (0x30000 + 0x8000 + BitVec.ofNat 64 n))) = some page)) = true := by decide +kernel
  have q := List.all_eq_true.mp k n (List.mem_range.mpr h)
  simp only [Bool.and_eq_true, decide_eq_true_eq] at q
  exact ⟨q.1, page, q.2, by decide⟩
theorem test_meets_swap_apart : ((Place.hbm 0 0x28000 true).keys 0x240).Nodup := by
  have : (Place.hbm 0 0x28000 true).keys 0x240 = (List.range 0x240).map fun i => (Place.hbm 0 0x28000 true).key 0 + i := by decide +kernel
  rw [this]; exact List.pairwise_map.mpr (List.nodup_range.imp fun h e => h (Nat.add_left_cancel e))
def clashing : State := { branching with jobs := [(1, { gang with results := [(0, { lanes with seqOr := 3 })] })] }
theorem test_meets_clash : clashing.cur.ra.isSome = true ∧ clashing.cur.coll.isSome = true ∧
    Map.find ((clashing.jobOf 0).getD job).results clashing.arch.mbidx.toNat = some { lanes with seqOr := 3 } ∧
    lanesClash { lanes with seqOr := 3 } = true := by decide +kernel
theorem test_meets_departure : ({ user with flight := [.collectiveContribution 1 0 lanes] } : State).contributing 1 0 = true ∧
    user.contributing 1 0 = false ∧ user.jobNo 0 = 1 := by decide +kernel

/-- CatalogueElementsAreLocated: a vector of 100 FP32 numbers at GVA 0x3_0000, whose record stands in the die's cache: index 99 is its last, 100
is out of bounds. -/
def record : Nat := 0x11 + 2 ^ 64 * (0x0001000100010064 + 2 ^ 64 * (0x0001000100010001 + 2 ^ 64 * (2 ^ 64 * (0x30000 + 2 ^ 64 * (2 ^ 64 * 0x10000)))))
def catalogued (r : Nat) : State :=
  (user.modDie 0 fun d => { d with cat := [{ asid := 5, e := 3, words := r }] }).setHbm64 0 (TA + 0x100000 + 32 * 5 + 8) 0x30000
theorem test_meets_catalogue : (catalogued record).myCatg ≠ 0 ∧ user.myCatg = 0 ∧
    ((catalogued record).die 0).cat.find? (fun c => c.asid == (catalogued record).curCore.asid && c.e == 3) = some ⟨5, 3, record⟩ ∧
    recV record = true ∧ recV 0 = false ∧ recRank record = 1 ∧ recN record 0 = 100 ∧ recN record 1 = 1 ∧
    (∀ k, k < 4 → (indices 99).getD k 0 < recN record k) ∧ recN record 0 ≤ (indices 100).getD 0 0 ∧ recEt record = some user.arch.shapeEt ∧
    (catalogued record).arch.rows = 1 ∧ (locate record (indices 99)).1 = 0x3018C ∧ (elemPiece (recBits record) 0x3018C 0).len = 4 ∧
    recEt record ≠ some (shaped user 0x388).arch.shapeEt ∧ user.cur.coll = none := by decide +kernel
theorem test_meets_element : (∀ wr, (catalogued record).mayAccess [0x3018C] 4 1 wr false) ∧
    (∀ ld wr, (catalogued record).maySend [({ gva := 0x3018C, len := 4, nib := none } : Piece)] ld wr) := by
  refine ⟨fun _ => by apply access_meets <;> decide +kernel, fun _ _ => by apply send_meets <;> decide +kernel⟩
/-- A row of four elements from index 96 on. -/
theorem test_meets_tile : (shaped (catalogued record) 0x101).arch.cols = 4 ∧ (shaped (catalogued record) 0x101).arch.rows = 1 ∧
    (∀ j, j < 4 → (tileIndices 1 (indices 96) 0 j).getD 0 0 < recN record 0) ∧
    (shaped (catalogued record) 0x101).mayAccess ((List.range 4).map fun j => 0x30180 + BitVec.ofNat 64 (4 * j)) 4 1 false false := by
  refine ⟨by decide +kernel, by decide +kernel, by decide +kernel, ?_⟩
  have h : ((shaped (catalogued record) 0x101).tile ((shaped (catalogued record) 0x101).eid / 2)).locks = [] := by decide +kernel
  have k : (((List.range 4).map fun j => (0x30180 : Word) + BitVec.ofNat 64 (4 * j)).all fun g =>
      ([g, lastByte g 4].all fun h => gvaAllowed ((shaped (catalogued record) 0x101).arch.prv == 0) false h &&
        !(shaped (catalogued record) 0x101).barred 0 (gvaDie h)) && g.toNat % 1 == 0 && gvaDie g == gvaDie (lastByte g 4)) = true := by decide +kernel
  have e : (shaped (catalogued record) 0x101).eid / 4096 = 0 := by decide +kernel
  simp only [List.all_eq_true, Bool.and_eq_true, beq_iff_eq, Bool.not_eq_true'] at k
  exact ⟨⟨fun g hg x hx => by rw [e]; exact (k g hg).1.1 x hx, fun g hg => ⟨(k g hg).1.2, (k g hg).2⟩⟩,
    by rw [h]; intro _ _ _ _ q hq; cases hq⟩

/-- TablesAreReadAndWritten: records at GVA 0x3_0100 (an object of one row, a Catalogue record and one that is not good), an object, a page and
a lock; packages of their own, one that is not there and one whose port is down. -/
def objRec : Nat := 0x30000 + 2 ^ 64 * (0x100000080 + 2 ^ 64 * 0)
def object (live : Bool) : Obj := { asid := 5, job := some 1, base := 0x30000, rowBytes := 128, rows := 1, pitch := 0, gen := 0,
                                    live := live, state := [] }
def reading (r : Nat) : State := ((catalogued record).writeAt (.hbm 0 0x20100 true) 64 r).modArch fun a => a.setX 5 0x30100
theorem test_meets_reads : (∀ r, r ∈ [objRec, record, 0x21] →
      (reading r).busyAccs = false ∧ (reading r).owes 0 = false ∧ ((reading r).unitRead 0x30100 64).2 = .value r) ∧
    ((reading objRec).unitRead 0x30100 32).2 = .value objRec ∧ ((reading 7).unitRead 0x30100 128).2 = .value 7 ∧
    (reading objRec).mayAccess [(reading objRec).rx 5] 32 32 false false ∧ (reading 7).mayAccess [(reading 7).rx 5] 64 64 false false := by
  refine ⟨?_, by decide +kernel, by decide +kernel, ?_, ?_⟩
  · intro r h
    simp only [List.mem_cons, List.not_mem_nil, or_false] at h
    rcases h with rfl | rfl | rfl <;> decide +kernel
  · apply access_meets <;> decide +kernel
  · apply access_meets <;> decide +kernel
theorem test_meets_tables : recOk record = true ∧ recV 0x21 = true ∧ recOk 0x21 = false ∧
    ((reading record).areaPlace 5 ((reading record).myCatg + 0x8040)).isSome = true ∧
    ((reading record).areaPlace 5 ((reading record).myCatg + 0x8000)).isSome = true ∧
    (reading objRec).objFails (objOf 5 (some 1) objRec 0) (wordAt objRec 3) = none ∧ (reading objRec).objFails (objOf 5 (some 1) 1 0) 0 = some 1 ∧
    (reading objRec).moving 0 5 0x30000 128 = false ∧ isDevice 0x30080 = false ∧ user.barred 0 (gvaDie 0x30080) = false ∧ user.missFree 0 1 = true ∧
    (user.findPage 5 0x30080).2.isSome = true ∧ Map.find (locked.tile 0).locks 0 ≠ none ∧ Map.find (locked.tile 0).locks 1 = none ∧
    user.ready 1 81 = false ∧ user.cut 0 1 = true ∧ user.cut 0 0 = false := by decide +kernel
theorem test_meets_object : (∀ live, Map.find ((user.modDie 0 fun d => { d with objs := [(7, object live)] }).die 0).objs 7 = some (object live)) ∧
    objHandle 0 7 (object true) = 7 ∧ (object true).asid = user.curCore.asid ∧ (object false).live = false := by
  refine ⟨?_, by decide +kernel, by decide +kernel, rfl⟩; intro live; cases live <;> decide +kernel
theorem test_meets_launch : ∃ p : Nat, p ≠ 0 ∧ (user.modPkg 1 fun k => { k with ready := BitVec.allOnes 128, down := [1] }).ready p 81 = true ∧
    (user.modPkg 1 fun k => { k with ready := BitVec.allOnes 128, down := [1] }).cut 0 p = true := ⟨1, by decide +kernel⟩

/-- What SHWR and SHSWAP find at the bytes they read and write: the version word, the shadow record, the bit. -/
theorem test_meets_banks : let s := reading record
    s.myCatg = 0x30000 ∧ (∀ g, g ∈ [(0x38046, 2), (0x340C0, 64), (0x38000, 1)] → s.unitFree g.1 g.2 = true ∧ s.heldAt 0 5 g.1 = false ∧
      s.tablesBad 5 g.1 = false ∧
      s.areaPlace 5 g.1 = some (.hbm 0 (g.1.toNat % 65536 + 0x20000) true) ∧ s.poisoned (.hbm 0 (g.1.toNat % 65536 + 0x20000) true) g.2 = false ∧
      s.hostHas (.hbm 0 (g.1.toNat % 65536 + 0x20000) true) g.2 true = false ∧
      ((s.findPage 5 g.1).2.map fun p => p.home.isNone && !s.dirtyNeeded 5 p) = some true) ∧ s.arch.wld = true := by
  refine ⟨by decide +kernel, ?_, by decide +kernel⟩
  intro g h
  simp only [List.mem_cons, List.not_mem_nil, or_false] at h
  rcases h with rfl | rfl | rfl <;> decide +kernel
/-- MAPQ where a table word is poisoned, and where no page is; RLQ with a result that is not due; LAUNCH to a package that is up. -/
def badTables : State := { user with poison := [((Place.hbm 0 (rootAt 5) true).key 0) / 8] }
def asking_ : State := user.modCur fun k => { k with rlqs := [(7, 0, 1)],
                                                     pend := [{ reg := some (.x 9), val := 0, keep := 0, flags := 0, due := some 12, fixed := false, id := 7 }] }
theorem test_meets_queries : badTables.tablesBad 5 0x50000 = true ∧ user.tablesBad 5 0x50000 = false ∧ (user.findPage 5 0x50000).2 = none ∧
    (∃ k ∈ (asking_.strand 0).pend, k.id = 7 ∧ k.due = some 12) ∧ ((asking_.strand 0).rlqs.map fun n => n.1).Nodup ∧ asking_.cycleOf 0 ≤ 12 ∧
    (user.modPkg 1 fun k => { k with ready := BitVec.allOnes 128 }).ready 1 81 = true ∧
    (user.modPkg 1 fun k => { k with ready := BitVec.allOnes 128 }).cut 0 1 = false := by decide +kernel

/-- TasksBeginAndEnd: a lane with room and a full one, an entry of either kind, a frame with a free descriptor, the four return marks, a
decrement that has been answered, and a frame at 0 and at 1. -/
def entry (w0 : Word) : LaneEntry := { w0 := w0, fr := 0, a0 := 8, a1 := 9, num := 0, at_ := 0, spilled := false, resv := none, src := 0,
                                       stamp := 0, left := [] }
def tasked (depth : BitVec 32) (frame : Word) (ras : List Word) (l : List LaneEntry) : State :=
  user.modCur fun k => { k with lane := l, arch := { k.arch with depth := depth, frame := frame, ras := ras } }
def ask (code : Nat) : Ask :=
  { id := 0, target := 0x30000, ras := [0x1006], rstop := 0, depth := 1, anchor := some 0x1006, reply := some (code, false) }
/-- No spill array, and 64 entries. -/
def unspilled : State := (tasked 0 0 [] (List.replicate 64 (entry 1))).writeAt (tilePlace 0 12) 4 1
theorem test_meets_tasks : (tasked 0 0 [] []).cur.worker = true ∧ (tasked 0 0 [] []).cur.lane.length < (tasked 0 0 [] []).laneCap 0 ∧
    onCore (tasked 0 0 [] []).cur.lane < laneH ((tasked 0 0 [] []).core 0).w ∧
    unspilled.laneCap 0 ≤ unspilled.cur.lane.length ∧
    (tasked 0 0 [] [entry 1]).cur.lane = [] ++ [entry 1] ∧ frameOf (entry 1).fr = 0 ∧ (entry 1).w0.getLsbD 0 = true ∧
    (entry 0).w0.getLsbD 0 = false ∧ (tasked 1 0 [0x1006] []).arch.ras = [] ++ [0x1006] ∧ field (0x1006 : Word) 0 2 = 2 ∧
    field (0x1005 : Word) 0 2 = 1 ∧ field (0x1007 : Word) 0 2 = 3 ∧ field (0x1004 : Word) 0 2 = 0 ∧ (tasked 1 0 [0x1006] []).arch.depth ≠ 0 ∧
    frameOf (tasked 1 0x30000 [0x1006] []).arch.frame ≠ 0 ∧ (tasked 1 0x30000 [0x1006] []).routed .int 0x30000 = true ∧
    (tasked 1 0x30000 [0x1006] []).owes 0 = false ∧ (tasked 1 0x30000 [0x1006] []).owesEngines = false ∧
    (poor (tasked 1 0x40000000000000 [0x1006] [])).routed .int 0x40000000000000 = false ∧ (ask 0).anchor = some 0x1006 ∧
    (ask 0).reply = some (0, false) ∧ (ask 0x0B).reply = some (0x0B, false) ∧ user.cur.ask = none := by decide +kernel
/-- A lane of 64 entries on its core, with a spill array at tile offset 0x1000; 40 spilled entries under 20 on the core; a newest entry among
others; RESUME, with the frame to go on with at GVA 0x3_0000; and a SYNC that may park. -/
def spilled (base : Nat) (l : List LaneEntry) : State := (tasked 0 0 [] l).writeAt (tilePlace 0 12) 4 base
def numbered (n : Nat) (spilled : Bool) : LaneEntry := { entry 1 with num := n, spilled := spilled }
def deep : List LaneEntry := (List.range 40).map (numbered · true) ++ (List.range 20).map fun i => numbered (40 + i) false
theorem test_meets_spills : (spilled 0x1000 ((List.range 64).map (numbered · false))).cur.lane.length < (spilled 0x1000 ((List.range 64).map (numbered · false))).laneCap 0 ∧
    laneH ((spilled 0x1000 []).core 0).w ≤ onCore ((List.range 64).map (numbered · false)) ∧
    ((spilled 0x1000 ((List.range 64).map (numbered · false))).laneCtl 0).2.2 = some 0x1000 ∧
    (List.range 64).map (numbered · false) = [] ++ numbered 0 false :: ((List.range 63).map fun i => numbered (i + 1) false) ∧
    (∀ x ∈ (List.range 63).map (fun i => numbered (i + 1) false), x.num ≠ 0) ∧ (numbered 0 false).spilled = false ∧
    (spilled 0x1000 deep).cur.lane = (deep.take 59) ++ [numbered 59 false] ∧ (∀ x ∈ deep.take 59, x.num ≠ 59) ∧
    frameOf ((spilled 0x1000 deep).laneRead 0 (numbered 59 false)).fr = 0 ∧
      ((spilled 0x1000 deep).laneRead 0 (numbered 59 false)).w0.getLsbD 0 = true ∧
    2 * onCore (deep.take 59) < laneH 1 ∧ (spilled 0x1000 deep).arch.ras.length < 16 := by decide +kernel
theorem test_meets_park : (ask 0).ras = [] ++ [0x1006] ∧ ({ ask 0 with reply := some (0, true) } : Ask).reply = some (0, true) ∧
    (let s := tasked 1 0x30001 [0x1006] []
     s.parkable = true ∧ s.arch.ras = [] ++ 0x1006 :: [] ∧ s.owes 0 = false ∧
       ((s.writeAt (.hbm 0 0x20000 true) 4 1).unitRead 0x30000 8).2 = .value 1 ∧
     s.missFree 0 (s.linesOf 0 5 (pieces 0x30010 24 ++ pieces 0x30070 32 ++ pieces 0x30004 4)) = true ∧
     (s.coreStore 0 5 true 7 (pieces 0x30010 24 ++ pieces 0x30070 32 ++ pieces 0x30004 4)).2 = .value 0 ∧
     (s.unitRead 0x30010 0x80).2 = .value 0) ∧
    -- task marks above the anchor: none, or one of a spawned child that no continuation stands for
    (([0x1005] : List Word).getLast?.any fun x => field x 0 2 == 1) = true ∧ (tasked 2 0x30001 [0x1006, 0x1005] []).cur.newestCont = none :=
      by decide +kernel
theorem test_meets_park_access : (∀ g, g ∈ [((0x30010 : Word), 24), (0x30070, 32), (0x30000, 8)] →
  (tasked 1 0x30001 [0x1006] []).mayAccess [g.1] g.2 8 true false) ∧
    (tasked 1 0x30001 [0x1006] []).mayAccess [0x30010] 0x80 8 false false := by
  refine ⟨?_, by apply access_meets <;> decide +kernel⟩
  intro g h
  simp only [List.mem_cons, List.not_mem_nil, or_false] at h
  rcases h with rfl | rfl | rfl <;> (apply access_meets <;> decide +kernel)
theorem test_meets_frames : (tasked 1 0 [] []).mayAccess [0x30000] 16 8 true false ∧ (tasked 1 0x30000 [] []).mayAccess [0x30000] 8 8 true false ∧
    ((tasked 1 0x30000 [] []).unitRead 0x30000 8).2 = .value 0 ∧ ((tasked 1 0 [] []).unitRead 0x30030 64).2 = .value 0 ∧
    ((List.range 4).all fun j => descValid ((descriptors 0).getD j (0, 0))) = true ∧ descValid ((descriptors (2 ^ 64)).getD 0 (0, 0)) = false ∧
    (tasked 1 0x30002 [] []).parkable = false ∧ (tasked 1 0 [] []).maySend (pieces 0x30000 16) false true ∧
    ((tasked 1 0x30002 [] []).coreStore 0 5 true 0x400 (pieces 0x30004 4)).2 = .value 0 ∧ (tasked 1 0 [] []).unitFree 0x30030 64 = true ∧
    (tasked 1 0x30000 [] []).admits [0x30000] 8 256 false ∧ (tasked 1 0x30000 [] []).rowBarred true false 8 0x30000 = false := by
  refine ⟨by apply access_meets <;> decide +kernel, by apply access_meets <;> decide +kernel, ?_, ?_, ?_, ?_, ?_, ?_, ?_, ?_,
    by apply admit_meets <;> decide +kernel, ?_⟩
  all_goals first | decide +kernel | (apply send_meets <;> decide +kernel)
theorem test_meets_parked_count : (((tasked 1 0x30002 [] []).writeAt (.hbm 0 0x20000 true) 4 1).unitRead 0x30000 8).2 = .value 1 := by decide +kernel

/-- TasksAreShared: a queue of two slots at GVA 0x3_0000 (CAPL = 1) with its first slot free, and with a record in it. -/
def queue (slot : Nat) : State :=
  ((user.writeAt (.hbm 0 0x20010 true) 4 1).writeAt (.hbm 0 0x20060 true) 8 slot).modArch fun a => (a.setX 5 0x30000).setX 6 1
def donating : State := (queue 0).modCur fun k => { k with lane := [entry 3] }
def reserved : State := donating.modCur fun k => { k with lane := [{ entry 3 with resv := some 0 }], progress := some 1 }
theorem test_meets_donate : donating.cur.worker = true ∧ donating.rx 6 = 1 ∧ donating.cur.progress = none ∧ donating.cur.lane = entry 3 :: [] ∧
    (entry 3).work = true ∧ (entry 3).mark = true ∧ (entry 3).resv = none ∧ donating.routed .int (donating.rx 5) = true ∧ donating.busyAccs = false ∧
    (reserved.unitRead 0x30000 20).2 = .value (2 ^ 128) ∧ (reserved.unitRead 0x30060 8).2 = .value 0 ∧
    (reserved.coreStore 0 5 true 1 (pieces 0x30000 8 ++ pieces 0x30040 40)).2 = .value 0 ∧ reserved.unitFree 0x30000 20 = true ∧
    reserved.missFree 0 (reserved.linesOf 0 5 (pieces 0x30000 8 ++ pieces 0x30040 40)) = true ∧ donating.rowBarred true false 40 0x30040 = false ∧
    donating.owes 0 = false := by decide +kernel
theorem test_meets_queue : donating.admits [donating.rx 5] 8 64 false := by apply admit_meets <;> decide +kernel
theorem test_meets_pull : (queue 1).mayAccess [(queue 1).rx 5] 8 64 true false ∧ (queue 1).withheld 0 = false ∧
    ((queue 1).unitRead 0x30000 20).2 = .value (2 ^ 128) ∧ ((queue 1).unitRead 0x30040 40).2 = .value (2 ^ 256) ∧
    wordAt (2 ^ 256) 4 = 0 + 1 ∧ seqCompare 0 (0 + 1) = 1 ∧ frameOf (wordAt (2 ^ 256) 1) = 0 ∧ (queue 1).arch.ras.length < 16 ∧
    ((user.modCluster 0 fun c => { c with hot := true }).withheld 0) = true := by
  refine ⟨by apply access_meets <;> decide +kernel, ?_⟩; decide +kernel
/-- QUIET in the steal loop, with a detection, and with a record that is ready to start; BOOST and ETQ. -/
theorem test_meets_quiet : user.cur.worker = true ∧ user.arch.depth = 0 ∧ user.cur.start = none ∧ user.cur.stolen = [] ∧ user.cur.detect = none ∧
    (user.modCur fun k => { k with detect := some 2 }).cur.detect = some 2 ∧ ((user.core 0).steal.busy = false) ∧
    (user.modCur fun k => { k with stolen := [entry 3], start := some { desc := some [], hs := [0, 0, 0, 0], fault := none } }).cur.stolen =
      [entry 3] ∧
    field (2 : Word) 0 2 ≠ 3 ∧ field (3 : Word) 0 2 = 3 ∧ field (0x100003 : Word) 16 16 ≠ 0 ∧ user.arch.ahead = false := by decide +kernel
theorem test_meets_etq : user.canPay (field (0x100003 : Word) 16 16) := by unfold State.canPay; decide +kernel

/-- TaskEnginesStep: a frame that is decremented, its refusal, a strand in a long SYNC, a core that searches for records, lanes that give one
record, half of them, or half of a range, and a token among passive cores. -/
theorem test_meets_join : message.addr ≠ 0 ∧ (∀ k, message.kind ≠ .reserved k) ∧ user.genTable (message.src / 512) (message.src % 512) = message.gen ∧
    (user.framePlace 0 5 true 0x50000).2 = .unmapped ∧ (user.framePlace 0 5 true 0x7FFFFFFFF0500).2 = .bad 0x0B ∧
    ∃ u pg, user.framePlace 0 5 true 0x30080 = (u, .at_ (.hbm 0 0x20080 true) pg) ∧ u.plainPage 5 pg := by
  refine ⟨by decide +kernel, (fun k h => by cases h), by decide +kernel, by decide +kernel, by decide +kernel, (user.framePlace 0 5 true 0x30080).1,
    some { die := 0, size := 16, leaf := 0x20033, home := none, nominal := 0, page := 3 }, ?_, plain_meets (by decide +kernel)⟩
  exact Prod.ext rfl (by decide +kernel)
def searching (probe : Nat) : State := (user.modCur fun k => { k with st := .blocked, wait := .steal, poll := some 5 }).modCore 0 fun c =>
  { c with steal := { c.steal with queue := [0], probe := probe } }
def rangeEntry : LaneEntry := { entry 1 with a1 := 0xA00000002 }
theorem test_meets_search : ((searching 0).core 0).steal.queue = [0] ∧ (searching 0).withheld 0 = false ∧ ((searching 9).core 0).steal.probe = 9 ∧
    ((searching 0).strand 0).poll = some 5 ∧ 5 ≤ ((searching 0).core 0).cycle ∧ (searching 0).pickLane 1 65 = none ∧
    (entry 0).work = false ∧ (entry 0).mark = false ∧ (entry 2).mark = true ∧ 2 ≤ rangeEntry.hi - rangeEntry.lo ∧
    (((searching 0).modStrand 4 fun k => { k with worker := true, lane := [entry 3, { entry 3 with num := 1 }] }).pickLane 1 65).isSome = true ∧
    ((searching 0).modStrand 0 fun k => { k with stolen := [entry 3] }).cur.stolen = entry 3 :: [] ∧
      user.pushOpen (entry 3) = false := by decide +kernel
def idle : State := { user with strands := [] }
theorem test_meets_token : idle.job 1 = some job ∧ job.token < job.cores.length ∧ idle.passive 0 = true ∧ job.cores.getD 0 0 = 0 ∧
    job.cores.length ≤ ({ job with token := 2 } : Job).token ∧ job.mark = false ∧ job.sum = 0 ∧ (idle.core 0).marked = true ∧
    ((idle.modCore 0 fun c => { c with marked := false }).core 0).marked = false := by decide +kernel


/-- ControlRegistersAreWritten: one way pinned and asked for three, a strand whose job is outside the function's rights and one whose job is
within them, a core of no job. -/
def rights : State := user.setHbm64 0 (TA + 0x310000) 0xFFFF000000000005
theorem test_meets_controls : (user.cluster 0).slBusy = false ∧ (3 : Word).toNat % 16 ≠ (user.cluster 0).pinw.toNat ∧
    ((user.modCluster 0 fun k => { k with slBusy := true }).cluster 0).slBusy = true ∧ (user.pkg 0).ready.getLsbD 79 = true ∧
    (user.pkg 0).recovery = false ∧ ((user.modPkg 0 fun k => { k with recovery := true }).pkg 0).recovery = true ∧
    (1 : Word).toNat % 256 = 1 ∧ 7 < (8 : Word).toNat % 256 ∧ (7 : Word).toNat % 256 = 7 ∧ (0 : Word).toNat % 256 ≠ 7 ∧
    user.jobOf 0 = some job ∧ user.launchRights 0 0 (pktAsid job.words) = false ∧ rights.launchRights 0 0 (pktAsid job.words) = true ∧
    user.jobOf 2 = none ∧ 79 ∉ (user.pkg 0).refused := by decide +kernel

/-- StrandEventsStep. -/
def blocked : State := user.modCur fun k => { k with st := .blocked, wait := .event, ext := some 1, arch := { k.arch with status := 0x8C } }
def leaving : Job := { job with preempt := true }
def stopped (f : Strand → Strand) : State := { user with jobs := [(1, leaving)] }.modCur fun k => f { k with preempt := true }
def asking (m : Strand) : Strand := { m with origin := .message { message with tag := some 4 } }
theorem test_meets_strands : (user.modCur fun k => { k with waited := 24, wait := .result 3 }).cur.wait ≠ .none ∧
    ((user.modCore 0 fun c => { c with wcount := 2 ^ 20 }).core 0).wdog.toNat ≤ 2 ^ 20 ∧ (user.core 0).wdog ≠ 0 ∧ user.cur.st = .active ∧
    blocked.cur.ext.isSome = true ∧ blocked.cur.st = .blocked ∧ blocked.cur.wait = .event ∧ blocked.arch.ie = true ∧ blocked.cur.preempt = false ∧
    (stopped id).job 1 = some leaving ∧ leaving.cores.Nodup ∧ 0 ∈ leaving.sids ∧ (stopped id).cur.preempt = true ∧
      (stopped asking).cur.owesReply = true ∧
    (stopped id).cur.owesReply = false ∧ (stopped id).arch.prv = 0 ∧ (stopped fun k => { k with arch := supervisor.arch }).arch.prv ≠ 0 ∧
    (stopped id).cur.midUnit = false ∧ (stopped fun k => { k with granted := true }).cur.midUnit = true ∧
    (stopped fun k => { k with st := .held, why := .delegated 2 }).cur.st = .held := by decide +kernel
/-- A load wait that switches, and a BLOCKED strand whose result is there. -/
def due (st : StrandState) : State := user.modCur fun k => { k with st := st, waited := 24, wait := .result 3,
                                                                    pend := [{ reg := some (.x 5), val := 7, keep := 0, flags := 0, due := some 9, fixed := false, id := 3 }] }
theorem test_meets_switch : (due .active).cur.st = .active ∧ 24 ≤ (due .active).cur.waited ∧ (due .active).cur.wait ≠ .none ∧
  (due .blocked).cur.st = .blocked ∧
    (due .blocked).cur.wait = .result 3 ∧ (due .blocked).cur.preempt = false ∧ 9 ≤ (due .blocked).cycleOf 0 ∧
    ((due .blocked).cur.pend.find? fun p => p.id == 3).map (·.due) = some (some 9) ∧
    ((user.modCore 0 fun c => { c with wdog := 0 }).core 0).wdog = 0 := by decide +kernel
/-- A trap delegated to strand 2, whose record is stored at GVA 0x3_0000. -/
def delegated : State := user.modCur fun k => { k with st := .held, why := .delegated 2, arch := { k.arch with ctxbase := 0x30000 } }
theorem test_meets_delegated : delegated.cur.why = .delegated 2 ∧ delegated.cur.preempt = false ∧
    (delegated.coreStore 0 5 false 7 (pieces 0x30000 512)).2 = .value 0 ∧
      (delegated.modCur fun k => { k with reread := some 7 }).cur.reread = some 7 := by
  decide +kernel
theorem test_meets_handler : ((delegated.modStrand 2 fun k => { k with st := .dormant }).strand 2).st = .dormant ∧ (2 : Nat) ≠ 0 ∧
    ((delegated.modStrand 2 fun k => { k with st := .dormant }).coreStore 0 5 true 7 (pieces 0x30000 512)).2 = .value 0 ∧ delegated.arch.wld = true ∧
    (delegated.strand 2).st ≠ .dormant ∧ (delegated.core 0).swq = [] := by decide +kernel
/-- A command of the table agent, at slot 0. -/
def cmd (s : State) (op : Nat) (w1 w2 w3 : Word) : State :=
  ((((s.setHbm64 0 TA 1).setHbm64 0 (slotAt 0) (BitVec.ofNat 64 (0x50000 + op))).setHbm64 0 (slotAt 0 + 8) w1).setHbm64 0 (slotAt 0 + 16) w2).setHbm64 0
    (slotAt 0 + 24) w3
theorem taken {o : Option (State × Nat)} (h : o.map (·.2) = some 0) : ∃ u, o = some (u, 0) := by
  cases o with
  | none => cases h
  | some p => exact ⟨p.1, by simpa [Prod.ext_iff] using h⟩
theorem test_meets_reserved : (∃ u, (cmd user 9 0 0 0).takeCmd 0 (fun n => !(cmd user 9 0 0 0).cmdFormed 0 n) = some (u, 0)) ∧
    (∃ u, (cmd user 0x100000001 0 0 0).takeCmd 0 (fun n => !(cmd user 0x200000001 0 0 0).cmdFormed 0 n) = some (u, 0)) := by
  refine ⟨taken ?_, taken ?_⟩ <;> decide +kernel

/-- FaultsAreServed: GVA 0x5_0000 is not mapped; in `mapped` the walk finds a page of 1 GiB for it. -/
def mapped : State := ((user.setHbm64 0 (TA + 0x100000 + 32 * 5) 0x8001).setHbm64 0 0x8000 0x9001).setHbm64 0 0x9000 0x33
def logged (g : Word) : SideEntry := sideEntry 7 0 5 true false none { gva := g, len := 8, nib := none } 0x1234
def logging (g : Word) : State := user.modCore 0 fun c => { c with side := [logged g] }
def fault : OpenFault := { num := some 0, asid := 5, region := 5, held := [(4, .engineCompletion (.copy 0) 0)] }
def faulted (s : State) : State := s.modDie 0 fun d => { d with faults := [fault] }
theorem test_meets_side_log : (user.core 0).side.length < 32 ∧ (∀ q ∈ (user.core 0).side, q.id ≠ user.fresh) ∧ (logged 0x50000).denied = false ∧
  pieces 0x50000 8 = { gva := 0x50000, len := 8, nib := none } :: [] ∧
    ((logging 0x50000).core 0).side.find? (fun q => q.line.toNat / 2 ^ 16 == 5) = some (logged 0x50000) ∧ (logged 0x50000).red = none ∧
    sidePieces (logged 0x50000) = [({ gva := 0x50000, len := 8, nib := none }, 0x1234)] ∧
    ((logging 0x50000).coreStore 0 5 true 0x1234 [{ gva := 0x50000, len := 8, nib := none }]).2 = .unmapped 0x50000 ∧
    ((logging 0x30080).coreStore 0 5 true 0x1234 [{ gva := 0x30080, len := 8, nib := none }]).2 = .value 0 ∧
    ((logging 0x7FFFFFFFF0500).coreStore 0 5 true 0x1234 [{ gva := 0x7FFFFFFFF0500, len := 8, nib := none }]).2 = .denied 0x7FFFFFFFF0500 := by
  decide +kernel
/-- A replay whose page's table is poisoned, an entry that the owner has refused, a fault whose requesters wait again, and one that nothing
waits for. -/
theorem test_meets_refused : (({ logging 0x50000 with poison := [(Place.hbm 0 (rootAt 5) true).key 0 / 8] } : State).coreStore 0 5 true 0x1234
      [{ gva := 0x50000, len := 8, nib := none }]).2 = .poison 0x50000 ∧
    ((user.modCore 0 fun c => { c with side := [{ logged 0x30080 with denied := true }] }).core 0).side = [{ logged 0x30080 with denied := true }] ∧
    (logged 0x30080).line.toNat / 2 ^ 16 = 3 ∧ (logging 0x50000).faultAsid 0 0x50000 = 5 := by decide +kernel
def again (held : List (Word × Ev)) : State := user.modDie 0 fun d => { d with faults := [{ fault with num := none, held := held }] }
theorem test_meets_again : ((again fault.held).die 0).faults.find? (OpenFault.isFor 5 (regionOf 0x50000)) = some { fault with num := none } ∧
    (again fault.held).faultAsid 0 0x50000 = 5 ∧ (again fault.held).wanted { fault with num := none } = true ∧
    (again []).wanted { fault with num := none, held := [] } = false ∧ user.wanted { fault with held := [] } = false ∧
      user.wanted fault = true := by decide +kernel
/-- A fault that holds one load of core 0. -/
def holding : State := ((sending { acc (.load (.x 9)) 0x50000 with held := true }).modDie 0 fun d =>
  { d with faults := [{ fault with held := [(4, .accessPerformed 0 7)] }] })
theorem test_meets_holding : (holding.core 0).accs = [{ acc (.load (.x 9)) 0x50000 with held := true }] ∧
    (∀ q ∈ holding.dies, ∀ o ∈ q.2.faults, (q.1 = 0 ∧ o.isFor fault.asid fault.region = true) ∨ ∀ x ∈ o.held, x.2 ≠ .accessPerformed 0 7) ∧
    (∀ c ∈ holding.cores, c.2.side = []) ∧ holding.moving 0 fault.asid (fault.region % 2 ^ 35 * 2 ^ 16) (2 ^ 16) = false := by decide +kernel
theorem test_meets_faults : ((logging 0x50000).die 0).faults.find? (OpenFault.isFor 5 (regionOf 0x50000)) = none ∧
    (logging 0x50000).awaits 0 5 (regionOf 0x50000) = true ∧ ((logging 0x50000).hbm64 0 (TA + 0x18) - (logging 0x50000).hbm64 0 (TA + 0x20)).toNat < 1024 ∧
    ((logging 0x50000).hbm64 0 (TA + 0x10)).getLsbD 63 = false ∧
    ((faulted user).die 0).faults.find? (OpenFault.isFor 5 (regionOf 0x50000)) = some fault ∧ fault.num.isSome = true ∧
    (user.die 0).tlb.find? (fun q => q.hits 5 (gvaOff 0x50000)) = none ∧ user.walk 0 5 (gvaOff 0x50000) = none ∧
    mapped.walk 0 5 (gvaOff 0x50000) = some { size := 30, word := 0x33, at_ := 0x9000 } ∧ (leafPlace 0 30 0x33 (fun _ => 0) 0).isSome = true ∧
    (((mapped.modCore 0 fun c => { c with dirtyN := 1 }).writeAt (.tile 0 0 0 0xFE000 6) 8 0x50000).core 0).dirtyN = 1 ∧
    mapped.walk 0 5 (gvaOff ((0x50000 : Word) &&& ~~~(0xFFFF : Word))) ≠ none := by decide +kernel
theorem test_meets_commands : (cmd user 1 0x30000 0x1000 0).isCmd 0 1 0 = true ∧ (cmd user 1 0 0 0).chead 0 ≠ (cmd user 1 0 0 0).ctail 0 ∧
    ((cmd user 1 0 0 0).die 0).cmd = none ∧ (((cmd user 1 0 0 0).modDie 0 fun d => { d with cmd := some 0 }).die 0).cmd = some 0 ∧
    (∀ op, op ∈ [1, 2, 3, 4, 5] → ∃ u, (cmd user op 0 0 0).takeCmd 0 ((cmd user op 0 0 0).isCmd 0 op) = some (u, 0)) ∧
    (cmd user 1 0x30000 0x1000 0).moving 0 5 0x30000 0x1000 = false ∧ (cmd user 1 0x30000 0x1000 0).engineHolds 0 5 0x30000 0x1000 = false := by
  refine ⟨by decide +kernel, by decide +kernel, by decide +kernel, by decide +kernel, ?_, by decide +kernel, by decide +kernel⟩
  intro op h
  simp only [List.mem_cons, List.not_mem_nil, or_false] at h
  rcases h with rfl | rfl | rfl | rfl | rfl <;> exact taken (by decide +kernel)
theorem found {r : State × Option Page} {g : Page} {P : State → Page → Prop} (h : r.2 = some g) (k : P r.1 g) : ∃ w g, r = (w, some g) ∧ P w g :=
  ⟨r.1, g, by rw [← h], k⟩
theorem test_meets_resolve : (∀ b : Bool, ((cmd (faulted mapped) 2 0 (if b then 1 else 0) 0).cmdWord 0 0 2).getLsbD 0 = b) ∧
    ((cmd (faulted mapped) 2 0 1 0).die 0).faults.find? (fun q => q.num == some ((cmd (faulted mapped) 2 0 1 0).cmdWord 0 0 1).toNat) = some fault ∧
    ((cmd user 2 0 1 0).die 0).faults.find? (fun q => q.num == some 0) = none ∧
    (∃ w g, (cmd (faulted mapped) 2 0 1 0).findPage 5 0x50000 = (w, some g) ∧ (w.pagePlace g 0x50000).isSome = true) :=
  ⟨by decide +kernel, by decide +kernel, by decide +kernel,
    found (g := { die := 0, size := 30, leaf := 0x33, home := none, nominal := 0, page := 0 }) (by decide +kernel) (by decide +kernel)⟩

/-- PagesMoveAndAgentsReset: the page at 0x3_0000 is to move to 0x4_0000 of the same die. -/
def move : State := cmd mapped 3 0x30000 0x40033 0
def mig (wv start : Nat) (host : Bool) : Mig :=
  { slot := 0, asid := 5, gva := 0x30000, size := 16, leaf := 0x40033, dst := 0, wv := wv, start := start, host := host, note := false }
def migrating (m : Mig) : State := mapped.modDie 0 fun d => { d with migs := [m] }
def movedPage : Page := { die := 0, size := 16, leaf := 0x20033, home := none, nominal := 0, page := 3 }
theorem test_meets_move : (move.die 0).migs.length < 16 ∧ move.moving 0 (move.cmdAsid 0 0) (gvaOff (move.cmdWord 0 0 1)) 1 = false ∧
    gvaDie (move.cmdWord 0 0 1) = 0 ∧ gvaDie 0x8000000000000 ≠ 0 ∧ (move.findPage 5 (move.cmdWord 0 0 1)).2 = some movedPage ∧
    (user.findPage 5 0x50000).2 = none ∧ move.pagePlace movedPage 0x30000 = some (.hbm 0 0x20000 true) ∧
    move.newPlace 0 16 (move.cmdWord 0 0 2) = some (.hbm 0 0x40000 true) ∧ move.mayMove 0 0 5 0x30000 movedPage (move.cmdWord 0 0 2) = true ∧
    (move.modDie 0 fun d => { d with objs := [(7, object true)] }).mayMove 0 0 5 0x30000 movedPage 0x40033 = false := by decide +kernel
theorem test_meets_move_apart (x y : Nat) (hx : x < 2 ^ 16) (hy : y < 2 ^ 16) : (Place.hbm 0 0x20000 true).key x ≠ (Place.hbm 0 0x40000 true).key y := by
  simp only [Place.key]; omega
theorem test_meets_commit : (∀ m, m ∈ [mig 0 0 false, mig 1 0 false, mig 0 0 true] →
      ((migrating m).die 0).migs.find? (fun q => q.slot == 0) = some m ∧ ((migrating m).findPage 5 0x30000).2 = some movedPage ∧
      (migrating m).engineHolds 0 5 (gvaOff 0x30000) (2 ^ 16) = false) ∧ field movedPage.leaf 40 24 = (mig 0 0 false).wv ∧
    (migrating (mig 0 0 false)).dieTime 0 - 0 ≤ 2 ^ 18 ∧ movedPage.size = (mig 0 0 false).size ∧
    (migrating (mig 0 0 false)).walk 0 5 (gvaOff 0x30000) = some { size := 30, word := 0x33, at_ := 0x9000 } ∧ 0x9000 + 8 ≤ TA := by
  refine ⟨?_, ?_⟩
  · intro m h
    simp only [List.mem_cons, List.not_mem_nil, or_false] at h
    rcases h with rfl | rfl | rfl <;> decide +kernel
  · decide +kernel
/-- No line of the page is dirty; one is. -/
def dirtied : State := (migrating (mig 0 0 false)).modDie 0 fun d =>
  { d with lines := [{ line := 0x400, holders := [0], dirty := some 0, back := 5, host := 0 }] }
theorem test_meets_discard : (∀ q ∈ (migrating (mig 0 0 false)).dies, ∀ x ∈ q.2.lines, x.dirty = none) ∧ (mig 0 0 false).dst = 0 ∧
    dirtied.pagePlace movedPage 0x30000 = some (.hbm 0 0x20000 true) ∧ (dirtied.findPage 5 0x30000).2 = some movedPage ∧
    meet (0x400 * 128) 128 0x20000 (2 ^ 16) = true ∧
    (∀ e ∈ (dirtied.die 0).tlb, e.leaf = e.loaded) ∧ (dirtied.discardLines 0 fun y => meet (y.line * 128) 128 0x20000 (2 ^ 16)).walk 0 5 (gvaOff 0x30000) =
      some { size := 30, word := 0x33, at_ := 0x9000 } ∧ 0x400 * 128 + 128 ≤ TA ∧ meet 0x9000 8 (0x400 * 128) 128 = false := by decide +kernel
/-- A translation that SCRUB writes back, and an access of the core whose agent it takes out of use. -/
def scrubbing : State := ((cmd user 4 4 0 0).setHbm64 0 0x1000 0x20033).modDie 0 fun d => { d with tlb := [{ page with leaf := 0x20073 }] }
def outstanding : State := ((cmd user 4 4 0 0).modCore 4 fun c => { c with accs :=
  [acc (.load (.x 9)) 0x30080] }).modStrand 16 fun k => { k with st := .ready }
theorem test_meets_scrub : (scrubbing.die 0).tlb = [{ page with leaf := 0x20073 }] ∧ ({ page with leaf := 0x20073 } : TlbEntry).leaf ≠ page.loaded ∧
    scrubbing.hbm64 0 page.at_ = page.loaded ∧ page.at_ + 8 ≤ TA ∧ (outstanding.core 4).accs = [acc (.load (.x 9)) 0x30080] ∧
      (outstanding.core 4).reqs = [] ∧
    (outstanding.strand 16).st ≠ .off ∧ outstanding.jobsOn (agentCores 0 4) = [] ∧ msixNo 0 1 ∉ (user.pkg 0).msixMask ∧
    (∃ u, outstanding.takeCmd 0 (outstanding.isCmd 0 4) = some (u, 0)) := by
  refine ⟨by decide +kernel, by decide +kernel, by decide +kernel, by decide +kernel, by decide +kernel, by decide +kernel, by decide +kernel,
    by decide +kernel,
    by decide +kernel, taken (by decide +kernel)⟩
theorem test_meets_agents : 0x438 < (0x439 : Word).toNat ∧ ((cmd user 4 4 0 0).cmdWord 0 0 1).toNat < 0x420 ∧
    (cmd user 4 4 0 0).jobsOn (agentCores 0 4) = [] ∧ (cmd user 4 0 0 0).jobsOn (agentCores 0 0) ≠ [] ∧ agentBit 0 4 < 128 ∧
    (∀ b ∈ ((user.modDie 0 fun d => { d with dead := [4] }).die 0).dead, b ≠ 4 → agentBit 0 b ≠ agentBit 0 4) := by decide +kernel

/-- JobsAreLaunchedSavedAndEnded: a packet of ASID 5 for two cores of its own package, with its template at GVA 0x3_0000, and packets that are
malformed or list more packages than are there; a table entry that accepts it. -/
def packet (n : Word) (l0 : Word) : List Word :=
  [n * 2 ^ 32 + 0x1000001, 0x1000500000001, 0x1000, 0x30000, 0, 0, 0x100000000, 0, l0, 0, 0, 0, 0, 0, 0, 0]
def allowing : State := (user.setHbm64 0 (TA + 0x310C00) 0xFFFF000000050001).setHbm64 0 (TA + 0x310C08) 0x1F
def queued : Packet := { words := packet 2 0, list := [(0, 2)], src := .job 5, arrival := 0, ticks := 0, resume := none }
def launching (cores : List Nat) : State := allowing.modPkg 0 fun k => { k with queues := [(3, [queued])], held := [(resvKey 0 3, cores)] }
theorem test_meets_packets : pktFormed (packet 2 0) = true ∧ pktFormed (packet 0 0) = false ∧ pktNpkg (packet 2 0) = 1 ∧
    user.pktList 0 (packet 2 0) ((plist (packet 2 0)).take 1) = some [(0, 2)] ∧
      user.pktList 0 (packet 5000 0) ((plist (packet 5000 0)).take 1) = none ∧
    user.aclAccepts 0 3 (.job 5) (packet 2 0) = false ∧ allowing.aclAccepts 0 3 (.job 5) (packet 2 0) = true ∧
    ((allowing.pkg 0).queue 3).length < 32 ∧ 32 ≤ ((allowing.modPkg 0 fun k => { k with queues :=
      [(3, List.replicate 32 queued)] }).pkg 0 |>.queue 3).length ∧
    (allowing.pkg 0).ready.getLsbD 76 = true ∧ (allowing.submit 0 3 (.job 5) (packet 2 0)).2 = some 0 ∧
      (user.submit 0 3 (.job 5) (packet 2 0)).2 = some 2 ∧
    (user.submit 0 3 (.host 1) (packet 2 0)).2 = some 2 ∧ ((user.pkg 0).window 1 3).busy = false ∧
    (((user.modPkg 0 fun k => k.setWindow 1 3 { k.window 1 3 with busy := true }).pkg 0).window 1 3).busy = true := by decide +kernel
/-- Lists with a reserved bit, more cores than the package has, and a wrong sum; a launch unit that has failed. -/
theorem test_meets_lists : ([0x20400] : List Nat).any (fun e => decide (e / 2 ^ 10 % 64 ≠ 0)) = true ∧ user.pkgCores 0 < 0x20000000 / 2 ^ 16 ∧
    (([0x10000] : List Nat).map fun e => e / 2 ^ 16).sum ≠ pktN (packet 2 0) ∧
      (([0x10000, 0x10000] : List Nat).map fun e => e / 2 ^ 16).sum = pktN (packet 2 0) ∧
    (∀ e ∈ ([0x10000, 0x10000] : List Nat), e / 2 ^ 10 % 64 = 0 ∧ e / 2 ^ 16 ≤ user.pkgCores (e % 2 ^ 10)) ∧
    (let s := user.modPkg 0 fun k => { k with ready := 0, refused := [76] }
     (s.pkg 0).ready.getLsbD 76 = false ∧ s.gone 0 76 = true) := by decide +kernel
/-- A candidate with PE of a higher priority than the resident job, for more cores than are free; and one gang more than a die's sets. -/
def urgent : Packet := { queued with words := 0x200081820001 :: (packet 2 0).drop 1, list := [(0, 0x2000)] }
theorem test_meets_victims : pktPe urgent.words = true ∧ pktPrio job.words < pktPrio urgent.words ∧ pktNp job.words = false ∧
    (let s := allowing.modPkg 0 fun k => { k with queues := [(3, [urgent])], held := [(resvKey 0 3, [])] }
     (s.victims urgent).map (·.1) = [1] ∧ s.reservedCores 0 3 urgent = some [] ∧ s.job 1 = some job ∧ job.preempt = false ∧ job.cores ≠ []) ∧
    256 ≤ ({ user with jobs := (List.range 256).map fun i => (i, job) } : State).setsOn 0 [] (fun _ => false) := by decide +kernel
/-- A gang of one core, with no worker, that has been saved, whose contexts at GVA 0x3_0000 hold zeros, in a page of 2 MiB, and the packet that
resumes it. -/
def gone : Job := { job with words := 0x100000001 :: (packet 1 0).drop 1, cores := [], saved := [0], ctx := List.replicate 4 0x30000,
                             list := [(0, 1)] }
def again_ : Packet := { queued with words := gone.words, list := [(0, 1)], resume := some 1 }
def resuming : State := withJob ((user.modPkg 0 fun k => { k with queues := [(3, [again_])], held := [(resvKey 0 3, [2])] }).modDie 0 fun d =>
  { d with tlb := [{ page with size := 21, page := 0, leaf := 0x200033, loaded := 0x200033 }] }) gone
theorem test_meets_restore : resuming.job 1 = some gone ∧ ((resuming.pkg 0).queue 3) = [again_] ∧
    resuming.reservedCores 0 3 again_ = some [2] ∧ pktN again_.words = 1 ∧
      resuming.planeOpen { gone with cores := [2], order := resuming.fresh } = true ∧
    (resuming.pkg 0).stopped = false ∧ (match (resuming.readSaved { gone with cores := [2], order := resuming.fresh } (List.range 1)).2 with
      | .ok _ => true
      | _ => false) = true := by
  decide +kernel
theorem test_meets_placement : ((launching []).pkg 0).queue 3 = queued :: [] ∧ (launching []).candidates 0 = [(3, queued)] ∧
    firstOf ((launching []).candidates 0) = some (3, queued) ∧ user.candidates 0 = [] ∧ (launching []).flight = [] ∧
    (∀ e ∈ queued.list, (launching []).neverHolds e.1 e.2 (pktPair queued.words) = false) ∧
    (launching []).pickCores 0 2 false (fun d => (launching []).dieOpen d [] (· == resvKey 0 3)) (launching []).freeCore = some [2, 3] ∧
      (launching []).pickCores 0 5000 false (fun d => (launching []).dieOpen d [] (· == resvKey 0 3)) (launching []).freeCore = none := by
  decide +kernel
theorem test_meets_residence : (launching []).reservedCores 0 3 queued = some [] ∧ ([] : List Nat).length ≠ pktN queued.words ∧
    (launching [2, 3]).reservedCores 0 3 queued = some [2, 3] ∧ [2, 3].length = pktN queued.words ∧ [2, 3].Nodup ∧
    (∃ c, (launching [2, 3]).jobFor 0 3 queued [2, 3] = some c ∧ (launching [2, 3]).planeOpen c.2 = true) ∧
    (∀ e ∈ [2, 3], ((launching [2, 3]).cluster (e / 32)).gated = false) ∧ (launching [2, 3]).setsOn 0 [] (fun _ => false) ≤ 256 ∧
    (match ((launching [2, 3]).template 0 queued).2 with | .ok _ => true | _ => false) = true := by
  refine ⟨by decide +kernel, by decide +kernel, by decide +kernel, by decide +kernel, by decide +kernel, ⟨_, rfl, rfl⟩, ?_, ?_, ?_⟩ <;> decide +kernel
def saving : State := stopped fun k => { k with st := .held, why := .preempted }
theorem test_meets_save : saving.job 1 = some leaving ∧ leaving.cores ≠ [] ∧ leaving.members.all leaving.returned.contains = false ∧
    (∀ i ∈ leaving.sids, (saving.strand i).pend = [] ∧ (saving.strand i).posted = [] ∧ (saving.strand i).midUnit = false ∧
      ((saving.strand i).st = .off ∨ (saving.strand i).st = .dormant ∨ (saving.strand i).st = .held ∧ (saving.strand i).why = .preempted)) ∧
    (∀ e ∈ leaving.cores, (saving.core e).accs = [] ∧ (saving.core e).side = [] ∧ (saving.core e).reqs = []) ∧
    saving.jobMoves leaving.cores 1 = false ∧ saving.isHeld (evOf leaving.cores 1) = false ∧ saving.engineWork leaving.cores = false := by
  decide +kernel
/-- Every worker has returned; a job without DONEA, and one with. -/
def done (b : Job) : Job := { b with returned := [0, 1] }
theorem test_meets_end : (user.modJob 1 done).job 1 = some (done job) ∧ (done job).members.all (done job).returned.contains = true ∧
    user.engineWork job.cores = false ∧ (∀ e ∈ job.cores, (user.core e).accs = [] ∧ (user.core e).side = []) ∧ pktDonea job.words = 0 ∧
    pktDonea ({ job with words := job.words.set 4 0x30000 } : Job).words ≠ 0 ∧ (user.hwStore 0 5 true 1 (pieces 0x30000 8)).2 = .value 0 ∧
    ((user.quiet 1 job.cores).hwStore 0 5 true 1 (pieces 0x30000 8)).2 = .value 0 ∧ (user.matrix 0).worker = none ∧
      (∀ e ∈ job.cores, e / 2 = 0) := by decide +kernel

/-- PowerSteps: a charge, at the head for 64 cycles; clusters at B2 whose request is held, and at nominal. -/
def charge : Charge := { req := 0, sid := none, pc := 0, cost := 24, since := 0, head := false, taken := false, bal := 0 }
def clustered (f : Cluster → Cluster) : State := user.modCluster 0 f
def boosted (level boost pool : Nat) (lim : Bool) : State :=
  ((clustered fun k => { k with level := level, clk := level }).modCore 0 fun c => { c with boost := boost }).modPkg 0 fun g =>
    { g with pool := pool, raised := true, limited := lim }
def charged : State := clustered fun k => { k with charges := [charge], time := 100 }
theorem test_meets_energy : (charged.cluster 0).charges = [charge] ∧ charge.sid = none ∧ charge.taken = false ∧ charge.head = false ∧
    ((charged.cluster 0).runTo (charged.clusterTime 0)).charges = [charge] ∧
    covers ((charged.cluster 0).runTo (charged.clusterTime 0)).tokens charge.cost = true ∧
    64 ≤ ((charged.cluster 0).runTo (charged.clusterTime 0)).time - charge.since := by decide +kernel
theorem test_meets_clocks : ((clustered fun k => { k with level := 2 }).cluster 0).level ≠ ((clustered fun k => { k with level :=
  2 }).cluster 0).clk ∧
    (clustered fun k => { k with level := 2 }).quiesced 0 = true ∧ Ev.clockSwitch 0 ∈ ({ user with flight := [.clockSwitch 0] } : State).flight ∧
    (∀ i, i < 32 → (user.core (5 * 32 + i)).job = none) ∧ (∀ l ∈ (user.die (5 / 16)).lines, l.dirty ≠ some (5 % 16)) ∧
    (user.cluster 5).gather = Engine.reset ∧ (∀ i, i < 16 → (user.tile (5 * 16 + i)).copy = Engine.reset ∧
      (user.tile (5 * 16 + i)).matrix = Matrix.reset) ∧
    (∃ i, i < 32 ∧ (user.core (0 * 32 + i)).job.isSome = true) := by
  refine ⟨?_, ?_, ?_, ?_, ?_, ?_, ?_, ⟨0, ?_⟩⟩ <;> decide +kernel
theorem test_meets_boost : (∀ i, i < user.dieCount 0 * 16 → i ≠ 0 → (user.cluster (0 * 128 + i)).level = 0 ∧ (user.cluster (0 * 128 + i)).clk = 0 ∧
      user.request_ (0 * 128 + i) = 0) ∧ ((boosted 2 2 2 false).cluster 0).level = 2 ∧ (boosted 2 2 2 false).request_ 0 = 2 ∧
    (boosted 2 2 0 false).request_ 0 = 2 ∧ ((boosted 0 2 1 true).cluster 0).level = 0 ∧ ((boosted 0 2 1 true).pkg 0).limited = true ∧
    ((boosted 0 2 1 false).pkg 0).pool = 1 ∧ ((boosted 0 2 1 false).cluster 0).clk = ((boosted 0 2 1 false).cluster 0).level ∧
    ((boosted 2 2 2 false).cluster 0).hot = false ∧ ((boosted 2 2 2 false).cluster 0).retd = false ∧ ((boosted 2 2 2 false).cluster 0).gated = false ∧
    ((boosted 2 2 2 false).cluster 0).vlim = false ∧ ((boosted 2 2 2 false).cluster 0).below = false ∧ ((boosted 1 1 0 false).cluster 0).level = 1 ∧
    1 ≤ (boosted 1 1 0 false).request_ 0 ∧ ((boosted 1 1 0 false).pkg 0).raised = true := by decide +kernel
/-- A head charge that the balance does not cover, and a cluster whose below-nominal clock is to be switched to. -/
theorem test_meets_head : covers (-9999) charge.cost = false ∧ 64 ≤ 64 - charge.since ∧ charge.taken = false ∧
    ((clustered fun k => { k with below := true }).cluster 0).clk ≠ 3 := by decide +kernel

/-- LinkSteps: a port with bytes to send, one that sends its buffer again, and flits of each kind. -/
def link (k : Port) : State := user.setPort 0 3 k
def flit (intact : Bool) (typ : BitVec 4) (nak : Bool) (seq ack : BitVec 12) : Flit :=
  { intact := intact, typ := typ, seq := seq, ack := ack, nak := nak, cred := 0, body := 7 }
def buffered : Port := { Port.reset with replay := [(0, 9)] }
theorem test_meets_ports : (link Port.reset).portUp 0 3 = true ∧ (link { Port.reset with state := 1 }).portUp 0 3 = false ∧
    ((link Port.reset).port 0 3).tx < 2 ^ 95 ∧ ((link Port.reset).port 0 3).resend = [] ∧
    ((link Port.reset).loadPort 0 3 ((link Port.reset).port 0 3)).out = [] ∧
    ((link { Port.reset with out := [1] }).loadPort 0 3 ((link { Port.reset with out := [1] }).port 0 3)).out ≠ [] ∧
    ((link { buffered with resend := [(0, 9)] }).port 0 3).resend = (0, 9) :: [] ∧ ((link buffered).port 0 3).replay = (0, 9) :: [] ∧
    (∀ x ∈ ((link buffered).port 0 3).replay, x.1 ≠ (flit true 1 false 0 5).ack) ∧ (flit true 0 false 0 0).ack = 0 ∧
    (flit true 1 false 0 5).seq = ((link buffered).port 0 3).last + 1 ∧ (flit true 1 false 1 5).seq ≠ ((link buffered).port 0 3).last + 1 ∧
    ((link { buffered with tries := 8 }).port 0 3).tries = 8 ∧ ((link { Port.reset with tx := 2 ^ 95, rx := 2 ^ 95 }).port 0 3).tx = 2 ^ 95 ∧
    (∀ e ∈ (link { Port.reset with state := 1 }).flight, (link { Port.reset with state := 1 }).usedFrom 0 3 e = none) ∧
    user.genTable (gateOf 0 3).1 (gateOf 0 3).2 = user.ownGen (gateOf 0 3).1 (gateOf 0 3).2 ∧
    (user.modDie (gateOf 0 3).1 fun d => { d with agents := [((gateOf 0 3).2, 1)] }).ownGen (gateOf 0 3).1 (gateOf 0 3).2 ≠
      user.genTable (gateOf 0 3).1 (gateOf 0 3).2 ∧ 2 < (flit true 3 false 0 0).typ.toNat ∧
    ((link { Port.reset with marker := true }).port 0 3).marker = true ∧ 512 ≤ (List.replicate 512 ((0 : BitVec 12), 9)).length := by decide +kernel
/-- A load to package 3 on its way over plane 3, unacknowledged, and a message to it that has not left. -/
def crossing : State := link { Port.reset with state := 1 } |>.modCore 0 fun c => { c with accs := [acc (.load (.x 9)) 0xC0000000030080] }
theorem test_meets_crossing : ({ crossing with flight := [.accessPerformed 0 7] } : State).usedFrom 0 3 (.accessPerformed 0 7) = some 0 ∧
    (({ crossing with flight := [.accessPerformed 0 7] } : State).port 0 3).passed (({ crossing with flight :=
      [.accessPerformed 0 7] } : State).carried
      (.accessPerformed 0 7)).1 = false ∧
    (({ Port.reset with loaded := [((0, 7), 100)], gone := 232 } : Port).passed (0, 7)) = true ∧
    ({ link Port.reset with flight := [.mailboxInsert { message with dest := 3 * 4096 }] } : State).leaves 0 3 0 (3 * 4096) = true ∧
    ((link Port.reset).port 0 3).loaded = [] := by decide +kernel

/-- HostSteps: offset 0x80 of the window, the table area, a sector that is poisoned, one package without a job and an image of it. -/
def empty : State := State.reset.modPkg 0 fun k => { k with stopped := true }
def image : Image := { poison := [], queues := [], jobs := [(3, job)], killed := [1] }
theorem test_meets_host : user.hdm 0 0x80 8 = some (0, 0x80) ∧ user.hdm 0 (8 * 0x1800000000) 8 = none ∧
  user.hdm 0 0x17FFFFFFF0 8 = some (0, 0x17FFFFFFF0) ∧
    (∀ c ∈ State.hostBits 0, user.gone 0 c = false ∧ user.ready 0 c = true) ∧ user.hostReach 0 0x80 8 = true ∧
    user.hostReach 0 0x17FFFFFFF0 8 = false ∧ user.poisoned (.hbm 0 0x80 true) 8 = false ∧
    ({ user with poison := [16] } : State).poisoned (.hbm 0 0x80 true) 8 = true ∧ user.hdm 0 (0x85 / 64 * 64) 64 = some (0, 0x80) ∧
    (user.modDie 0 fun d => { d with lines := [{ line := 1, holders := [], dirty := none, back := 0, host := 3 }] }).hostOwned 0 0x80 = true ∧
    user.hostReach 0 0x80 64 = true ∧ (user.pkg 0).stopped = false ∧ (empty.pkg 0).stopped = true ∧ (∀ c ∈ empty.jobs, c.2.on 0 = false) ∧
    job.on 0 = true ∧ ((user.modPkg 0 fun k => { k with refused := [77, 78], ready := 0 }).gone 0 77) = true ∧ user.ready 0 77 = true ∧
      user.gone 0 77 = false ∧
    ((user.modPkg 0 fun k => { k with armed := some { arm := true, ranges := [] } }).pkg 0).armed.isSome = true ∧ (user.pkg 0).armed = none ∧
      (user.pkg 0).image = none ∧
    ((user.modPkg 0 fun k => { k with image := some image }).pkg 0).image = some image ∧ (3, job) ∈ image.jobs ∧
    (image.jobs.map (·.1)).Nodup ∧ State.reset.maySet 0 79 = true ∧ State.reset.ready 0 79 = false ∧ State.reset.readyBit 0 79 = true ∧
    79 ∈ ((State.reset.modPkg 0 fun k => { k with failed := [79] }).pkg 0).failed ∧ (State.reset.pkg 0).failed = [] ∧
    ((State.reset.modPkg 0 fun k => { k with failed := [79] }).pkg 0).refused = [] ∧ field (empty.pkg 0).mbox 8 8 = 0 := by decide +kernel

/-- Safe tiers: none, a range on the package itself, one of package 1 that is not usable yet, one that is but has no page, and one of the
length of an image. -/
def tierOf (l : List Config.TierRange) : State := user.modPkg 0 fun k => { k with tier := { arm := false, ranges := l } }
def range_ (g : Word) (n : Nat) : Config.TierRange := { asid := 5, wld := false, gva := g, len := n }
def meets (s : State) : Option Bool :=
  match (s.readTier 0 ((tierUnits (s.pkg 0).tier.ranges).take 2)).2 with
  | .ok _ => none
  | .error .wait => some true
  | .error _ => some false
theorem test_meets_tier : (∀ r ∈ ((tierOf []).pkg 0).tier.ranges, gvaPkg r.gva ≠ 0) ∧ gvaPkg (range_ 0 65536).gva = 0 ∧
    meets (tierOf [range_ (2 ^ 54) 65536]) = some true ∧
    meets ((tierOf [range_ (2 ^ 54) 65536]).modPkg 1 fun k => { k with ready := BitVec.allOnes 128 }) = some false ∧
    ((user.modPkg 0 fun k => { k with mbox := 2 }).pkg 0).mbox = 2 ∧ field (2 : Word) 0 8 = 2 ∧ field (2 : Word) 8 8 = 0 ∧
    field (3 : Word) 0 8 = 3 ∧ field (3 : Word) 8 8 = 0 := by decide +kernel
theorem test_meets_tier_length : (tierUnits [range_ 0 ((imageUnits (user.dieCount 0) + 2) * 65536)]).length = imageUnits (user.dieCount 0) + 2 := by
  simp [tierUnits, range_, imageUnits]
theorem test_meets_tier_read : user.readTier 0 [] = (user, .ok []) := rfl

/-- StepRunsTheDecodedInstruction: strand 0 before GVA 0x3_0080 with ADDI x5, x5, -1 and FADD x8, x8, x7 there (R52), waits 2; the unit runs. -/
def placed (w : Nat) : State := (user.modArch fun a => { a with pc := 0x30080 }).writeAt (.hbm 0 0x20080 true) 8 w
def unit : IssueUnit := .pair 2 (.addi 5 5 (-1)) (.fadd 8 8 7 .dyn .f64)
theorem test_meets_step : (placed 0x10420FC0224A5FFF).agenda = [] ∧ (placed 0).active (placed 0).focus = some 0 ∧
  (placed 0).dispatchPending 0 = false ∧
    (placed 0).boundary 0 = none ∧ ((placed 0x10420FC0224A5FFF).fetch 0).2 = .words 0x224A5FFF 0x10420FC0 ∧
    decodeUnit (field ((placed 0x10420FC0224A5FFF).fetch 0).1.arch.pc 0 3 == 4) 0x224A5FFF 0x10420FC0 = .ok unit ∧
    waitsOn ((placed 0).strand 0).pend ((placed 0).strand 0).xop 10 unit = [] ∧ (∀ i, i < 4 → ((placed 0).strand i).rlqs = []) ∧
      (placed 0).arch.chk = false ∧ user.cur.st = .active ∧
    user.unit.status = .running := by
  refine ⟨rfl, by decide +kernel, by decide +kernel, rfl, by decide +kernel, rfl, ?_⟩
  decide +kernel
theorem runs {r : Res} (h : (match r with | .next t => Memory.wf t.mem && t.unit.status == .running | _ => false) = true) :
    ∃ t, r = .next t ∧ Memory.wf t.mem = true := by
  cases r <;> simp_all
/-- MemoryStaysCanonical: a step from such a state answers a next state. -/
theorem test_step_runs : ∃ t, step (placed 0x10420FC0224A5FFF) = .next t ∧ Memory.wf t.mem = true := runs (by decide +kernel)

/-- The words that DecodingInvertsEncoding and WritesAreReadBack are about: an instruction of each form, and places. -/
theorem test_meets_encoding : (Instr.addi 5 5 (-1)).wellFormed = true ∧ encodeCBits (.addi 5 5 (-1)) = some 0x24A5FFF ∧
    encode (.addi 5 5 (-1)) = some [0x824A5FFF] ∧ (Instr.fadd 8 8 7 .dyn .f64).wellFormed = true ∧
    encodeA (.fadd 8 8 7 .dyn .f64) = some 0x10420FC0 ∧ encode (.fadd 8 8 7 .dyn .f64) = some [0x00400000, 0x10420FC0] ∧
    decodeCBits 0x24A5FFF = some (.addi 5 5 (-1)) ∧ decodeA 0x10420FC0 = some (.fadd 8 8 7 .dyn .f64) := by decide +kernel
theorem test_meets_places : 6 ≤ 6 ∧ 0xFFFFE + 2 ≤ 2 ^ 20 ∧ (5 * 8 + 3 : Nat) / 8 = 5 ∧ Memory.wf (placed 0x10420FC0224A5FFF).mem = true ∧
    (∃ t, (placed 0x10420FC0224A5FFF).mem = t ∧ t ≠ []) := by
  refine ⟨by decide, by decide, by decide, by decide +kernel, _, rfl, by decide +kernel⟩

/-- A watchdog that runs out in 3 cycles; C and A words that wait, and an A word and a C word that do not. -/
def watched : State := (user.modCore 0 fun c => { c with wdog := 3 }).modStrand 1 fun k => { k with st := .ready }
def status (r : Res) : Option UnitStatus := match r with
  | .next t => some t.unit.status
  | _ => none
theorem test_meets_watch : watched.watchRoom 0 = some 3 ∧ watched.arch.ahead = false := by decide +kernel
theorem test_meets_pairs : status (exec (.semwait 3) user) = some .waiting ∧ status (exec (.fadd 8 8 7 .dyn .f64) user) = some .running ∧
    status (exec (.addi 5 5 (-1)) user) = some .running ∧
    status (exec (.vadd 3 1 2 .f32) ((user.modCluster 0 fun k => { k with tokens := -9999 }))) = some .waiting := by decide +kernel

end Sys2Proof.Tests
end

section
/-!
PROOFS. Integer arithmetic (R79, R82-R84, R86): the words that the meanings compute, written as numbers modulo 2^64, and the
results that land with them.
-/
namespace Sys2Proof.Machine

open Sys2Proof

/-! ## Results due later -/

theorem Pend.ready_mono {p : Pend} {c e : Nat} (hce : c ≤ e) (h : p.ready c = true) : p.ready e = true := by
  unfold Pend.ready at h ⊢
  cases hd : p.due with
  | none => simp [hd] at h
  | some t =>
    simp only [hd, decide_eq_true_eq] at h ⊢
    omega

/-- A register whose older results are due by one cycle is settled at every later one (R44). -/
theorem State.settled_mono {s : State} {r : Reg} {c e : Nat} (hce : c ≤ e) (h : s.settled r c) : s.settled r e :=
  fun p hp hr => Pend.ready_mono hce (h p hp hr)

/-! ## Words as numbers modulo 2^64 -/

theorem word_shiftLeft_eq_mul (a : Word) (n : Nat) : a <<< n = a * BitVec.ofNat 64 (2 ^ n) := by
  apply BitVec.eq_of_toNat_eq
  simp [Nat.shiftLeft_eq]

theorem ofNat_add_scaled (a b : Word) (n : Nat) : BitVec.ofNat 64 (a.toNat + b.toNat * 2 ^ n) = a + b <<< n := by
  rw [BitVec.ofNat_add, BitVec.ofNat_mul, BitVec.ofNat_toNat, BitVec.ofNat_toNat, BitVec.setWidth_eq, BitVec.setWidth_eq,
    word_shiftLeft_eq_mul]

theorem ofInt_sub_words (a b : Word) : BitVec.ofInt 64 (a.toInt - b.toInt) = a - b := by
  rw [Int.sub_eq_add_neg, BitVec.ofInt_add, BitVec.ofInt_neg, BitVec.ofInt_toInt, BitVec.ofInt_toInt, BitVec.sub_eq_add_neg]

theorem ofInt_add_simm (a : Word) (imm : BitVec 12) : BitVec.ofInt 64 (a.toInt + imm.toInt) = a + simm imm := by
  rw [BitVec.ofInt_add, BitVec.ofInt_toInt]
  rfl

/-- The word of LUI: the immediate, sign-extended, 12 places up (R86). -/
theorem ofInt_lui (imm : BitVec 17) : BitVec.ofInt 64 (imm.toInt * 2 ^ 12) = imm.signExtend 64 <<< 12 := by
  rw [BitVec.ofInt_mul, word_shiftLeft_eq_mul]
  rfl

theorem ofNat_mul_words (a b : Word) : BitVec.ofNat 64 (a.toNat * b.toNat) = a * b := by
  rw [BitVec.ofNat_mul, BitVec.ofNat_toNat, BitVec.ofNat_toNat, BitVec.setWidth_eq, BitVec.setWidth_eq]

/-- The GVA of GADDR by its two fields (R83). -/
theorem gaddrOf_eq (a b : Word) :
    gaddrOf a b = BitVec.ofNat 64 (a.toNat / 2 ^ 9 % 2 ^ 13 * 2 ^ 51 + b.toNat % 2 ^ 51) := by
  simp only [gaddrOf, field, Nat.pow_zero, Nat.div_one]

/-! ## The statement -/

/-- Settles O1: each meaning sets off one fixed-latency result whose word is the number stated; those of latency 3 use that a
register settled at the next cycle stays settled. -/
theorem integerArithmeticResults : Obligations.IntegerArithmeticResults := by
  unfold Obligations.IntegerArithmeticResults
  intro s d a b h1
  have h3 : s.settled (.x d) (s.unit.now + 3) := State.settled_mono (by omega) h1
  refine ⟨?add, ?sub, fun sh => ?adds, fun imm => ?addi, fun imm => ?lui, ?gaddr, ?mul, ?mulh, ?mulhu⟩
  case add => rw [← BitVec.add_def]; exact givesX_wx rfl h1
  case sub => rw [ofInt_sub_words]; exact givesX_wx rfl h1
  case adds => rw [ofNat_add_scaled]; exact givesX_wx rfl h1
  case addi => rw [ofInt_add_simm]; exact givesX_wx rfl h1
  case lui => rw [ofInt_lui]; exact givesX_wx rfl h1
  case gaddr => rw [← gaddrOf_eq]; exact givesX_wx rfl h1
  case mul => rw [ofNat_mul_words]; exact givesX_wx rfl h3
  case mulh => exact givesX_wx rfl h3
  case mulhu => exact givesX_wx rfl h3

end Sys2Proof.Machine
end

section
/-!
PROOFS. Loops (R102-R106): setting a level up, leaving one, and the loop-end event of each level.
-/
namespace Sys2Proof.Machine

open Sys2Proof

/-! ## Setting up and leaving -/

/-- An instruction that answers ILLEGAL_INSTR for a reason other than its encoding traps with that reason (R113). -/
theorem traps_of_illegal {i : Instr} {s : State} (why : Nat) (he : exec i s = .next (s.illegal why)) :
    Traps i s cIllegal (BitVec.ofNat 64 (0x10000 + why)) :=
  traps_of (by decide) he

theorem State.loop_of_empty {s : State} {len : BitVec 9} (lv : Bool) (n : BitVec 32)
    (h : 4 * len.toNat ≤ (if s.unit.lone then 4 else 8)) : s.loop lv n len = s.illegal 3 :=
  if_pos h

theorem State.loop_of_body {s : State} {len : BitVec 9} (lv : Bool) (n : BitVec 32)
    (h : (if s.unit.lone then 4 else 8) < 4 * len.toNat) :
    s.loop lv n len =
      let e := s.unit.pc + BitVec.ofNat 64 (4 * len.toNat)
      let t := s.modArch fun a => a.setLoop lv n s.unit.next e
      if n = 0 then t.jump e else t :=
  if_neg (Nat.not_le.2 h)

/-- LOOP and LOOPR with a count n: an empty body is refused; else the level is set up, and a count of zero skips the body (R102). -/
theorem loop_outcomes {i : Instr} {s : State} {lv : Bool} {n : BitVec 32} {len : BitVec 9}
    (he : exec i s = .next (s.loop lv n len)) :
    let e := s.unit.pc + BitVec.ofNat 64 (4 * len.toNat)
    (4 * len.toNat ≤ (if s.unit.lone then 4 else 8) → Traps i s cIllegal 0x10003) ∧
    ((if s.unit.lone then 4 else 8) < 4 * len.toNat →
      (n ≠ 0 → SetsArch i s fun r => r.setLoop lv n s.unit.next e) ∧
      (n = 0 → exec i s = .next { (s.modArch fun r => { r.setLoop lv n s.unit.next e with pc := e }) with
        unit := { s.unit with status := .jumped } })) := by
  refine ⟨fun hempty => ?_, fun hbody => ⟨fun hn => ?_, fun hn => ?_⟩⟩
  · rw [State.loop_of_empty lv n hempty] at he
    exact traps_of_illegal 3 he
  · rw [State.loop_of_body lv n hbody] at he
    exact he.trans (congrArg _ (if_neg hn))
  · rw [State.loop_of_body lv n hbody] at he
    exact (he.trans (congrArg _ (if_pos hn))).trans (congrArg _ (State.jump_modArch _ _ _))

/-- The count of a loop level (R102); `lv` names level 1. -/
def Arch.loopCount (a : Arch) (lv : Bool) : BitVec 32 := if lv then a.lc1 else a.lc0

theorem traps_lexit {s : State} {lv : Bool} (h : s.arch.loopCount lv = 0) : Traps (.lexit lv) s cIllegal 0x10004 :=
  traps_of_illegal 4 (congrArg _ (if_pos h))

theorem exec_lexit_zero {s : State} (h : s.arch.lc0 ≠ 0) : exec (.lexit false) s = .next
    { (s.modArch fun r => { r with lc0 := 0, pc := s.arch.le0 }) with unit := { s.unit with status := .jumped } } :=
  congrArg _ ((if_neg h).trans (State.jump_modArch _ _ _))

theorem exec_lexit_one {s : State} (h : s.arch.lc1 ≠ 0) : exec (.lexit true) s = .next
    { (s.modArch fun r => { r with lc1 := 0, pc := s.arch.le1 }) with unit := { s.unit with status := .jumped } } :=
  congrArg _ ((if_neg h).trans (State.jump_modArch _ _ _))

/-! ## The loop-end event -/

/-- The loop-end event of level 0 alone (R103). -/
def loopEndZero (e : Word) (a : Arch) : Arch :=
  if a.lc0 ≠ 0 ∧ a.le0 = e then
    (if a.lc0 = 1 then { a with lc0 := 0, pc := a.le0 } else { a with lc0 := a.lc0 - 1, pc := a.ls0 })
  else a

theorem loopEndZero_last {e : Word} {a : Arch} (hc : a.lc0 = 1) (he : a.le0 = e) :
    loopEndZero e a = { a with lc0 := 0, pc := e } := by
  rw [loopEndZero, if_pos ⟨by rw [hc]; decide, he⟩, if_pos hc, he]

theorem loopEndZero_again {e : Word} {a : Arch} (h0 : a.lc0 ≠ 0) (h1 : a.lc0 ≠ 1) (he : a.le0 = e) :
    loopEndZero e a = { a with lc0 := a.lc0 - 1, pc := a.ls0 } := by
  rw [loopEndZero, if_pos ⟨h0, he⟩, if_neg h1]

theorem loopEndZero_off {e : Word} {a : Arch} (h : a.lc0 = 0 ∨ a.le0 ≠ e) : loopEndZero e a = a :=
  if_neg fun ⟨hc, he⟩ => h.elim hc (· he)

/-- Level 1 is evaluated first, and level 0 only where level 1 does not go back (R104). -/
theorem loopEnd_eq (e : Word) (a : Arch) :
    loopEnd e a =
      if a.lc1 ≠ 0 ∧ a.le1 = e then
        (if a.lc1 = 1 then loopEndZero e { a with lc1 := 0, pc := a.le1 } else { a with lc1 := a.lc1 - 1, pc := a.ls1 })
      else loopEndZero e a := rfl

theorem loopEnd_of_again {e : Word} {a : Arch} (h0 : a.lc1 ≠ 0) (h1 : a.lc1 ≠ 1) (he : a.le1 = e) :
    loopEnd e a = { a with lc1 := a.lc1 - 1, pc := a.ls1 } := by
  rw [loopEnd_eq, if_pos ⟨h0, he⟩, if_neg h1]

theorem loopEnd_of_last {e : Word} {a : Arch} (hc : a.lc1 = 1) (he : a.le1 = e) :
    loopEnd e a = loopEndZero e { a with lc1 := 0, pc := e } := by
  rw [loopEnd_eq, if_pos ⟨by rw [hc]; decide, he⟩, if_pos hc, he]

theorem loopEnd_of_off {e : Word} {a : Arch} (h : a.lc1 = 0 ∨ a.le1 ≠ e) : loopEnd e a = loopEndZero e a := by
  rw [loopEnd_eq, if_neg fun ⟨hc, he⟩ => h.elim hc (· he)]

/-! ## The statement -/

/-- Settles O17: LOOP and LOOPR are the shared set-up of a level with their count, LEXIT is a change of LCn and a jump, and the
loop-end event is that of level 1 followed, where it does not go back, by that of level 0. -/
theorem loopsRunAndEnd : Obligations.LoopsRunAndEnd := by
  unfold Obligations.LoopsRunAndEnd
  refine ⟨fun s a cnt len => ⟨fun lv => loop_outcomes rfl, fun lv => loop_outcomes rfl, exec_lexit_zero, exec_lexit_one,
    fun h => traps_lexit h, fun h => traps_lexit h⟩, fun a e => ?_⟩
  refine ⟨fun h0 he h1 => loopEnd_of_again h0 h1 he, fun hoff h0 he h1 => ?_, fun hoff h1 he => ?_, fun h1 he hoff => ?_,
    fun h1 he c0 c1 he0 => ?_, fun h1 he c1 he0 => ?_, fun hoff1 hoff0 => ?_⟩
  · exact (loopEnd_of_off hoff).trans (loopEndZero_again h0 h1 he)
  · exact (loopEnd_of_off hoff).trans (loopEndZero_last h1 he)
  · exact (loopEnd_of_last h1 he).trans (loopEndZero_off hoff)
  · exact (loopEnd_of_last h1 he).trans (loopEndZero_again c0 c1 he0)
  · exact (loopEnd_of_last h1 he).trans (loopEndZero_last c1 he0)
  · exact (loopEnd_of_off hoff1).trans (loopEndZero_off hoff0)

end Sys2Proof.Machine
end
